-- ==== Sys2Proof/Word.lean ====
section
/-!
DEFINITION. The plain types of the model: words, the numbers that name units (R11, R12), and the operand types that
commands carry. No arithmetic that a rule of the spec fixes stands here.
-/

namespace Sys2Proof

abbrev Byte := BitVec 8
abbrev Word := BitVec 32
abbrev DWord := BitVec 64
/-- A tensor instruction word (R192). -/
abbrev TWord := BitVec 128
/-- A Descriptor Table entry, 32 bytes, word 0 in the lowest bits (R201). -/
abbrev Desc := BitVec 256

/-- Device-wide core ID (R12). -/
abbrev CoreId := Fin 256
/-- Cluster ID (R12). -/
abbrev ClId := Fin 32
abbrev DieId := Fin 4
/-- PCIe function: 0 is PF0, 1 to 7 are the VFs (R396). -/
abbrev FnId := Fin 8
abbrev PartId := Fin 8
abbrev PortId := Fin 24
abbrev StackId := Fin 24

/-- A sparse map: keys strictly rising, and no entry equal to what an unlisted key holds. -/
abbrev SMap (α : Type) := List (Nat × α)

/-- The six engines of a core, in the order of the `ENGINE` codes 0 to 5 (R194). -/
inductive Eng where
  | fwd | bwd | vec | cvt | gth | xfr
  deriving DecidableEq, Repr

/-- The `ENGINE` code (R194). -/
def Eng.num : Eng → Nat
  | .fwd => 0
  | .bwd => 1
  | .vec => 2
  | .cvt => 3
  | .gth => 4
  | .xfr => 5

/-- One failing check of an array's output tile (R109, R131): the stream block, the pass in which the mismatch was
found, and, where the recomputation fails too, the pass of the recomputation. -/
structure CheckFail where
  block : Nat
  pass : Nat
  again : Option Nat
  deriving DecidableEq, Repr

/-- Where an error strikes inside an array while it computes an output tile (R108, R130). -/
inductive ArrayErr where
  /-- A weight or an activation flips after its check weight was taken, or a group sum goes wrong: the exact sum of a
  group, for a stream row and a column, is off by `err` × 2^`exp` (`exp` counts in the Backward Array only). -/
  | sum (row col group : Nat) (err exp : Int)
  /-- The significand of a band product, or of the sum of the `nth` addition of an entry, is off by `err`. -/
  | mod3 (row col nth : Nat) (product : Bool) (err : Int)
  /-- Bits of a 64-bit segment of a stream row flip between the Scratchpad and the left edge of row 0, in a pass. -/
  | parity (row pass seg : Nat) (flips : DWord)
  deriving DecidableEq, Repr

/-- An error in an array: the stream block, whether it strikes the recomputation, and where. -/
structure ArrayFault where
  block : Nat
  again : Bool
  err : ArrayErr
  deriving DecidableEq, Repr

/-- A detection of R307 while an instruction read its operands. -/
inductive Detection where
  /-- A Data Cache line, by its 256-byte block, failed its parity. -/
  | cacheParity (block : Nat)
  /-- A word of a Scratchpad or of Cluster Memory, by its device physical address, failed its parity. -/
  | sramParity (addr : Nat)
  /-- The CRC-32C of a transfer segment at an address failed in this many of its four sendings. -/
  | segment (addr : Nat) (fails : Fin 5)
  /-- The device CRC of an HBM block failed in this many of its three reads. -/
  | device (block : Nat) (fails : Fin 4)
  /-- A Furl tile decoded with an error at its first reading; the second was without one, or, with an address, failed too for the
  block at that address, whose producer then writes it again (R307). -/
  | furl (again : Option Nat)
  deriving DecidableEq, Repr

/-- What the hardware's timing, its faults and the outside decide while a tensor instruction runs: errors in the arrays,
detections, cycles in which the engine stalls (an array: no stream row issues; the Vector Engine: the head's token waits), cycles in which its engine found no free miss register or
transfer tag, the segments of a transfer that land in steps of their own, the bytes that a host or peer source returns, and for a
KVREAD whose walk began before generations were made, their number and the sequence's `ALEN` at its start (R318, R326).
-/
structure Env where
  faults : List ArrayFault
  hits : List Detection
  stall : Nat
  hold : Nat
  apart : List Nat
  ext : List Byte
  walk : Option (Nat × Nat)
  deriving DecidableEq, Repr

/-- Nothing out of the way. -/
def Env.quiet : Env := ⟨[], [], 0, 0, [], [], none⟩

/-- A request of a core to an HBM controller: a read under a miss register, a read under a transfer tag, or a write (R286,
R289). -/
inductive ReqKind where
  | miss | tag | write
  deriving DecidableEq, Repr

/-- A request that arrives at a controller: core, 256-byte block and kind (R286). -/
structure Arrival where
  core : CoreId
  block : Nat
  kind : ReqKind
  deriving DecidableEq, Repr

/-- What carries a received frame (R349, R353): a Direct header with the link's checks, or an Ethernet envelope with
the fields and checks of R354. -/
inductive Link where
  | direct (rdst ttl vc lseq : Nat) (crcOk stomp : Bool)
  | ether (dmac : BitVec 48) (fcsOk udp6 : Bool) (addr : BitVec 128) (uport : BitVec 16) (extHdr sumOk ce : Bool)
  deriving DecidableEq, Repr

/-- A received transport frame (R345, R348): its carrier, its 32-byte header with word 0 in the lowest bits, its
payload data, and whether every payload CRC holds. -/
structure Frame where
  link : Link
  hdr : BitVec 256
  data : List Byte
  crcOk : Bool
  deriving DecidableEq, Repr

/-- An access to a page of BAR2 (R402): a read, or a write of `size` bytes `shift` bytes beyond the row's own doorbell. -/
inductive Bar2 where
  | read
  | write (shift size : Nat) (v : Word)
  deriving DecidableEq, Repr

/-- An access to BAR0: its offset and its size in bytes (R555). -/
structure BarAt where
  off : Nat
  size : Nat
  deriving DecidableEq, Repr

/-- A segment lands: how many of its up to four sendings failed their CRC-32C, and for how many cycles an engine found no
transfer tag meanwhile (R290, R307). -/
structure Landing where
  fails : Fin 5
  cycles : Nat
  deriving DecidableEq, Repr

/-- A stalled flush of a core is tried again: the start generations of the walks in progress, and the cycles for which it
waits (R319, R330, R341). -/
structure FlushTry where
  core : Fin 8
  walks : List Word
  cycles : Nat
  deriving DecidableEq, Repr

/-- A qualifying edge of STEP_SYNC: how long each partition's ready step has waited, in microseconds, and the level sampled
then (R390). -/
structure SyncEdge where
  waited : List Nat
  level : Bool
  deriving DecidableEq, Repr

/-- What other members of a parity group send for one of this member's slots: chunks of its pages, and of its constant pages
(R433, R436, R445). -/
structure Shares where
  pages : List (List (Nat × Byte))
  consts : List (List (Nat × Byte))
  deriving DecidableEq, Repr

/-- What the other members of the job hold for one `TID` at the end of a step (R74). -/
structure TidSum where
  tid : Word
  max : Word
  sat : Nat
  van : Nat
  ovf : Bool
  posted : Bool
  deriving DecidableEq, Repr

/-- The other members' channel statistics of one `TID` (R83). -/
structure TidStat where
  tid : Word
  stats : List Word
  deriving DecidableEq, Repr

/-- What comes with a step's verdict: the other members' channel statistics, and the watch points' observations of this step
(R84, R186). -/
structure StepFacts where
  stats : List TidStat
  obs : List (Fin 512 × Word)
  deriving DecidableEq, Repr

/-- Values that the job's reductions and the clock give a metrics record (R393): the loss sum and its tokens, n2 of R164, the
image's metrics, and the time since the previous boundary. -/
structure Metrics where
  loss : Word
  lossN : Word
  gnorm2 : Word
  user : List Word
  us : Nat
  deriving DecidableEq, Repr

/-- One narrow copy that a job's start writes (R385): core, Descriptor Table index of the destination, source and
destination. -/
structure Narrow where
  core : CoreId
  idx : Nat
  src : Desc
  dst : Desc
  deriving DecidableEq, Repr

/-- A Collective Table entry of a plan (R364, R380): its die, its `CID`, the split reduction of REDUCTIONS that it serves, which gives
`D`, `NLEVEL`, `NFMT`, `NGSIZE` and `RNARROW` (R376), and its other words as the image gives them. -/
structure ColEntry where
  die : DieId
  cid : Fin 4096
  red : Option Nat
  words : List Word
  deriving DecidableEq, Repr

/-- What orders 5 and 6 of R380 place on this device, and what Kweand's image has Moasozil load (R380 to R387, R429, R430, R461).
How these follow from the image is not given; they come with the command that computes the plan. -/
structure Plan where
  /-- State pages and constant pages, by number in units of 64 KiB. -/
  pages : List Nat
  consts : List Nat
  /-- Snapshot Slots and Parity Slots. -/
  slot0 : Nat
  slot1 : Nat
  parity0 : Nat
  parity1 : Nat
  /-- Where the captured constant pages and their parity are kept (R430). -/
  constAt : Nat
  constParity : Nat
  /-- The two Boundary Record areas (R461). -/
  brec0 : Nat
  brec1 : Nat
  /-- State pages and constant pages of every member's image, by rank (R433). -/
  images : List (Nat × Nat)
  /-- Optimizer parameter blocks (R212): address, and a `TID` of the block's group of tensors. -/
  params : List (Nat × Word)
  /-- Shard accumulators, as byte ranges, each with its tensor's `TID` (R166). -/
  accums : List (Word × Nat × Nat)
  /-- Narrow weight copies as byte ranges, and those that the start writes. -/
  wcopies : List (Nat × Nat)
  narrow : List Narrow
  /-- Reef Table entries: cluster, entry and words. -/
  reef : List (ClId × Nat × List Word)
  banks : List (ClId × Word)
  /-- Cluster and die flags, and setter groups (key 2 × flag + group), by cluster or die. -/
  flags : List (ClId × Nat × Word)
  dflags : List (DieId × Nat × Word)
  groups : List (ClId × Nat × Word)
  dgroups : List (DieId × Nat × Word)
  norms : List (Nat × List Word)
  cols : List ColEntry
  /-- Descriptor Table entries that name the learning-rate table, by core (R212, R376). -/
  lrts : List (CoreId × Nat)
  /-- Bytes of the device map: tables and parameter blocks. -/
  bytes : List (Nat × List Byte)
  /-- Setup registers, by BAR0 offset. -/
  regs : List (Nat × Word)
  /-- Chanter code for Instruction Memory slot A. -/
  code : List (ClId × List Byte)
  deriving DecidableEq, Repr

/-- A layer of the image's graph (R380, R382): forward FLOPs and bytes of saved activations, of one micro-batch. -/
structure LayerFact where
  flops : Nat
  act : Nat
  deriving DecidableEq, Repr

/-- What orders 3, 5 and 6 of R380 give for one shape (stages, data-parallel and tensor-parallel width) with some of R382's measures
(optimizer sharding, peer offload, host offload). -/
structure Trial where
  shape : Nat × Nat × Nat
  shard : Bool
  peer : Bool
  host : Bool
  /-- By layer: tensor-parallel ways, sequence-parallel ways and expert-parallel ways. -/
  splits : List (Nat × Nat × Nat)
  /-- `TID`, address and `SPACE` of the tensors that have their home on this device. -/
  homes : List (Word × Nat × Nat)
  /-- Clusters of this device that a layer has. -/
  clusters : List (Nat × Word)
  /-- `TID`, target rank or 0xFFFF_FFFF, and MiB. -/
  offloads : List (Word × Word × Nat)
  /-- INIT areas: `TID` and address. -/
  inits : List (Word × Nat)
  /-- The two input buffers. -/
  inputs : Nat × Nat
  /-- Resources 1 to 5 of NOFIT records: needed, available. -/
  uses : List (Fin 5 × Nat × Nat)
  /-- The whole plan as the bytes over which its digest is taken (R381). -/
  whole : List Byte
  plan : Plan
  deriving DecidableEq, Repr

/-- What the Placement Engine takes from the image, and what the ALLGATHER brings (R380): layers in graph order, whether labels are
fed, the healthy-cluster masks of the members by rank, the address of the Placement Report, and the trials. -/
structure PlanFacts where
  layers : List LayerFact
  labels : Bool
  masks : List Word
  report : Nat
  trials : List Trial
  deriving DecidableEq, Repr

/-- What a member brings to the rejoin's collective (R471): its plan's digest and the step to replay. -/
structure RejoinVote where
  digest : DWord
  step : Word
  deriving DecidableEq, Repr

/-- What the module meets during a start (R483): REFCLK, straps, sensors, training and tests. -/
structure StartEnv where
  refclk : Bool
  /-- Every die's sensor reads 0 °C or more (R547). -/
  warm : Bool
  cool : BitVec 2
  modId : BitVec 4
  /-- The AON entropy source, and the new nonce. -/
  entropy : BitVec 16
  nonce : BitVec 128
  /-- A tamper sensor that was tripped in phases 1 to 6 (R519): 0 RAIL, 1 CLOCK, 2 COLD, 3 SHIELD, and its die. -/
  tamper : Option (Fin 4 × DieId)
  /-- Bit s: stack s failed its training; whether every stack left self-refresh in order (R478). -/
  stackFail : BitVec 24
  selfRefresh : Bool
  /-- Bit d: die d's Masthead failed its start tests; bit c: cluster c failed the array test. -/
  mastFail : BitVec 4
  arrayFail : Word
  /-- Calibration: load in W, and the rise of each die's hottest sensor in 0.1 °C (R530). -/
  load : Nat
  rises : List Nat
  /-- What Moasozil writes to `MEM_CTRL.ILV` of each die between phases 7 and 9 (R309). -/
  ilv : BitVec 4
  /-- What the Placement Engine takes from the image for a rejoiner's plan (R380, R471). -/
  facts : PlanFacts
  deriving DecidableEq, Repr

/-- What the governor's sensors read at a 1 ms loop (R533 to R535, R550): voltage in 10 mV, current in 10 mA, mean
and peak power in W, the power loop's duty for each die, and the hottest sensor of each die in °C. -/
structure Sense where
  vin : Nat
  iin : Nat
  pavg : Nat
  peak : Nat
  want : List Nat
  tj : List Int
  deriving DecidableEq, Repr

/-- Who makes a register access (R556): a PCIe function of the host, or a Masthead. -/
inductive Req where
  | host (fn : FnId)
  | masthead (die : DieId)
  deriving DecidableEq, Repr

/-- Who makes a pseudo-channel's recalibration start (R447, R448): a command, or Moasozil on its own, at a device CRC error rate over
some reads, or at a drift of temperature. -/
inductive RecalBy where
  | command (req : Req)
  | rate (reads errors : Nat)
  | drift
  deriving DecidableEq, Repr

/-- What Telltale measures on a die at a tick (R425): the hottest sensor in whole °C, from which mT follows, and the other two
margins, none for mL when no lane is up. -/
structure Margins where
  tj : Int
  mv : Int
  ml : Option Int
  /-- Subjects of the level records: sensor, rail, and port × 4 + lane. -/
  sensor : Nat
  rail : Nat
  lane : Nat
  deriving DecidableEq, Repr

/-- What a snapshot or a Boundary Record holds beside state pages (R429, R461): the step that follows, the Reef Table
and loss scale of each of the job's clusters, the skipped-step count, and the optimizer parameter blocks. -/
structure Capture where
  step : Word
  reef : List (Nat × SMap Word)
  ls : List (Nat × Word)
  skips : Nat
  params : List (Nat × List Byte)
  deriving DecidableEq, Repr

/-- What a member's parity group rebuilds (R433, R439, R445). -/
inductive Rebuilt where
  /-- An image: the pages, as bytes at addresses of the device map, and the at-capture items. -/
  | image (pages : List (Nat × List Byte)) (head : Capture)
  /-- Blocks of this member's own slot, by address, that fail their device CRC, each with what the group brings for the chunk that
  holds it: the parity, and the chunks of the other survivors, as bytes that are not 0 by their offset in the chunk. -/
  | chunks (mends : List (Nat × List (List (Nat × Byte))))
  deriving DecidableEq, Repr

/-- What comes to this member in a re-plan: what the new plan moves to it, and the other survivors' chunks of a lost image
(R445). -/
structure Brought where
  moved : Option Rebuilt
  shares : Shares
  /-- The other members' digests of the new plan (R381). -/
  digests : List DWord
  deriving DecidableEq, Repr

/-- A chip-level reset: the die of a link that has just failed for good, if that is its cause, and the length of the state
sample (R457, R458). -/
structure ChipFault where
  link : Option DieId
  sample : Nat
  deriving DecidableEq, Repr

end Sys2Proof
end

