-- ==== Sys2Proof/Syntax.lean ====
section
/-!
DEFINITION. The commands: one constructor per row of spec/opcode_table.json, in its order. The operands name the unit the
step takes place in and carry what the spec leaves to the outside: the host, the peers, the tray, timing and faults.
-/

namespace Sys2Proof

/-- The operations and events of the GH-2460 (spec/opcode_table.json; spec/95_what_each_step_holds.md). -/
inductive Instr where
  /-- NOP (R206): Tensor NOP issues, does nothing but its waits and post, and completes with OK. -/
  | nop (core : CoreId) (eng : Eng) (env : Env)
  /-- WAITF (R245): WAITF reaches its queue head and holds every instruction behind it until its Shroud flag condition
    holds. -/
  | waitf (core : CoreId) (eng : Eng) (env : Env)
  /-- WAITF_SATISFIED (R245): A flag change makes a waiting WAITF's condition true, so it completes with OK and
    releases its queue. -/
  | waitfSatisfied (core : CoreId) (eng : Eng)
  /-- SETF (R243): SETF writes VALUE to a cluster, die or remote flag once every earlier instruction of its queue has
    completed. -/
  | setf (core : CoreId) (eng : Eng) (env : Env)
  /-- ADDF (R243): ADDF adds VALUE modulo 2^32 to a cluster, die or remote flag once earlier instructions have
    completed. -/
  | addf (core : CoreId) (eng : Eng) (env : Env)
  /-- UPASS_OPEN (R222): UPASS_OPEN issues once the overflow verdict is formed and opens the update pass of its queue.
    -/
  | upassOpen (core : CoreId) (eng : Eng) (env : Env)
  /-- UPASS_CLOSE (R222): UPASS_CLOSE ends the update-pass bracket of its queue. -/
  | upassClose (core : CoreId) (eng : Eng) (env : Env)
  /-- FMM (R96): The Forward Array computes Y = I + X x W in G4 with the Outlier Band, pass by pass, checked, and
    drains Y. -/
  | fmm (core : CoreId) (env : Env)
  /-- BMM (R119): The Backward Array computes Y = I + op_A(A) x op_B(B) with transposed reads, exact group sums and
    checks. -/
  | bmm (core : CoreId) (env : Env)
  /-- ADD (R144): Vector ADD of binary32 operands, rounded once. -/
  | add (core : CoreId) (env : Env)
  /-- SUB (R144): Vector SUB of binary32 operands, rounded once. -/
  | sub (core : CoreId) (env : Env)
  /-- MUL (R144): Vector MUL of binary32 operands, rounded once. -/
  | mul (core : CoreId) (env : Env)
  /-- MIN (R146): Vector MIN with -0.0 below +0.0 and default NaN on any NaN. -/
  | minF (core : CoreId) (env : Env)
  /-- MAX (R146): Vector MAX with -0.0 below +0.0 and default NaN on any NaN. -/
  | maxF (core : CoreId) (env : Env)
  /-- CMP (R146): Vector CMP returns 1 or 0 as U32 by COND, 0 for NaN except not-equal. -/
  | cmp (core : CoreId) (env : Env)
  /-- FMA (R144): Vector fused a x b + c rounded once. -/
  | fma (core : CoreId) (env : Env)
  /-- SEL (R146): Vector SEL copies the second or third operand unchanged by the U32 mask. -/
  | sel (core : CoreId) (env : Env)
  /-- ABS (R144): Vector ABS clears the sign bit, NaN giving the default NaN. -/
  | absF (core : CoreId) (env : Env)
  /-- NEG (R144): Vector NEG flips the sign bit, NaN giving the default NaN. -/
  | neg (core : CoreId) (env : Env)
  /-- CVT (R144): Vector conversion among FP32, BF16 and FP16 by R45 to R47. -/
  | cvt (core : CoreId) (env : Env)
  /-- EXP (R145): Correctly rounded binary32 exponential. -/
  | exp (core : CoreId) (env : Env)
  /-- EXP2 (R145): Correctly rounded binary32 power of two. -/
  | exp2 (core : CoreId) (env : Env)
  /-- LOG (R145): Correctly rounded binary32 natural logarithm. -/
  | log (core : CoreId) (env : Env)
  /-- LOG2 (R145): Correctly rounded binary32 base-2 logarithm. -/
  | log2 (core : CoreId) (env : Env)
  /-- RCP (R145): Correctly rounded binary32 reciprocal. -/
  | rcp (core : CoreId) (env : Env)
  /-- RSQRT (R145): Correctly rounded binary32 reciprocal square root. -/
  | rsqrt (core : CoreId) (env : Env)
  /-- SQRT (R145): Correctly rounded binary32 square root. -/
  | sqrt (core : CoreId) (env : Env)
  /-- DIV (R145): Correctly rounded binary32 division. -/
  | div (core : CoreId) (env : Env)
  /-- TANH (R145): Correctly rounded binary32 hyperbolic tangent. -/
  | tanh (core : CoreId) (env : Env)
  /-- SIN (R145): Correctly rounded binary32 sine with exact argument reduction. -/
  | sin (core : CoreId) (env : Env)
  /-- COS (R145): Correctly rounded binary32 cosine with exact argument reduction. -/
  | cos (core : CoreId) (env : Env)
  /-- COMB (R151): Combines two tiles of compensated pairs by the fixed combine procedure. -/
  | comb (core : CoreId) (env : Env)
  /-- RSUM (R153): Reduces each row by 128 lane pairs and a 7-level balanced combine tree. -/
  | rsum (core : CoreId) (env : Env)
  /-- RMAX (R154): Returns the largest element of each row under the order of R146. -/
  | rmax (core : CoreId) (env : Env)
  /-- IADD (R144): U32 addition modulo 2^32. -/
  | iadd (core : CoreId) (env : Env)
  /-- ISUB (R144): U32 subtraction modulo 2^32. -/
  | isub (core : CoreId) (env : Env)
  /-- IMIN (R144): U32 minimum. -/
  | imin (core : CoreId) (env : Env)
  /-- IMAX (R144): U32 maximum. -/
  | imax (core : CoreId) (env : Env)
  /-- ICMP (R144): U32 comparison by COND. -/
  | icmp (core : CoreId) (env : Env)
  /-- AND (R144): U32 bitwise AND. -/
  | andU (core : CoreId) (env : Env)
  /-- OR (R144): U32 bitwise OR. -/
  | orU (core : CoreId) (env : Env)
  /-- XOR (R144): U32 bitwise XOR. -/
  | xorU (core : CoreId) (env : Env)
  /-- SHL (R210): U32 shift left by the low 5 bits of B. -/
  | shl (core : CoreId) (env : Env)
  /-- SHR (R210): U32 shift right by the low 5 bits of B. -/
  | shr (core : CoreId) (env : Env)
  /-- VMODE (R148): Sets VEC_MODE.FTZ at the instruction's queue position. -/
  | vmode (core : CoreId) (env : Env)
  /-- OPT_ADAM (R162): Applies the adaptive-moment update to each trained weight of the tile. -/
  | optAdam (core : CoreId) (env : Env)
  /-- OPT_MOM (R163): Applies the momentum update to each trained weight of the tile. -/
  | optMom (core : CoreId) (env : Env)
  /-- OPT_STEP (R212): Advances a parameter block's per-step scalars t, p1, p2, c1, c2, ls and lr. -/
  | optStep (core : CoreId) (env : Env)
  /-- CONV (R213): Converts one tile between numeric formats, choosing Shifts, counting saturation and vanishing and
    posting to Reef. -/
  | conv (core : CoreId) (env : Env)
  /-- CONV2 (R214): Converts one source into two grouped copies with different group axes and one Reef post. -/
  | conv2 (core : CoreId) (env : Env)
  /-- CONVX (R215): Converts into G4 with selected outlier channels split into a BF16 side tile and optional channel
    statistics. -/
  | convx (core : CoreId) (env : Env)
  /-- REEF_POST (R65): A conversion's maximum, counts and overflow flag land in its Reef Table entry after crossing
    into MESH. -/
  | reefPost (c : ClId)
  /-- GATHER (R217): Writes row i of D as row IDX[i] of TBL, padding out-of-range indices. -/
  | gather (core : CoreId) (env : Env)
  /-- KVREAD (R326): Reads latent rows of a sequence through a Halyard walk into D with one rebased Base. -/
  | kvread (core : CoreId) (env : Env)
  /-- ROUTE (R218): Builds per-expert index lists and counts from EID. -/
  | route (core : CoreId) (env : Env)
  /-- COPY (R220): Copies a tile between spaces in segments, optionally notifying a die flag when every byte has
    landed. -/
  | copy (core : CoreId) (env : Env)
  /-- PREFETCH (R301): Copies a source into the Scratchpad and arms a Source Watch range bound to its post token. -/
  | prefetch (core : CoreId) (env : Env)
  /-- STALE_REFETCH (R237): A queue head whose waited token is STALE triggers a refetch of the stale ranges before it
    may issue. -/
  | staleRefetch (core : CoreId) (eng : Eng)
  /-- STALE_REFETCH_LAND (R303): The refetch lands, STALE clears, the range re-arms and the held instruction issues.
    -/
  | staleRefetchLand (core : CoreId) (eng : Eng)
  /-- KVAPPEND (R323): Appends rows to an open sequence through a Halyard walk into the core's staging page. -/
  | kvappend (core : CoreId) (env : Env)
  /-- FURL (R305): Compresses a G8 tile into a Furl tile of raw, zero and sparse chunks. -/
  | furl (core : CoreId) (env : Env)
  /-- UNFURL (R306): Expands a Furl tile back into a G8 tile, detecting malformed streams. -/
  | unfurl (core : CoreId) (env : Env)
  /-- CSEND (R367): Contributes a tile as a node of a collective to the Collective Engine. -/
  | csend (core : CoreId) (env : Env)
  /-- CRECV (R367): Receives and writes a collective result. -/
  | crecv (core : CoreId) (env : Env)
  /-- TOKEN_DEADLOCK (R241): A queue head waiting on a token that can never be posted completes with DEADLOCK. -/
  | tokenDeadlock (core : CoreId) (eng : Eng)
  /-- FLAG_DEADLOCK (R250): Shroud finds a set of WAITF nodes with no outgoing edge and completes all with DEADLOCK.
    -/
  | flagDeadlock (die : DieId)
  /-- WAITF_TIMEOUT (R251): A WAITF on an open flag exceeds its timeout and completes with TIMEOUT. -/
  | waitfTimeout (core : CoreId) (eng : Eng)
  /-- TDISP (R261): Chanter dispatches a register-held tensor word to the selected queues, or holds it while a queue
    is full. -/
  | tdisp (c : ClId) (cycles aon : Nat)
  /-- TDISPM (R261): Chanter dispatches a 16-byte word read from Data Memory. -/
  | tdispm (c : ClId) (cycles aon : Nat)
  /-- TDESC (R264): Chanter writes a Descriptor Table entry in the selected cores and returns the mask of refusing
    cores. -/
  | tdesc (c : ClId) (cycles aon : Nat)
  /-- TDRAIN (R260): Chanter stalls until its dispatched instructions to the named cores and engines have completed or
    been refused. -/
  | tdrain (c : ClId) (cycles aon : Nat)
  /-- DISPATCH_HELD_RELEASE (R195): A held dispatch goes out when every selected queue has a free entry. -/
  | dispatchHeldRelease (c : ClId) (cycles aon : Nat)
  /-- CHANTER_BASE_INSTR (R257): The Chanter executes one RV64IMAC instruction of its program. -/
  | chanterBaseInstr (c : ClId) (cycles aon : Nat)
  /-- DM_BIT_SET_STORE (R270): A store into the bit-set alias ORs its value into the Data Memory word atomically. -/
  | dmBitSetStore (c : ClId) (cycles aon : Nat)
  /-- DM_BIT_CLEAR_STORE (R270): A store into the bit-clear alias clears the given bits of the Data Memory word
    atomically. -/
  | dmBitClearStore (c : ClId) (cycles aon : Nat)
  /-- DM_AMO (R271): An AMO or LR/SC on Data Memory acts at the memory in port 1's access. -/
  | dmAmo (c : ClId) (cycles aon : Nat)
  /-- CHANTER_TIMER (R273): time reaches tmtimecmp and the machine timer interrupt becomes pending. -/
  | chanterTimer (c : ClId)
  /-- CHANTER_INTERRUPT_TAKEN (R263): An enabled pending interrupt is taken, abandoning any held dispatch. -/
  | chanterInterruptTaken (c : ClId) (cycles aon : Nat)
  /-- TMBOX_CLEAR (R276): A write to tmbox clears the given bits of CHN_MBOX. -/
  | tmboxClear (c : ClId) (cycles aon : Nat)
  /-- TMBOUT_WRITE (R276): A write to tmbout ORs bits into CHN_MBOX_OUT and raises a mailbox event to the Masthead. -/
  | tmboutWrite (c : ClId) (cycles aon : Nat)
  /-- CHN_MBOX_SET (R280): The Masthead sets doorbell bits in CHN_MBOX, raising the MBOX interrupt. -/
  | chnMboxSet (c : ClId) (v : Word)
  /-- CHN_RUN (R272): Writing RUN starts the Chanter at slot base plus ENTRY, or clearing it halts the processor. -/
  | chnRun (c : ClId) (run : Bool)
  /-- SLOT_ARM (R267): Writing ARM arms the loadable slot with ENTRY, or is refused during a load. -/
  | slotArm (c : ClId) (v : Word)
  /-- SLOT_DISARM (R267): Writing DISARM cancels an arm not yet taken. -/
  | slotDisarm (c : ClId) (v : Word)
  /-- LOADER_GO (R279): Writing GO starts a Chanter load after its extent, target and slot checks. -/
  | loaderGo (c : ClId) (v : Word)
  /-- LOADER_DONE (R279): A Chanter load completes, setting LD_DONE and raising LOADED. -/
  | loaderDone (c : ClId) (hits : List Detection)
  /-- REEF_DATA_WRITE (R63): A write through CVT_REEF_DATA changes a Reef Table word only while the context is
    stopped. -/
  | reefDataWrite (c : ClId) (req : Req) (v : Word)
  /-- REEF_DATA_READ (R94): A read through CVT_REEF_DATA returns the selected word and advances WORD when AINC is set.
    -/
  | reefDataRead (c : ClId) (req : Req)
  /-- REEF_STEP_BOUNDARY (R76): Reef pushes maxima, computes Bases, tests thresholds, updates the loss scale and
    clears step fields in order. -/
  | reefStepBoundary (p : PartId) (others : List TidSum)
  /-- OVERFLOW_VERDICT (R76): The job-wide OR exchange of overflow, epoch request and non-finite bits completes and
    the step's verdict is formed. -/
  | overflowVerdict (p : PartId) (ovf req nf : Bool) (found : StepFacts)
  /-- STEP_READY (R22): The update pass or its skip ends and the step becomes ready for its boundary. -/
  | stepReady (p : PartId) (met : Metrics)
  /-- STEP_BOUNDARY (R389): The step boundary is taken, with Boundary Record, metrics record and any epoch start. -/
  | stepBoundary (p : PartId)
  /-- STEP_SYNC_EDGE (R390): A qualifying rising edge of STEP_SYNC releases a waiting ready step or is counted early.
    -/
  | stepSyncEdge (edge : SyncEdge)
  /-- STEP_SYNC_WINDOW_EXPIRE (R390): The sync window ends without an edge; the boundary is taken and an expiry
    counted. -/
  | stepSyncWindowExpire (p : PartId)
  /-- STEP_BARRIER_DONE (R389): The MAX barrier of MODE 2 completes and the boundary is taken. -/
  | stepBarrierDone (p : PartId) (us : Nat)
  /-- STEP_BEGIN (R24): A step held for its input buffer begins when the buffer completes, counting an input stall. -/
  | stepBegin (p : PartId) (us : Nat)
  /-- NORM_WATCH_OBSERVATION (R188): Telltale processes a norm observation of a watch entry and posts NORM_WARN or
    NORM_ALARM. -/
  | normWatchObservation (p : PartId) (entry : Fin 512) (n2 : Word)
  /-- NW_DATA_WRITE (R187): A write through TTL_NW_DATA changes a Norm Watch Table word only while the context is
    stopped. -/
  | nwDataWrite (req : Req) (v : Word)
  /-- NW_DATA_READ (R187): A read through TTL_NW_DATA returns the selected word and advances WORD when AINC is set. -/
  | nwDataRead (req : Req)
  /-- SHADOW_SAMPLE_JUDGE (R182): The Vector Engine forms the reference strip in idle cycles and judges the sample
    against the warn and alarm levels. -/
  | shadowSampleJudge (core : CoreId)
  /-- SHR_FLAG_DATA_WRITE (R255): A write through SHR_FLAG_DATA changes a flag only while the context is stopped and
    within range. -/
  | shrFlagDataWrite (c : ClId) (req : Req) (v : Word)
  /-- SHR_REG_DATA_WRITE (R255): A write through SHR_REG_DATA changes a setter group only while the context is
    stopped. -/
  | shrRegDataWrite (c : ClId) (req : Req) (v : Word)
  /-- SHR_CONFIG_WRITE (R253): A write to SHR_CTRL or SHR_DFLAG_RANGE acts only while the context is stopped, else
    sets WR_REFUSED. -/
  | shrConfigWrite (c : ClId) (req : Req) (range : Bool) (v : Word)
  /-- HBM_SLOT_GRANT (R286): A freed controller slot is granted to the longest-waiting held request. -/
  | hbmSlotGrant (stack : StackId) (arrivals : List Arrival) (cycles done : Nat)
  /-- DATA_CACHE_MISS_FILL (R287): Returning HBM data fills a Data Cache line, checked by device CRC, unless
    invalidated meanwhile. -/
  | dataCacheMissFill (c : ClId) (core : Fin 8) (block : Nat) (bad : Bool) (rereads : Fin 3)
  /-- SEGMENT_LAND (R299): A Move Engine segment lands at its destination and is CRC-checked. -/
  | segmentLand (core : CoreId) (addr : Nat) (landing : Landing)
  /-- STACK_ODECC_REPORT (R307): An HBM3 on-die correction report is counted with no action on the data. -/
  | stackOdeccReport (stack : StackId)
  /-- KV_OPEN (R322): Halyard command OPEN makes a FREE sequence OPEN with empty lists. -/
  | kvOpen (c : ClId) (cmd3 : Word) (walks : List Word)
  /-- KV_TRUNC (R322): Halyard command TRUNC discards staged rows and frees pages beyond token n. -/
  | kvTrunc (c : ClId) (cmd3 : Word) (walks : List Word)
  /-- KV_CLOSE (R322): Halyard command CLOSE frees every page and makes the sequence FREE. -/
  | kvClose (c : ClId) (cmd3 : Word) (walks : List Word)
  /-- KV_OFFLOAD (R322): Halyard command OFFLOAD frees every page, keeping LEN and ALEN. -/
  | kvOffload (c : ClId) (cmd3 : Word) (walks : List Word)
  /-- KV_ADOPT (R322): Halyard command ADOPT allocates pages for n tokens and reopens the sequence. -/
  | kvAdopt (c : ClId) (cmd3 : Word) (walks : List Word)
  /-- KV_RESET (R322): Halyard command RESET returns the whole Table Region and Free Queue to their starting state. -/
  | kvReset (c : ClId) (cmd3 : Word) (walks : List Word)
  /-- KV_UPDATE_RELEASE (R319): A held Halyard update proceeds once the older walks have drained. -/
  | kvUpdateRelease (c : ClId) (walks : List Word) (cycles : Nat)
  /-- RECLAIM_TO_FREE (R320): Pages of the Reclaim Queue move to the Free Queue once no older walk is active. -/
  | reclaimToFree (c : ClId) (walks : List Word)
  /-- STAGING_FLUSH (R324): A full staging page is flushed to its page slots, creating one generation. -/
  | stagingFlush (c : ClId) (core : Fin 8) (walks : List Word) (cycles : Nat)
  /-- FLUSH_RESUME (R330): A stalled flush resumes once pages reach the Free Queue. -/
  | flushResume (c : ClId) (again : FlushTry)
  /-- WRITE_FRAME_RX (R356): A WRITE frame is applied and acknowledged once its data is complete, or NACKed. -/
  | writeFrameRx (port : PortId) (f : Frame)
  /-- READ_REQ_RX (R356): A READ_REQ frame is answered with READ_DATA. -/
  | readReqRx (port : PortId) (f : Frame)
  /-- READ_DATA_RX (R346): A READ_DATA frame delivers the requested data to the waiting tag. -/
  | readDataRx (port : PortId) (f : Frame)
  /-- FLAG_FRAME_RX (R356): A FLAG frame is applied by Shroud and acknowledged, or NACKed for an unregistered setter.
    -/
  | flagFrameRx (port : PortId) (f : Frame)
  /-- COLL_FRAME_RX (R368): A COLL block enters the node store and its node is formed when both children are present.
    -/
  | collFrameRx (port : PortId) (f : Frame)
  /-- ACK_RX (R355): A cumulative ACK retires unacknowledged frames of a flow and may trigger resend or rate halving.
    -/
  | ackRx (port : PortId) (f : Frame)
  /-- NACK_RX (R356): A NACK counts the PSN received and ends the sending instruction with FAULT_ADDRESS. -/
  | nackRx (port : PortId) (f : Frame)
  /-- RESET_NOTICE_RX (R347): A RESET_NOTICE reports its subject lost and is forwarded. -/
  | resetNoticeRx (port : PortId) (f : Frame)
  /-- PEER_DOWN_RX (R347): A PEER_DOWN notice reports its subject lost without originating another. -/
  | peerDownRx (port : PortId) (f : Frame)
  /-- PEER_UP_RX (R347): A PEER_UP notice readmits the subject once Moasozil accepts it. -/
  | peerUpRx (port : PortId) (f : Frame) (accept : Bool)
  /-- RESTORE_RX (R438): A RESTORE notice starts the restore of the last committed epoch on the receiver. -/
  | restoreRx (port : PortId) (f : Frame) (others : Word) (rebuilt : Option Rebuilt)
  /-- REPLAY_RX (R471): A REPLAY notice puts the receiver in HOLDING without reporting the subject lost. -/
  | replayRx (port : PortId) (f : Frame)
  /-- LACK_RX (R352): A LACK control frame retires link-level frames up to its LSEQ. -/
  | lackRx (port : PortId) (lseq : Fin 65536)
  /-- CREDIT_RX (R351): A CREDIT control frame returns buffer credits for a virtual channel. -/
  | creditRx (port : PortId) (vc : Fin 4) (n : Fin 1024)
  /-- LANEMAP_RX (R359): A LANEMAP control frame switches striping to the named lanes from the next frame boundary. -/
  | lanemapRx (port : PortId) (lanes : Fin 16)
  /-- RSTN_RX (R363): An RSTN control frame announces the far end's orderly reset. -/
  | rstnRx (port : PortId)
  /-- FRAME_FORWARD (R350): A Direct frame for another device is routed by hash to an up candidate port cut-through or
    dropped. -/
  | frameForward (port : PortId) (f : Frame)
  /-- LINK_RESEND_TIMEOUT (R352): 2 us without LACK progress resends from the first unacknowledged frame; after 8
    resends the port retrains. -/
  | linkResendTimeout (port : PortId)
  /-- LINK_ACK_TIMER (R352): The receiver returns LACK at least every 1 us. -/
  | linkAckTimer (port : PortId)
  /-- TRANSPORT_RTO (R355): RTO without progress resends the flow from its first unacknowledged frame or sends an ACK
    probe. -/
  | transportRto (die : DieId) (dev : Fin 262144) (ddie : DieId)
  /-- FABRIC_ACK_TIMEOUT (R358): A frame unacknowledged for ACK_TO ends its instruction with TIMEOUT. -/
  | fabricAckTimeout (die : DieId) (dev : Fin 262144) (ddie : DieId) (psn : Nat)
  /-- LOST_PEER_TIMEOUT (R360): A flow with frames unacknowledged and nothing received for LOST_TO reports the peer
    lost. -/
  | lostPeerTimeout (dev : Fin 262144)
  /-- PORTS_DOWN_LOST (R360): Every Direct port to a peer down for 1 ms reports that peer lost. -/
  | portsDownLost (dev : Fin 262144)
  /-- ECN_RATE_RECOVER (R354): Each 10 us without ECE raises a flow's rate limit by 1 GB/s. -/
  | ecnRateRecover (die : DieId) (dev : Fin 262144) (ddie : DieId)
  /-- LANE_MARGIN_LOW (R359): A lane's eye margin below MARGIN_MIN takes it out of service for retraining. -/
  | laneMarginLow (port : PortId) (lane : Fin 4) (margin : Nat)
  /-- FEC_LIMIT_EXCEEDED (R359): Corrected FEC symbols above the limit in 1 ms take a lane out for retraining. -/
  | fecLimitExceeded (port : PortId) (lane : Fin 4) (corrected uncorrectable : Nat)
  /-- LANE_RETRAIN_WRITE (R359): A write of RETRAIN bits retrains the named lanes. -/
  | laneRetrainWrite (req : Req) (port : PortId) (v : Word)
  /-- LANE_RETRAIN_DONE (R359): A retrained lane is readmitted, or a failed port retrains whole and comes back up. -/
  | laneRetrainDone (port : PortId) (farId : Fin 4096)
  /-- PORT_UP (R342): A port completes link training and comes up. -/
  | portUp (port : PortId) (farId : Fin 4096)
  /-- HOST_NOP (R407): Host ring NOP entry completes with OK. -/
  | hostNop (ring : Fin 256)
  /-- JOB_SUBMIT (R411): A JOB_SUBMIT entry puts the partition's job in CHECKING. -/
  | jobSubmit (ring : Fin 256) (ver : Nat × Nat) (wg : List Nat)
  /-- PLAN_COMPUTE (R380): After the mask ALLGATHER, each Placement Engine computes the whole plan in order. -/
  | planCompute (p : PartId) (facts : PlanFacts)
  /-- PLAN_AGREEMENT (R381): The MAX collective over plan digests completes and the job enters LOADING or FAILED. -/
  | planAgreement (p : PartId) (others : List DWord)
  /-- JOB_START (R411): JOB_START in LOADING writes narrow copies, takes the first epoch and starts RUNNING. -/
  | jobStart (ring : Fin 256)
  /-- JOB_STOP (R411): JOB_STOP enters STOPPING and the job ends at the next boundary. -/
  | jobStop (ring : Fin 256)
  /-- JOB_ABORT (R411): JOB_ABORT abandons the step, closes input windows and ends the job DONE. -/
  | jobAbort (ring : Fin 256)
  /-- JOB_RELEASE (R411): JOB_RELEASE resets the partition's contexts and returns it to IDLE. -/
  | jobRelease (ring : Fin 256)
  /-- PORT_OPEN (R412): PORT_OPEN opens a Data Port ADDRESS or INPUT window at stream position 0. -/
  | portOpen (ring : Fin 256)
  /-- PORT_CLOSE (R415): PORT_CLOSE closes a window once its bytes are complete and judges an input buffer complete or
    short. -/
  | portClose (ring : Fin 256)
  /-- HOSTWIN_GRANT (R416): HOSTWIN_GRANT grants a host window to the partition. -/
  | hostwinGrant (ring : Fin 256)
  /-- HOSTWIN_REVOKE (R416): HOSTWIN_REVOKE completes when started accesses have ended. -/
  | hostwinRevoke (ring : Fin 256)
  /-- SQ_TAIL_DOORBELL (R402): An SQ tail doorbell makes new submission entries visible, which the device fetches. -/
  | sqTailDoorbell (fn : FnId) (idx : Fin 256) (acc : Bar2)
  /-- CQ_HEAD_DOORBELL (R402): A CQ head doorbell frees completion slots, releasing held completions. -/
  | cqHeadDoorbell (fn : FnId) (idx : Fin 256) (acc : Bar2)
  /-- ENTRY_FETCH (R405): The device fetches and starts one submission entry by ring order and round robin. -/
  | entryFetch (bytes : List Byte) (err : Bool)
  /-- COMPLETION_WRITE (R409): A completion entry is written at the CQ tail with its phase, or held while the CQ is
    full. -/
  | completionWrite (ring : Fin 256)
  /-- COALESCE_TIMER (R417): COAL_US passes since the first unsignalled completion and the ring's vector is signalled.
    -/
  | coalesceTimer (ring : Fin 256)
  /-- WINDOW_WRITE_TLP (R413): A write TLP to a Data Port window appends its enabled bytes to the stream. -/
  | windowWriteTlp (fn : FnId) (w : Fin 16) (data : List Byte) (poisoned : Bool)
  /-- WINDOW_READ_TLP (R414): A read request to a read window returns the next stream bytes. -/
  | windowReadTlp (fn : FnId) (w : Fin 16) (n : Nat)
  /-- RING_ENABLE (R400): Writing EN 1 enables a ring pair if its configuration is valid. -/
  | ringEnable (req : Req) (fn : FnId) (idx : Fin 256) (v : Word)
  /-- RING_DISABLE (R401): Writing EN 0 stops fetching; fetched entries complete. -/
  | ringDisable (req : Req) (fn : FnId) (idx : Fin 256) (v : Word)
  /-- FN_RANGE_WRITE (R398): A write to HIF_FN_RINGS or HIF_FN_PORTS assigns a function's ranges or is refused. -/
  | fnRangeWrite (req : Req) (ports : Bool) (v : Word)
  /-- FLR_VF (R419): Function Level Reset of a VF aborts and releases its partition's job and resets the function. -/
  | flrVf (n : Fin 7)
  /-- FLR_PF0 (R419): Function Level Reset of PF0 acts on partition 0 and clears VF Enable. -/
  | flrPf0
  /-- VF_ENABLE_CLEAR (R419): Clearing VF Enable acts on every VF as for its FLR. -/
  | vfEnableClear
  /-- MSIX_UNMASK (R417): Unmasking a vector with its pending bit set signals it. -/
  | msixUnmask (fn : FnId) (v : Fin 256)
  /-- TELLTALE_TICK (R425): Every 1 ms each die decays its risk accumulators, adds the tick's events and recomputes
    RISK. -/
  | telltaleTick (m0 m1 m2 m3 : Margins)
  /-- FIRST_TOUCH_COPY (R432): A write to an uncopied protected page is held while the page is copied out of order. -/
  | firstTouchCopy (page cycles : Nat)
  /-- EPOCH_COPY_DONE (R435): Every state page is in the slot and the epoch moves to ENCODE. -/
  | epochCopyDone (stop : Option Bool)
  /-- EPOCH_ENCODE_DONE (R435): Parity chunks are acknowledged and complete; Stay 10 is written and the epoch is
    PREPARED. -/
  | epochEncodeDone (shares : Shares) (stop : Option Bool)
  /-- EPOCH_COMMIT (R435): The commit collective completes and the slot's Stay register records the epoch. -/
  | epochCommit (stop : Option Bool)
  /-- SNAP_REQ_WRITE (R427): Writing RES_SNAP_CMD.REQ requests an epoch at the next boundary. -/
  | snapReqWrite (req : Req)
  /-- RESTORE (R438): A member starts a restore, originating a RESTORE notice and restoring the committed epoch. -/
  | restore (p : PartId) (others : Word) (rebuilt : Option Rebuilt)
  /-- REPLAN_REBUILD (R445): In REPLANNING the survivors rebuild the lost image from parity, re-plan and move state.
    -/
  | replanRebuild (p : PartId) (facts : PlanFacts) (others : Word) (brought : Brought)
  /-- RECAL_PC (R447): Maintenance RECAL_PC recalibrates one pseudo-channel in slices. -/
  | recalPc (by_ : RecalBy) (unit pc : Fin 32) (cycles : Nat)
  /-- DRAIN_CLUSTER (R450): Maintenance DRAIN_CLUSTER forces an epoch then re-plans without the cluster. -/
  | drainCluster (req : Req) (c : ClId)
  /-- READMIT_CLUSTER (R450): Maintenance READMIT_CLUSTER resets and tests the cluster then re-plans with it. -/
  | readmitCluster (req : Req) (c : ClId) (pass : Bool)
  /-- FENCE_CLUSTER (R447): Maintenance FENCE_CLUSTER drains the cluster for good. -/
  | fenceCluster (req : Req) (c : ClId)
  /-- DRAIN_DIE (R450): Maintenance DRAIN_DIE forces an epoch then re-plans without the die. -/
  | drainDie (req : Req) (die : DieId)
  /-- READMIT_DIE (R450): Maintenance READMIT_DIE resets and tests the die then re-plans with it. -/
  | readmitDie (req : Req) (die : DieId) (pass : Bool)
  /-- FENCE_DIE (R447): Maintenance FENCE_DIE drains the die for good. -/
  | fenceDie (req : Req) (die : DieId)
  /-- FW_HANDOVER (R449): Maintenance FW_HANDOVER moves Moasozil to the other firmware slot through the standby. -/
  | fwHandover (req : Req)
  /-- ENGINE_WATCHDOG (R455): An engine without progress for its limit fires into the ladder at engine level. -/
  | engineWatchdog (core : CoreId) (eng : Eng)
  /-- MEMORY_REQUEST_WATCHDOG (R290): A miss register or tag waiting 20 us fires at engine level. -/
  | memoryRequestWatchdog (core : CoreId) (eng : Eng)
  /-- QUEUE_WATCHDOG (R455): A queue head not issued within its limit fires at context level. -/
  | queueWatchdog (core : CoreId) (eng : Eng)
  /-- DISPATCH_WATCHDOG (R455): A dispatch held beyond its limit fires at context level. -/
  | dispatchWatchdog (c : ClId)
  /-- REFETCH_WATCHDOG (R455): 64 consecutive refetches of a livelocked binding fire at context level. -/
  | refetchWatchdog (core : CoreId) (range : Fin 64)
  /-- STEP_WATCHDOG (R455): A running partition without a step boundary for its limit fires at partition level. -/
  | stepWatchdog (p : PartId)
  /-- CONTEXT_RESET (R460): A context-level reset stops the affected queues and RESUMEs with a fault replay or
    ABANDONs. -/
  | contextReset (core : CoreId) (envs : List Env)
  /-- ENGINE_RESET (R457): An engine-level reset clears one engine's datapath then resumes its core. -/
  | engineReset (core : CoreId) (eng : Eng) (envs : List Env) (still : Bool) (n : Nat)
  /-- PARTITION_RESET (R457): A partition-level reset clears every cluster of the partition, then a step replay or
    restore. -/
  | partitionReset (p : PartId) (n : Nat)
  /-- CHIP_RESET (R457): A chip-level reset samples, notifies peers, resets the device and rejoins. -/
  | chipReset (fault : ChipFault)
  /-- ESCALATION_DEADLINE (R459): A level's action misses its deadline and the fault climbs one level. -/
  | escalationDeadline (level : Fin 5) (unit : Fin 256)
  /-- STEP_REPLAY (R462): Every member resets, reloads the Boundary Record and reruns the step from its start. -/
  | stepReplay (p : PartId) (allowed : Bool) (others : Word) (rebuilt : Option Rebuilt)
  /-- MGT_RESET_CMD (R473): A write to MGT_RESET_CMD runs a recovery at the given level. -/
  | mgtResetCmd (req : Req) (v : Word)
  /-- MASTHEAD_HEARTBEAT (R466): Each Masthead sends its heartbeat every PERIOD to the others. -/
  | mastheadHeartbeat (die : DieId)
  /-- MASTHEAD_WATCHDOG (R466): Three missed heartbeat periods mark a Masthead failed. -/
  | mastheadWatchdog (die : DieId)
  /-- TRAY_HEARTBEAT (R543): Once per second the acting primary or recovery loop raises the heartbeat IBI and advances
    HB_SEQ. -/
  | trayHeartbeat
  /-- TRAY_WATCHDOG (R469): Three missed heartbeats make the tray controller power-cycle the module. -/
  | trayWatchdog
  /-- REJOIN_WINDOW_EXPIRE (R470): The rejoin timer ends and the job passes from HOLDING to REPLANNING. -/
  | rejoinWindowExpire (p : PartId)
  /-- REJOIN_AGREE (R471): The rejoin MAX collective completes and the members replay or restore, or the rejoiner is
    refused. -/
  | rejoinAgree (p : PartId) (votes : List RejoinVote) (updated : Bool) (others : Word) (rebuilt : Option Rebuilt)
  /-- POWER_ON (R475): The AON rail rising starts a power-on start. -/
  | powerOn
  /-- BROWN_OUT (R475): A rail or VIN36 below its limit for 5 us starts a chip-level start. -/
  | brownOut
  /-- THERMAL_TRIP (R539): A die trip sensor reaching 115 C asserts THERMTRIP_N and turns off every rail but AON. -/
  | thermalTrip
  /-- PERST_N (R476): PERST_N low for 10 AON cycles holds the device in reset, shorter pulses counted as glitches. -/
  | perstN (cycles : Nat)
  /-- PCIE_HOT_RESET (R475): A hot reset received on the host link starts a chip-level start. -/
  | pcieHotReset
  /-- RESET_N (R476): RESET_N low for 10 AON cycles holds the device in reset, shorter pulses counted as glitches. -/
  | resetN (cycles : Nat)
  /-- RESET_RELEASE (R476): Release of the last holding source begins the start sequence. -/
  | resetRelease (perst : Bool)
  /-- START_WATCHDOG (R490): No start complete within 10 s fails the start and restarts with source 6. -/
  | startWatchdog (e : StartEnv)
  /-- START_SEQUENCE (R483): The start runs its phases from REFCLK check to READY. -/
  | startSequence (e : StartEnv)
  /-- UPDATE_BEGIN (R492): MRM command UPDATE_BEGIN opens window 0 onto a firmware slot. -/
  | updateBegin (req : Req)
  /-- UPDATE_END (R492): MRM command UPDATE_END closes window 0 and verifies the image. -/
  | updateEnd (req : Req)
  /-- OB_WRITE (R492): MRM command OB_WRITE takes a 512-byte Option Block and writes it to the unused copy. -/
  | obWrite (req : Req)
  /-- EXIT (R492): MRM command EXIT clears FAILS and restarts with source 7. -/
  | mrmExit (req : Req)
  /-- STAY_DATA_WRITE (R489): A BAR0 write through CKR_STAY_DATA or CKR_STAYMEM_DATA changes nothing and sets
    WR_REFUSED. -/
  | stayDataWrite (req : Req) (mem : Bool) (v : Word)
  /-- STAYMEM_DATA_READ (R494): A read through CKR_STAYMEM_DATA returns the word and advances ADDR when AINC is set.
    -/
  | staymemDataRead (req : Req)
  /-- LC_CHANGE (R515): SEC command LC_CHANGE checks a token, burns fuses, wipes and restarts. -/
  | lcChange (req : Req) (vkey okey : List Byte) (tamper : Option (Fin 4 × DieId × Bool)) (nonce : BitVec 128)
  /-- WRITE_SLOT (R508): SEC command WRITE_SLOT verifies and writes an image into the non-running slot. -/
  | writeSlot (req : Req)
  /-- FW_COMMIT (R509): SEC command FW_COMMIT raises SVN_CTR to the running image's SVN. -/
  | fwCommit (req : Req)
  /-- SEC_TOKEN_DATA_ACCESS (R521): An access to SEC_TOKEN_DATA reads or writes the token buffer word, advancing WORD
    when AINC is set. -/
  | secTokenDataAccess (req : Req) (v : Option Word)
  /-- GET_VERSION (R510): SPDM GET_VERSION request over DOE. -/
  | getVersion
  /-- GET_CAPABILITIES (R510): SPDM GET_CAPABILITIES request over DOE. -/
  | getCapabilities
  /-- NEGOTIATE_ALGORITHMS (R510): SPDM NEGOTIATE_ALGORITHMS request, Ed448 and SHA3-512 only. -/
  | negotiateAlgorithms (ed448 sha3 : Bool)
  /-- GET_DIGESTS (R510): SPDM GET_DIGESTS request. -/
  | getDigests
  /-- GET_CERTIFICATE (R510): SPDM GET_CERTIFICATE request for slot 0. -/
  | getCertificate (slot off len : Nat)
  /-- CHALLENGE (R510): SPDM CHALLENGE signed with die 0's Alias key. -/
  | challenge (transcript : List Byte)
  /-- GET_MEASUREMENTS (R511): SPDM GET_MEASUREMENTS returns the measurement blocks. -/
  | getMeasurements (index : Fin 256) (signed : Bool) (transcript : List Byte)
  /-- SPDM_UNSUPPORTED_REQUEST (R510): Any other SPDM request gets ERROR UnsupportedRequest. -/
  | spdmUnsupportedRequest
  /-- TAMPER_TRIP (R519): A tamper sensor trip wipes every Secure Region and removes the device identity until the
    next start. -/
  | tamperTrip (trip : Fin 4 × DieId) (more : List (Fin 4 × DieId))
  /-- GOVERNOR_LOOP (R533): Every 1 ms the power and thermal loops set each die's duty. -/
  | governorLoop (x : Sense)
  /-- TRANSIENT_LIMIT (R532): A 10 us mean above 3,400 W halves every die's duty. -/
  | transientLimit
  /-- ENVELOPE_OVERRUN (R532): Power above the envelope for 10 ms makes the governor lower duty below the envelope. -/
  | envelopeOverrun (want : List Nat)
  /-- CLOCK_STEP (R534): The governor steps a die's ARRAY clock down or up by 100 MHz. -/
  | clockStep (die : DieId) (up : Bool)
  /-- BRAKE_ASSERT (R536): PWR_BRAKE_N low on 4 samples drops every die's duty to PWR_BRAKE.DUTY. -/
  | brakeAssert
  /-- BRAKE_RELEASE (R536): PWR_BRAKE_N high on 4 samples releases the brake. -/
  | brakeRelease
  /-- VIN_LOW (R527): VIN36 below 33.0 V for 100 us sets VIN_LOW. -/
  | vinLow
  /-- PWR_CTRL_WRITE (R548): A write to PWR_CTRL sets caps within 1 ms or is refused. -/
  | pwrCtrlWrite (req : Req) (v : Word)
  /-- I3C_PRIVATE_WRITE (R542): A TRAY_I3C private write sets the offset and writes map bytes. -/
  | i3cPrivateWrite (addr : Nat) (data : List Byte)
  /-- I3C_PRIVATE_READ (R542): A TRAY_I3C private read returns map bytes from the last offset. -/
  | i3cPrivateRead (addr n : Nat)
  /-- REQ_MRM (R544): Tray command REQ_MRM latches a request for Minimal Recovery Mode. -/
  | reqMrm
  /-- CLR_MRM (R544): Tray command CLR_MRM clears the Minimal Recovery Mode latch. -/
  | clrMrm
  /-- ENEC (R541): I3C CCC ENEC enables target events. -/
  | enec
  /-- DISEC (R541): I3C CCC DISEC disables target events. -/
  | disec
  /-- RSTDAA (R541): I3C CCC RSTDAA resets the dynamic address. -/
  | rstdaa
  /-- SETDASA (R541): I3C CCC SETDASA assigns a dynamic address from the static one. -/
  | setdasa (static addr : Nat)
  /-- ENTDAA (R541): I3C CCC ENTDAA runs dynamic address assignment. -/
  | entdaa (addr : Nat)
  /-- GETSTATUS (R541): I3C CCC GETSTATUS returns the target status. -/
  | getstatus (addr : Nat)
  /-- GETBCR (R541): I3C CCC GETBCR returns the bus characteristics register. -/
  | getbcr (addr : Nat)
  /-- GETDCR (R541): I3C CCC GETDCR returns the device characteristics register. -/
  | getdcr (addr : Nat)
  /-- GETPID (R541): I3C CCC GETPID returns the provisioned ID. -/
  | getpid (addr : Nat)
  /-- RC_FIELD_READ (R7): A read of an RC field returns its value and clears it. -/
  | rcFieldRead (req : Req) (a : BarAt)
  /-- REGISTER_WRITE (R7): A BAR0 write to a register without a row of its own acts by its access code or is refused.
    -/
  | registerWrite (req : Req) (a : BarAt) (v : DWord)
  /-- MASTHEAD_RESTARTED (R468): A Masthead put into management reset finishes its restart about 120 ms later and runs
    again as standby or agent, or is left down and its die drained after failing its start tests twice. -/
  | mastheadRestarted (die : DieId) (pass : Bool)
  /-- POWER_LOSS (R544): VIN36 is removed or falls so that the AON rail goes down, ending every activity, releasing
    THERMTRIP_N and clearing MRM_LATCH. -/
  | powerLoss
  /-- REFCLK_RUNS (R483): REFCLK begins to run while a start waits for it in phase 0 or 1, and the start goes on with
    the REFCLK count. -/
  | refclkRuns (e : StartEnv)
  /-- COLD_START_RELEASE (R547): A start held in phase 1 below 0 C junction goes on once every die's sensor reads 0 C
    or more. -/
  | coldStartRelease (e : StartEnv)
  deriving DecidableEq, Repr

end Sys2Proof
end

