-- ==== Sys2Proof/Decode.lean ====
section
/-!
DEFINITION. The command table gives no row an encoding (spec/opcode_table.json lists no bits: the commands are operations
and events, not words), so no word spells a command.
-/

namespace Sys2Proof

/-- The command that a word of the table's bits spells: the table gives bits to no row, so none does. -/
def decodeTableWord (_nbits _w : Nat) : Option Instr := none

end Sys2Proof
end

