-- ==== Sys2Proof/Config.lean ====
section
/-!
DEFINITION. What the spec leaves open: free values. Each is a constant with no body, so that nothing can be proved of
its value.
-/

namespace Sys2Proof.Config

/-- A value the spec leaves open, drawn with a counter of State (`fresh`). -/
opaque freeWord : Nat → Sys2Proof.Word

/-- The bytes over which R350's path hash is taken, from source, destination and class: the spec gives the three
values and not their layout. -/
opaque pathKey : Nat → Nat → Nat → List Sys2Proof.Byte

/-- SHAKE256 of each die's mask ROM (R500), whose contents the spec does not give. -/
opaque romDigest : Nat → BitVec 512

/-- The certificates of the Tirbudin root and of the issuing authority, which the device presents before its own (R510).
-/
opaque caRoot : List Sys2Proof.Byte
opaque caIssuer : List Sys2Proof.Byte

/-- The fields of an Alias certificate that R501 does not give, as DER: serial number by public key, issuer, validity, subject, and the
identifier of the extension that holds measurement blocks 2 and 5. -/
opaque aliasSerial : List Sys2Proof.Byte → List Sys2Proof.Byte
opaque aliasIssuer : List Sys2Proof.Byte
opaque aliasValidity : List Sys2Proof.Byte
opaque aliasSubject : List Sys2Proof.Byte
opaque aliasExtension : List Sys2Proof.Byte

/-- What SPDM leaves to each side (R510): the bytes of a request that its row does not carry, and the version byte of the
answers to those requests. -/
opaque spdmRequest : Nat → List Sys2Proof.Byte
opaque spdmVersion : Sys2Proof.Byte

/-- What GETSTATUS, GETBCR, GETDCR and GETPID return (R541): I3C's formats, with values the spec does not give. -/
opaque i3cStatus : List Sys2Proof.Byte
opaque i3cBcr : List Sys2Proof.Byte
opaque i3cDcr : List Sys2Proof.Byte
opaque i3cPid : List Sys2Proof.Byte

end Sys2Proof.Config
end

