-- ==== Sys2Proof/Machine/Store.lean ====
section
/-!
DEFINITION. Sparse maps in one canonical form, memory as such a map of bytes, and the bit-field and byte-order helpers
that every other file uses (little-endian byte order: R4).
-/

namespace Sys2Proof.Machine

/-- What key `k` holds; an unlisted key holds `d`. -/
def SMap.get {α : Type} (d : α) : SMap α → Nat → α
  | [], _ => d
  | (j, w) :: m, k => if j = k then w else SMap.get d m k

/-- Drop key `k`. -/
def SMap.erase {α : Type} (m : SMap α) (k : Nat) : SMap α := m.filter fun x => decide (x.1 ≠ k)

/-- Put an entry before the first larger key. -/
def SMap.insert {α : Type} : SMap α → Nat → α → SMap α
  | [], k, v => [(k, v)]
  | (j, w) :: m, k, v => if k < j then (k, v) :: (j, w) :: m else (j, w) :: SMap.insert m k v

/-- Write `v` at key `k`; writing what an unlisted key holds removes the entry. -/
def SMap.set {α : Type} [DecidableEq α] (d : α) (m : SMap α) (k : Nat) (v : α) : SMap α :=
  if v = d then SMap.erase m k else SMap.insert (SMap.erase m k) k v

/-- The map that holds `f k` at every key `k` below `n`. -/
def SMap.ofFn {α : Type} [DecidableEq α] (d : α) (n : Nat) (f : Nat → α) : SMap α :=
  (List.range n).filterMap fun k => if f k = d then none else some (k, f k)

/-- Keys strictly rising from a bound, and no entry equal to `d`. -/
def SMap.wfFrom {α : Type} [DecidableEq α] (d : α) : Nat → SMap α → Bool
  | _, [] => true
  | lo, (j, w) :: m => decide (lo ≤ j) && decide (w ≠ d) && SMap.wfFrom d (j + 1) m

/-- The canonical form of a sparse map. -/
def SMap.wf {α : Type} [DecidableEq α] (d : α) (m : SMap α) : Bool := SMap.wfFrom d 0 m

/-- The memory form the interface of the model names: byte cells, an unlisted byte reading as 0 (R483). -/
abbrev Memory := SMap Byte

/-- The canonical form of memory. -/
def Memory.wf (m : Memory) : Bool := SMap.wf (0 : Byte) m

/-- One byte of memory. -/
def Memory.rd (m : Memory) (a : Nat) : Byte := SMap.get 0 m a

/-- Write one byte of memory. -/
def Memory.wr (m : Memory) (a : Nat) (b : Byte) : Memory := SMap.set 0 m a b

/-- `n` bytes from address `a`. -/
def Memory.rdN (m : Memory) (a : Nat) : Nat → List Byte
  | 0 => []
  | n + 1 => m.rd a :: m.rdN (a + 1) n

/-- Write a list of bytes from address `a`. -/
def Memory.wrN (m : Memory) (a : Nat) : List Byte → Memory
  | [] => m
  | b :: bs => (m.wr a b).wrN (a + 1) bs

/-- Bits `hi` to `lo` of a word, as a number. -/
def bits {n : Nat} (w : BitVec n) (hi lo : Nat) : Nat := (w.toNat >>> lo) % 2 ^ (hi + 1 - lo)

/-- Bit `i` of a word. -/
def bit {n : Nat} (w : BitVec n) (i : Nat) : Bool := w.getLsbD i

/-- `w` with bits `hi` to `lo` replaced by the low bits of `v`. -/
def setBits {n : Nat} (w : BitVec n) (hi lo v : Nat) : BitVec n :=
  let width := hi + 1 - lo
  let old := (w.toNat >>> lo) % 2 ^ width
  BitVec.ofNat n (2 ^ lo * (v % 2 ^ width) + (w.toNat - 2 ^ lo * old))

/-- Set one bit. -/
def setBit {n : Nat} (w : BitVec n) (i : Nat) : BitVec n := setBits w i i 1

/-- A number from bytes, the lowest byte first (R4). -/
def leNat : List Byte → Nat
  | [] => 0
  | b :: bs => b.toNat + 256 * leNat bs

/-- The `n` low bytes of a number, the lowest first (R4). -/
def natLe : Nat → Nat → List Byte
  | 0, _ => []
  | n + 1, x => BitVec.ofNat 8 x :: natLe n (x / 256)

/-- A two's-complement reading of the low `n` bits of a number. -/
def sext (n x : Nat) : Int := if 2 ^ (n - 1) ≤ x % 2 ^ n then (x % 2 ^ n : Int) - 2 ^ n else (x % 2 ^ n : Int)

/-- The low `n` bits of an integer as a number. -/
def wrapN (n : Nat) (x : Int) : Nat := (x % (2 ^ n : Nat)).toNat

/-- Saturating addition on a counter of `n` bits (R9's counters that saturate). -/
def satAdd (n a b : Nat) : Nat := min (a + b) (2 ^ n - 1)

/-- A word of memory. -/
def Memory.rd32 (m : Memory) (a : Nat) : Word := BitVec.ofNat 32 (leNat (m.rdN a 4))

def Memory.wr32 (m : Memory) (a : Nat) (w : Word) : Memory := m.wrN a (natLe 4 w.toNat)

def Memory.rd64 (m : Memory) (a : Nat) : DWord := BitVec.ofNat 64 (leNat (m.rdN a 8))

def Memory.wr64 (m : Memory) (a : Nat) (w : DWord) : Memory := m.wrN a (natLe 8 w.toNat)

/-- Number of pieces of size `b` that cover `a`. -/
def ceilDiv (a b : Nat) : Nat := (a + b - 1) / b

/-- Do the byte ranges `[a, a+n)` and `[b, b+k)` meet? -/
def rangesMeet (a n b k : Nat) : Bool := decide (0 < n) && decide (0 < k) && decide (a < b + k) && decide (b < a + n)

/-- The bytes of `[src, src+n)` of one memory are put at `dst` in another. -/
def Memory.copyInto (m old : Memory) (src dst n : Nat) : Memory :=
  (m.filter fun x => decide (x.1 < dst))
    ++ ((old.filter fun x => decide (src ≤ x.1) && decide (x.1 < src + n)).map fun x => (x.1 - src + dst, x.2))
    ++ (m.filter fun x => decide (dst + n ≤ x.1))

/-- The bytes of `[a, a+n)` become 0. -/
def Memory.zero (m : Memory) (a n : Nat) : Memory := m.filter fun x => decide (x.1 < a) || decide (a + n ≤ x.1)

end Sys2Proof.Machine
end

