-- ==== Sys2Proof/Machine/Regs.lean ====
section
/-!
DEFINITION. The setup registers: their names, blocks, offsets and field maps as the chapters give them (R558 lists them;
each field's access code is one of R7; fields the spec calls reserved are not listed and read 0 by R8).
-/

namespace Sys2Proof.Machine

/-- Field access codes (R7). -/
inductive Acc where
  | ro | rw | w1c | w1s | rc | wo
  deriving DecidableEq, Repr

/-- The blocks and windows that hold registers (R552, R553, R558): `FN` a function view, `RP` a ring pair, `PART` a
partition window, `PORT` a fabric port window. -/
inductive Block where
  | HIF | FN | RP | MGT | SEC | PWR | CKR | TTL | RES | PLC | PART | FAB | PORT | COL | MEM | CHN | SHR | KVP | CVT
  | FWD | BWD | VEC | GTH | XFR
  deriving DecidableEq, Repr

/-- One defined field of a register. -/
structure Field where
  hi : Nat
  lo : Nat
  acc : Acc
  reset : Nat
  deriving DecidableEq, Repr

/-- Every setup register by the spec's name. -/
inductive Reg where
  | BWD_STATUS | BWD_CHECK_COUNT | BWD_PASS_COUNT | BWD_FPASS_COUNT | BWD_STALL_COUNT | BWD_DUTY | CHN_CTRL 
  | CHN_STATUS | CHN_SLOT_CTRL | CHN_LD_SRC_LO | CHN_LD_SRC_HI | CHN_LD_DST | CHN_LD_LEN | CHN_EVR_BASE 
  | CHN_EVR_CTRL | CHN_EVR_HEAD | CHN_EVR_TAIL | CHN_EVR_LOST | CHN_CORE_EN | CHN_MBOX | CHN_MBOX_OUT 
  | CHN_DISP_COUNT | CHN_HOLD_COUNT | CKR_RST_STATUS | CKR_START_COUNT | CKR_GLITCH_COUNT | CKR_OB_SEQ | CKR_STAY_SEL 
  | CKR_STAY_DATA | CKR_STAYMEM_ADDR | CKR_STAYMEM_DATA | COL_CTRL | COL_TABLE_LO | COL_TABLE_HI | COL_STORE_LO 
  | COL_STORE_HI | COL_STORE_SIZE | COL_STATUS | COL_VANISH_COUNT | COL_CLAMP_COUNT | COL_NODE_COUNT | CVT_REEF_CTRL 
  | CVT_REEF_STATUS | CVT_LS_CTRL | CVT_LOSS_SCALE | CVT_SKIP_COUNT | CVT_REEF_SEL | CVT_REEF_DATA | FAB_CTRL 
  | FAB_DEVID | FAB_INC | FAB_STATUS | FAB_LOST | FAB_V6_PREFIX0 | FAB_V6_PREFIX1 | FAB_V6_PREFIX2 | FAB_ETH 
  | FAB_ROUTE_SEL | FAB_ROUTE_DATA | FAB_MEMBERS_LO | FAB_MEMBERS_HI | FAB_MEMBERS_N | FAB_DROP_COUNT 
  | FAB_RETX_COUNT | FAB_DUP_COUNT | HIF_VERSION | HIF_FEATURES | HIF_DRV_FEATURES | FN_STATUS | FN_IRQ 
  | FN_UNMAPPED_COUNT | FWD_STATUS | FWD_CHECK_COUNT | FWD_PASS_COUNT | FWD_STALL_COUNT | FWD_DUTY | ARCH_VERSION 
  | FEATURES | HIF_STATUS | HIF_FN_SEL | HIF_FN_RINGS | HIF_FN_PORTS | KVP_CTRL | KVP_STATUS | KVP_POOL_LO 
  | KVP_POOL_HI | KVP_POOL_PAGES | KVP_SIDE_LO | KVP_SIDE_HI | KVP_TABLE_LO | KVP_TABLE_HI | KVP_TABLE_SIZE 
  | KVP_STAGE_OFF | KVP_CMD0 | KVP_CMD1 | KVP_CMD2 | KVP_CMD3 | KVP_CMD_RESULT | KVP_GEN | KVP_OLDEST | KVP_FREE 
  | KVP_LAB_MISS | KVP_EXHAUST_COUNT | KVP_REBASE_COUNT | KVP_HOLD_COUNT | MEM_CTRL | MEM_STATUS | MEM_CRC_COUNT 
  | MEM_HOLD_COUNT | MEM_ODECC_COUNT | MEM_ERR_ADDR | MEM_ERR_ADDR_HI | MGT_WD_CTRL | MGT_HB | MGT_REJOIN 
  | MGT_ESC_CTRL | MGT_STATUS | MGT_RESET_REC | MGT_CTX_COUNT | MGT_ENG_COUNT | MGT_PART_COUNT | MGT_WD_FIRE 
  | MGT_REPLAY_STEPS | MGT_RESET_CMD | MGT_MRM_CMD | MGT_MRM_ARG | MGT_MRM_STATUS | PLC_JOB_STATE | PLC_SYNC_CTRL 
  | PLC_STATUS | PLC_STEP | PLC_SYNC_WAIT | PLC_SYNC_EARLY_COUNT | PLC_SYNC_EXPIRED_COUNT | PLC_STALL_COUNT 
  | PLC_MET_LOST | PLC_MET_HEAD | PLC_MET_TAIL | PLC_PART_SEL | PLC_PART_CLUSTERS | PLC_PART_HBM | PLC_SYNC_RAW 
  | FAB_PORT_CTRL | FAB_PORT_STATUS | FAB_PORT_MAC_LO | FAB_PORT_MAC_HI | FAB_PORT_GW_LO | FAB_PORT_GW_HI 
  | FAB_PORT_LRETRY | FAB_PORT_FEC_CORR | FAB_PORT_FEC_UNCORR | FAB_PORT_STOMP | PWR_CTRL | PWR_STATUS | PWR_ALERT_EN 
  | PWR_IN | PWR_PAVG | PWR_CAL | PWR_BRAKE | PWR_SENSE | PWR_DIE0 | PWR_DIE1 | PWR_DIE2 | PWR_DIE3 | PWR_THR_COUNT 
  | PWR_BRAKE_COUNT | PWR_TRANS_COUNT | RES_SNAP_CTRL | RES_SNAP_CEIL | RES_SNAP_CMD | RES_SNAP_STATUS | RES_EPOCH_C 
  | RES_EPOCH_P | RES_TOUCH_COUNT | RES_TOUCH_STALL | RES_LOG_CTRL | RES_LOG_STATUS | RES_REPLAY_COUNT 
  | RES_RECOMP_COUNT | RES_MAINT_CMD | RES_MAINT_STATUS | RES_FENCED | RES_FENCE_CTRL | RP_SQ_LO | RP_SQ_HI 
  | RP_CQ_LO | RP_CQ_HI | RP_CFG | RP_SIZE | RP_COAL | RP_STATUS | RP_SQ_HEAD | RP_SQ_TAIL | RP_CQ_TAIL | RP_CQ_HEAD 
  | SEC_STATUS | SEC_LC_NONCE0 | SEC_LC_NONCE1 | SEC_LC_NONCE2 | SEC_LC_NONCE3 | SEC_TOKEN_SEL | SEC_TOKEN_DATA 
  | SEC_CMD | SEC_FW_SRC_LO | SEC_FW_SRC_HI | SEC_FW_LEN | SEC_RESULT | SEC_TAMPER | SEC_TAMPER_COUNT | SHR_CTRL 
  | SHR_STATUS | SHR_DFLAG_RANGE | SHR_FLAG_SEL | SHR_FLAG_DATA | SHR_REG_SEL | SHR_REG_DATA | SHR_TOK_SEL 
  | SHR_TOK_DATA | SHR_DEADLOCK_COUNT | SHR_TOKDL_COUNT | SHR_TIMEOUT_COUNT | TTL_RISK | TTL_RISK_DIE | TTL_RISK_CTRL 
  | TTL_WEIGHT0 | TTL_WEIGHT1 | TTL_WEIGHT2 | TTL_LOG_HEAD | TTL_LOG_TAIL | TTL_LOG_LOST | TTL_SHADOW_CTRL 
  | TTL_SHADOW_THR | TTL_SHADOW_DONE | TTL_SHADOW_WARN_COUNT | TTL_SHADOW_ALARM_COUNT | TTL_SHADOW_LOST 
  | TTL_NUM_STATUS | TTL_NW_SEL | TTL_NW_DATA | VEC_MODE | VEC_STATUS | VEC_FLUSH_COUNT | VEC_COMB_COUNT 
  | VEC_STALL_COUNT | XFR_STATUS | XFR_STALE_COUNT | XFR_TAG_HOLD | XFR_PARITY_COUNT | XFR_WATCH_LO | XFR_WATCH_HI 
  | XFR_FURL_IN | XFR_FURL_OUT 
  deriving DecidableEq, Repr

/-- The block of a register and its offset in the block or window (R558). -/
def Reg.place : Reg → Block × Nat
  | .BWD_STATUS => (.BWD, 0x10)
  | .BWD_CHECK_COUNT => (.BWD, 0x14)
  | .BWD_PASS_COUNT => (.BWD, 0x18)
  | .BWD_FPASS_COUNT => (.BWD, 0x1C)
  | .BWD_STALL_COUNT => (.BWD, 0x20)
  | .BWD_DUTY => (.BWD, 0x24)
  | .CHN_CTRL => (.CHN, 0x10)
  | .CHN_STATUS => (.CHN, 0x14)
  | .CHN_SLOT_CTRL => (.CHN, 0x18)
  | .CHN_LD_SRC_LO => (.CHN, 0x20)
  | .CHN_LD_SRC_HI => (.CHN, 0x24)
  | .CHN_LD_DST => (.CHN, 0x28)
  | .CHN_LD_LEN => (.CHN, 0x2C)
  | .CHN_EVR_BASE => (.CHN, 0x30)
  | .CHN_EVR_CTRL => (.CHN, 0x34)
  | .CHN_EVR_HEAD => (.CHN, 0x38)
  | .CHN_EVR_TAIL => (.CHN, 0x3C)
  | .CHN_EVR_LOST => (.CHN, 0x40)
  | .CHN_CORE_EN => (.CHN, 0x44)
  | .CHN_MBOX => (.CHN, 0x48)
  | .CHN_MBOX_OUT => (.CHN, 0x4C)
  | .CHN_DISP_COUNT => (.CHN, 0x50)
  | .CHN_HOLD_COUNT => (.CHN, 0x54)
  | .CKR_RST_STATUS => (.CKR, 0x10)
  | .CKR_START_COUNT => (.CKR, 0x14)
  | .CKR_GLITCH_COUNT => (.CKR, 0x18)
  | .CKR_OB_SEQ => (.CKR, 0x1C)
  | .CKR_STAY_SEL => (.CKR, 0x20)
  | .CKR_STAY_DATA => (.CKR, 0x24)
  | .CKR_STAYMEM_ADDR => (.CKR, 0x28)
  | .CKR_STAYMEM_DATA => (.CKR, 0x2C)
  | .COL_CTRL => (.COL, 0x10)
  | .COL_TABLE_LO => (.COL, 0x14)
  | .COL_TABLE_HI => (.COL, 0x18)
  | .COL_STORE_LO => (.COL, 0x1C)
  | .COL_STORE_HI => (.COL, 0x20)
  | .COL_STORE_SIZE => (.COL, 0x24)
  | .COL_STATUS => (.COL, 0x28)
  | .COL_VANISH_COUNT => (.COL, 0x2C)
  | .COL_CLAMP_COUNT => (.COL, 0x30)
  | .COL_NODE_COUNT => (.COL, 0x34)
  | .CVT_REEF_CTRL => (.CVT, 0x10)
  | .CVT_REEF_STATUS => (.CVT, 0x14)
  | .CVT_LS_CTRL => (.CVT, 0x18)
  | .CVT_LOSS_SCALE => (.CVT, 0x1C)
  | .CVT_SKIP_COUNT => (.CVT, 0x20)
  | .CVT_REEF_SEL => (.CVT, 0x24)
  | .CVT_REEF_DATA => (.CVT, 0x28)
  | .FAB_CTRL => (.FAB, 0x10)
  | .FAB_DEVID => (.FAB, 0x14)
  | .FAB_INC => (.FAB, 0x18)
  | .FAB_STATUS => (.FAB, 0x1C)
  | .FAB_LOST => (.FAB, 0x20)
  | .FAB_V6_PREFIX0 => (.FAB, 0x24)
  | .FAB_V6_PREFIX1 => (.FAB, 0x28)
  | .FAB_V6_PREFIX2 => (.FAB, 0x2C)
  | .FAB_ETH => (.FAB, 0x30)
  | .FAB_ROUTE_SEL => (.FAB, 0x34)
  | .FAB_ROUTE_DATA => (.FAB, 0x38)
  | .FAB_MEMBERS_LO => (.FAB, 0x3C)
  | .FAB_MEMBERS_HI => (.FAB, 0x40)
  | .FAB_MEMBERS_N => (.FAB, 0x44)
  | .FAB_DROP_COUNT => (.FAB, 0x48)
  | .FAB_RETX_COUNT => (.FAB, 0x4C)
  | .FAB_DUP_COUNT => (.FAB, 0x50)
  | .HIF_VERSION => (.FN, 0x8)
  | .HIF_FEATURES => (.FN, 0xC)
  | .HIF_DRV_FEATURES => (.FN, 0x10)
  | .FN_STATUS => (.FN, 0x14)
  | .FN_IRQ => (.FN, 0x18)
  | .FN_UNMAPPED_COUNT => (.FN, 0x1C)
  | .FWD_STATUS => (.FWD, 0x10)
  | .FWD_CHECK_COUNT => (.FWD, 0x14)
  | .FWD_PASS_COUNT => (.FWD, 0x18)
  | .FWD_STALL_COUNT => (.FWD, 0x1C)
  | .FWD_DUTY => (.FWD, 0x20)
  | .ARCH_VERSION => (.HIF, 0x4)
  | .FEATURES => (.HIF, 0x8)
  | .HIF_STATUS => (.HIF, 0xC)
  | .HIF_FN_SEL => (.HIF, 0x10)
  | .HIF_FN_RINGS => (.HIF, 0x14)
  | .HIF_FN_PORTS => (.HIF, 0x18)
  | .KVP_CTRL => (.KVP, 0x10)
  | .KVP_STATUS => (.KVP, 0x14)
  | .KVP_POOL_LO => (.KVP, 0x18)
  | .KVP_POOL_HI => (.KVP, 0x1C)
  | .KVP_POOL_PAGES => (.KVP, 0x20)
  | .KVP_SIDE_LO => (.KVP, 0x24)
  | .KVP_SIDE_HI => (.KVP, 0x28)
  | .KVP_TABLE_LO => (.KVP, 0x2C)
  | .KVP_TABLE_HI => (.KVP, 0x30)
  | .KVP_TABLE_SIZE => (.KVP, 0x34)
  | .KVP_STAGE_OFF => (.KVP, 0x38)
  | .KVP_CMD0 => (.KVP, 0x40)
  | .KVP_CMD1 => (.KVP, 0x44)
  | .KVP_CMD2 => (.KVP, 0x48)
  | .KVP_CMD3 => (.KVP, 0x4C)
  | .KVP_CMD_RESULT => (.KVP, 0x50)
  | .KVP_GEN => (.KVP, 0x54)
  | .KVP_OLDEST => (.KVP, 0x58)
  | .KVP_FREE => (.KVP, 0x5C)
  | .KVP_LAB_MISS => (.KVP, 0x60)
  | .KVP_EXHAUST_COUNT => (.KVP, 0x64)
  | .KVP_REBASE_COUNT => (.KVP, 0x68)
  | .KVP_HOLD_COUNT => (.KVP, 0x6C)
  | .MEM_CTRL => (.MEM, 0x10)
  | .MEM_STATUS => (.MEM, 0x14)
  | .MEM_CRC_COUNT => (.MEM, 0x18)
  | .MEM_HOLD_COUNT => (.MEM, 0x1C)
  | .MEM_ODECC_COUNT => (.MEM, 0x20)
  | .MEM_ERR_ADDR => (.MEM, 0x24)
  | .MEM_ERR_ADDR_HI => (.MEM, 0x28)
  | .MGT_WD_CTRL => (.MGT, 0x10)
  | .MGT_HB => (.MGT, 0x14)
  | .MGT_REJOIN => (.MGT, 0x18)
  | .MGT_ESC_CTRL => (.MGT, 0x1C)
  | .MGT_STATUS => (.MGT, 0x20)
  | .MGT_RESET_REC => (.MGT, 0x24)
  | .MGT_CTX_COUNT => (.MGT, 0x28)
  | .MGT_ENG_COUNT => (.MGT, 0x2C)
  | .MGT_PART_COUNT => (.MGT, 0x30)
  | .MGT_WD_FIRE => (.MGT, 0x34)
  | .MGT_REPLAY_STEPS => (.MGT, 0x38)
  | .MGT_RESET_CMD => (.MGT, 0x3C)
  | .MGT_MRM_CMD => (.MGT, 0x40)
  | .MGT_MRM_ARG => (.MGT, 0x44)
  | .MGT_MRM_STATUS => (.MGT, 0x48)
  | .PLC_JOB_STATE => (.PART, 0x0)
  | .PLC_SYNC_CTRL => (.PART, 0x4)
  | .PLC_STATUS => (.PART, 0x8)
  | .PLC_STEP => (.PART, 0xC)
  | .PLC_SYNC_WAIT => (.PART, 0x10)
  | .PLC_SYNC_EARLY_COUNT => (.PART, 0x14)
  | .PLC_SYNC_EXPIRED_COUNT => (.PART, 0x18)
  | .PLC_STALL_COUNT => (.PART, 0x1C)
  | .PLC_MET_LOST => (.PART, 0x20)
  | .PLC_MET_HEAD => (.PART, 0x24)
  | .PLC_MET_TAIL => (.PART, 0x28)
  | .PLC_PART_SEL => (.PLC, 0x10)
  | .PLC_PART_CLUSTERS => (.PLC, 0x14)
  | .PLC_PART_HBM => (.PLC, 0x18)
  | .PLC_SYNC_RAW => (.PLC, 0x1C)
  | .FAB_PORT_CTRL => (.PORT, 0x0)
  | .FAB_PORT_STATUS => (.PORT, 0x4)
  | .FAB_PORT_MAC_LO => (.PORT, 0x8)
  | .FAB_PORT_MAC_HI => (.PORT, 0xC)
  | .FAB_PORT_GW_LO => (.PORT, 0x10)
  | .FAB_PORT_GW_HI => (.PORT, 0x14)
  | .FAB_PORT_LRETRY => (.PORT, 0x18)
  | .FAB_PORT_FEC_CORR => (.PORT, 0x1C)
  | .FAB_PORT_FEC_UNCORR => (.PORT, 0x20)
  | .FAB_PORT_STOMP => (.PORT, 0x24)
  | .PWR_CTRL => (.PWR, 0x10)
  | .PWR_STATUS => (.PWR, 0x14)
  | .PWR_ALERT_EN => (.PWR, 0x18)
  | .PWR_IN => (.PWR, 0x1C)
  | .PWR_PAVG => (.PWR, 0x20)
  | .PWR_CAL => (.PWR, 0x24)
  | .PWR_BRAKE => (.PWR, 0x28)
  | .PWR_SENSE => (.PWR, 0x2C)
  | .PWR_DIE0 => (.PWR, 0x30)
  | .PWR_DIE1 => (.PWR, 0x34)
  | .PWR_DIE2 => (.PWR, 0x38)
  | .PWR_DIE3 => (.PWR, 0x3C)
  | .PWR_THR_COUNT => (.PWR, 0x40)
  | .PWR_BRAKE_COUNT => (.PWR, 0x44)
  | .PWR_TRANS_COUNT => (.PWR, 0x48)
  | .RES_SNAP_CTRL => (.RES, 0x10)
  | .RES_SNAP_CEIL => (.RES, 0x14)
  | .RES_SNAP_CMD => (.RES, 0x18)
  | .RES_SNAP_STATUS => (.RES, 0x1C)
  | .RES_EPOCH_C => (.RES, 0x20)
  | .RES_EPOCH_P => (.RES, 0x24)
  | .RES_TOUCH_COUNT => (.RES, 0x28)
  | .RES_TOUCH_STALL => (.RES, 0x2C)
  | .RES_LOG_CTRL => (.RES, 0x40)
  | .RES_LOG_STATUS => (.RES, 0x44)
  | .RES_REPLAY_COUNT => (.RES, 0x48)
  | .RES_RECOMP_COUNT => (.RES, 0x4C)
  | .RES_MAINT_CMD => (.RES, 0x60)
  | .RES_MAINT_STATUS => (.RES, 0x64)
  | .RES_FENCED => (.RES, 0x68)
  | .RES_FENCE_CTRL => (.RES, 0x6C)
  | .RP_SQ_LO => (.RP, 0x0)
  | .RP_SQ_HI => (.RP, 0x4)
  | .RP_CQ_LO => (.RP, 0x8)
  | .RP_CQ_HI => (.RP, 0xC)
  | .RP_CFG => (.RP, 0x10)
  | .RP_SIZE => (.RP, 0x14)
  | .RP_COAL => (.RP, 0x18)
  | .RP_STATUS => (.RP, 0x1C)
  | .RP_SQ_HEAD => (.RP, 0x20)
  | .RP_SQ_TAIL => (.RP, 0x24)
  | .RP_CQ_TAIL => (.RP, 0x28)
  | .RP_CQ_HEAD => (.RP, 0x2C)
  | .SEC_STATUS => (.SEC, 0x10)
  | .SEC_LC_NONCE0 => (.SEC, 0x14)
  | .SEC_LC_NONCE1 => (.SEC, 0x18)
  | .SEC_LC_NONCE2 => (.SEC, 0x1C)
  | .SEC_LC_NONCE3 => (.SEC, 0x20)
  | .SEC_TOKEN_SEL => (.SEC, 0x24)
  | .SEC_TOKEN_DATA => (.SEC, 0x28)
  | .SEC_CMD => (.SEC, 0x2C)
  | .SEC_FW_SRC_LO => (.SEC, 0x30)
  | .SEC_FW_SRC_HI => (.SEC, 0x34)
  | .SEC_FW_LEN => (.SEC, 0x38)
  | .SEC_RESULT => (.SEC, 0x40)
  | .SEC_TAMPER => (.SEC, 0x48)
  | .SEC_TAMPER_COUNT => (.SEC, 0x4C)
  | .SHR_CTRL => (.SHR, 0x10)
  | .SHR_STATUS => (.SHR, 0x14)
  | .SHR_DFLAG_RANGE => (.SHR, 0x18)
  | .SHR_FLAG_SEL => (.SHR, 0x20)
  | .SHR_FLAG_DATA => (.SHR, 0x24)
  | .SHR_REG_SEL => (.SHR, 0x28)
  | .SHR_REG_DATA => (.SHR, 0x2C)
  | .SHR_TOK_SEL => (.SHR, 0x30)
  | .SHR_TOK_DATA => (.SHR, 0x34)
  | .SHR_DEADLOCK_COUNT => (.SHR, 0x38)
  | .SHR_TOKDL_COUNT => (.SHR, 0x3C)
  | .SHR_TIMEOUT_COUNT => (.SHR, 0x40)
  | .TTL_RISK => (.TTL, 0x10)
  | .TTL_RISK_DIE => (.TTL, 0x14)
  | .TTL_RISK_CTRL => (.TTL, 0x18)
  | .TTL_WEIGHT0 => (.TTL, 0x1C)
  | .TTL_WEIGHT1 => (.TTL, 0x20)
  | .TTL_WEIGHT2 => (.TTL, 0x24)
  | .TTL_LOG_HEAD => (.TTL, 0x28)
  | .TTL_LOG_TAIL => (.TTL, 0x2C)
  | .TTL_LOG_LOST => (.TTL, 0x30)
  | .TTL_SHADOW_CTRL => (.TTL, 0x100)
  | .TTL_SHADOW_THR => (.TTL, 0x104)
  | .TTL_SHADOW_DONE => (.TTL, 0x108)
  | .TTL_SHADOW_WARN_COUNT => (.TTL, 0x10C)
  | .TTL_SHADOW_ALARM_COUNT => (.TTL, 0x110)
  | .TTL_SHADOW_LOST => (.TTL, 0x114)
  | .TTL_NUM_STATUS => (.TTL, 0x118)
  | .TTL_NW_SEL => (.TTL, 0x120)
  | .TTL_NW_DATA => (.TTL, 0x124)
  | .VEC_MODE => (.VEC, 0x10)
  | .VEC_STATUS => (.VEC, 0x14)
  | .VEC_FLUSH_COUNT => (.VEC, 0x18)
  | .VEC_COMB_COUNT => (.VEC, 0x1C)
  | .VEC_STALL_COUNT => (.VEC, 0x20)
  | .XFR_STATUS => (.XFR, 0x10)
  | .XFR_STALE_COUNT => (.XFR, 0x14)
  | .XFR_TAG_HOLD => (.XFR, 0x18)
  | .XFR_PARITY_COUNT => (.XFR, 0x1C)
  | .XFR_WATCH_LO => (.XFR, 0x20)
  | .XFR_WATCH_HI => (.XFR, 0x24)
  | .XFR_FURL_IN => (.XFR, 0x28)
  | .XFR_FURL_OUT => (.XFR, 0x2C)

/-- The defined fields of a register, with the reset values the chapters give (R7, R8). -/
def Reg.fields : Reg → List Field
  | .BWD_STATUS => -- R141
    [⟨31, 31, .w1c, 0x0⟩, ⟨30, 30, .w1c, 0x0⟩, ⟨29, 29, .w1c, 0x0⟩, ⟨5, 5, .ro, 0x0⟩, ⟨4, 4, .ro, 0x0⟩, ⟨3, 3, .ro, 0x0⟩, ⟨2, 2, .ro, 0x0⟩, ⟨1, 1, .ro, 0x0⟩, ⟨0, 0, .ro, 0x0⟩]
  | .BWD_CHECK_COUNT => -- R142
    [⟨31, 0, .rc, 0x0⟩]
  | .BWD_PASS_COUNT => -- R142
    [⟨31, 0, .ro, 0x0⟩]
  | .BWD_FPASS_COUNT => -- R142
    [⟨31, 0, .ro, 0x0⟩]
  | .BWD_STALL_COUNT => -- R142
    [⟨31, 0, .rc, 0x0⟩]
  | .BWD_DUTY => -- R142
    [⟨10, 0, .ro, 0x400⟩]
  | .CHN_CTRL => -- R277
    [⟨0, 0, .rw, 0x0⟩]
  | .CHN_STATUS => -- R278
    [⟨31, 31, .w1c, 0x0⟩, ⟨30, 30, .w1c, 0x0⟩, ⟨29, 29, .w1c, 0x0⟩, ⟨28, 28, .w1c, 0x0⟩, ⟨27, 27, .w1c, 0x0⟩, ⟨26, 26, .w1c, 0x0⟩, ⟨25, 25, .w1c, 0x0⟩, ⟨4, 4, .ro, 0x0⟩, ⟨3, 3, .ro, 0x0⟩, ⟨2, 2, .ro, 0x0⟩, ⟨1, 1, .ro, 0x0⟩, ⟨0, 0, .ro, 0x0⟩]
  | .CHN_SLOT_CTRL => -- R277
    [⟨31, 31, .w1s, 0x0⟩, ⟨30, 30, .wo, 0x0⟩, ⟨16, 2, .rw, 0x0⟩]
  | .CHN_LD_SRC_LO => -- R279
    [⟨31, 4, .rw, 0x0⟩]
  | .CHN_LD_SRC_HI => -- R279
    [⟨15, 0, .rw, 0x0⟩]
  | .CHN_LD_DST => -- R279
    [⟨31, 30, .rw, 0x0⟩, ⟨29, 29, .rw, 0x0⟩, ⟨17, 4, .rw, 0x0⟩]
  | .CHN_LD_LEN => -- R279
    [⟨31, 31, .wo, 0x0⟩, ⟨18, 4, .rw, 0x0⟩]
  | .CHN_EVR_BASE => -- R280
    [⟨23, 5, .rw, 0x0⟩]
  | .CHN_EVR_CTRL => -- R280
    [⟨4, 0, .rw, 0x0⟩]
  | .CHN_EVR_HEAD => -- R280
    [⟨15, 0, .ro, 0x0⟩]
  | .CHN_EVR_TAIL => -- R280
    [⟨15, 0, .rw, 0x0⟩]
  | .CHN_EVR_LOST => -- R280
    [⟨31, 0, .rc, 0x0⟩]
  | .CHN_CORE_EN => -- R280
    [⟨7, 0, .rw, 0xFF⟩]
  | .CHN_MBOX => -- R280
    [⟨31, 0, .w1s, 0x0⟩]
  | .CHN_MBOX_OUT => -- R280
    [⟨31, 0, .w1c, 0x0⟩]
  | .CHN_DISP_COUNT => -- R280
    [⟨31, 0, .ro, 0x0⟩]
  | .CHN_HOLD_COUNT => -- R280
    [⟨31, 0, .rc, 0x0⟩]
  | .CKR_RST_STATUS => -- R487
    [⟨18, 18, .w1c, 0x0⟩]
  | .CKR_START_COUNT => -- R494
    [⟨31, 0, .ro, 0x0⟩]
  | .CKR_GLITCH_COUNT => -- R494
    [⟨31, 0, .rc, 0x0⟩]
  | .CKR_OB_SEQ => -- R494
    [⟨31, 0, .ro, 0x0⟩]
  | .CKR_STAY_SEL => -- R494
    [⟨5, 4, .rw, 0x0⟩, ⟨3, 0, .rw, 0x0⟩]
  | .CKR_STAY_DATA => -- R494
    [⟨31, 0, .rw, 0x0⟩]
  | .CKR_STAYMEM_ADDR => -- R494
    [⟨31, 31, .rw, 0x0⟩, ⟨15, 2, .rw, 0x0⟩]
  | .CKR_STAYMEM_DATA => -- R494
    [⟨31, 0, .rw, 0x0⟩]
  | .COL_CTRL => -- R374
    [⟨31, 31, .rw, 0x0⟩]
  | .COL_TABLE_LO => -- R374
    [⟨31, 0, .rw, 0x0⟩]
  | .COL_TABLE_HI => -- R374
    [⟨15, 0, .rw, 0x0⟩]
  | .COL_STORE_LO => -- R374
    [⟨31, 0, .rw, 0x0⟩]
  | .COL_STORE_HI => -- R374
    [⟨15, 0, .rw, 0x0⟩]
  | .COL_STORE_SIZE => -- R374
    [⟨31, 0, .rw, 0x0⟩]
  | .COL_STATUS => -- R374
    [⟨31, 31, .w1c, 0x0⟩, ⟨30, 30, .w1c, 0x0⟩, ⟨29, 29, .w1c, 0x0⟩, ⟨28, 28, .w1c, 0x0⟩, ⟨27, 27, .w1c, 0x0⟩]
  | .COL_VANISH_COUNT => -- R374
    [⟨31, 0, .rc, 0x0⟩]
  | .COL_CLAMP_COUNT => -- R374
    [⟨31, 0, .rc, 0x0⟩]
  | .COL_NODE_COUNT => -- R374
    [⟨31, 0, .ro, 0x0⟩]
  | .CVT_REEF_CTRL => -- R91
    [⟨31, 24, .rw, 0x10⟩, ⟨19, 16, .rw, 0x3⟩, ⟨10, 8, .rw, 0x1⟩, ⟨7, 4, .rw, 0x3⟩]
  | .CVT_REEF_STATUS => -- R92
    [⟨31, 31, .w1c, 0x0⟩, ⟨30, 30, .w1c, 0x0⟩, ⟨29, 29, .w1c, 0x0⟩, ⟨28, 28, .w1c, 0x0⟩, ⟨27, 27, .w1c, 0x0⟩, ⟨26, 26, .ro, 0x0⟩, ⟨7, 0, .ro, 0x0⟩]
  | .CVT_LS_CTRL => -- R93
    [⟨31, 16, .rw, 0x7D0⟩, ⟨15, 8, .rw, 0x18⟩, ⟨7, 0, .rw, 0x0⟩]
  | .CVT_LOSS_SCALE => -- R93
    [⟨31, 16, .rw, 0x0⟩, ⟨7, 0, .rw, 0x10⟩]
  | .CVT_SKIP_COUNT => -- R94
    [⟨31, 0, .rc, 0x0⟩]
  | .CVT_REEF_SEL => -- R94
    [⟨15, 15, .rw, 0x0⟩, ⟨14, 5, .rw, 0x0⟩, ⟨4, 0, .rw, 0x0⟩]
  | .CVT_REEF_DATA => -- R94
    [⟨31, 0, .rw, 0x0⟩]
  | .FAB_CTRL => -- R372
    [⟨31, 31, .rw, 0x0⟩, ⟨23, 16, .rw, 0x64⟩, ⟨15, 8, .rw, 0x14⟩, ⟨7, 0, .rw, 0x40⟩]
  | .FAB_DEVID => -- R372
    [⟨31, 31, .rw, 0x0⟩, ⟨17, 0, .rw, 0x0⟩]
  | .FAB_INC => -- R372
    [⟨15, 0, .ro, 0x0⟩]
  | .FAB_STATUS => -- R372
    [⟨31, 31, .w1c, 0x0⟩, ⟨30, 30, .w1c, 0x0⟩, ⟨29, 29, .w1c, 0x0⟩, ⟨28, 28, .w1c, 0x0⟩, ⟨27, 27, .w1c, 0x0⟩, ⟨4, 0, .ro, 0x0⟩]
  | .FAB_LOST => -- R372
    [⟨31, 31, .ro, 0x0⟩, ⟨17, 0, .ro, 0x0⟩]
  | .FAB_V6_PREFIX0 => -- R372
    [⟨31, 0, .rw, 0x0⟩]
  | .FAB_V6_PREFIX1 => -- R372
    [⟨31, 0, .rw, 0x0⟩]
  | .FAB_V6_PREFIX2 => -- R372
    [⟨31, 0, .rw, 0x0⟩]
  | .FAB_ETH => -- R372
    [⟨31, 26, .rw, 0x0⟩, ⟨25, 23, .rw, 0x0⟩, ⟨22, 20, .rw, 0x0⟩, ⟨15, 0, .rw, 0x4756⟩]
  | .FAB_ROUTE_SEL => -- R372
    [⟨11, 0, .rw, 0x0⟩]
  | .FAB_ROUTE_DATA => -- R372
    [⟨31, 0, .rw, 0x0⟩]
  | .FAB_MEMBERS_LO => -- R372
    [⟨31, 0, .rw, 0x0⟩]
  | .FAB_MEMBERS_HI => -- R372
    [⟨15, 0, .rw, 0x0⟩]
  | .FAB_MEMBERS_N => -- R372
    [⟨17, 0, .rw, 0x0⟩]
  | .FAB_DROP_COUNT => -- R372
    [⟨31, 0, .rc, 0x0⟩]
  | .FAB_RETX_COUNT => -- R372
    [⟨31, 0, .rc, 0x0⟩]
  | .FAB_DUP_COUNT => -- R372
    [⟨31, 0, .rc, 0x0⟩]
  | .HIF_VERSION => -- R421
    [⟨15, 8, .ro, 0x1⟩, ⟨7, 0, .ro, 0x1⟩]
  | .HIF_FEATURES => -- R421
    [⟨4, 0, .ro, 0x1F⟩]
  | .HIF_DRV_FEATURES => -- R421
    [⟨4, 0, .rw, 0x0⟩]
  | .FN_STATUS => -- R421
    [⟨31, 31, .w1c, 0x0⟩, ⟨30, 30, .w1c, 0x0⟩, ⟨29, 29, .w1c, 0x0⟩, ⟨28, 28, .w1c, 0x0⟩, ⟨27, 27, .w1c, 0x0⟩]
  | .FN_IRQ => -- R421
    [⟨23, 16, .rw, 0x0⟩, ⟨15, 8, .rw, 0x0⟩, ⟨1, 1, .rw, 0x0⟩, ⟨0, 0, .rw, 0x0⟩]
  | .FN_UNMAPPED_COUNT => -- R421
    [⟨31, 0, .rc, 0x0⟩]
  | .FWD_STATUS => -- R115
    [⟨31, 31, .w1c, 0x0⟩, ⟨30, 30, .w1c, 0x0⟩, ⟨29, 29, .w1c, 0x0⟩, ⟨3, 3, .ro, 0x0⟩, ⟨2, 2, .ro, 0x0⟩, ⟨1, 1, .ro, 0x0⟩, ⟨0, 0, .ro, 0x0⟩]
  | .FWD_CHECK_COUNT => -- R116
    [⟨31, 0, .rc, 0x0⟩]
  | .FWD_PASS_COUNT => -- R116
    [⟨31, 0, .ro, 0x0⟩]
  | .FWD_STALL_COUNT => -- R116
    [⟨31, 0, .rc, 0x0⟩]
  | .FWD_DUTY => -- R116
    [⟨10, 0, .ro, 0x400⟩]
  | .ARCH_VERSION => -- R420
    [⟨15, 8, .ro, 0x1⟩, ⟨7, 0, .ro, 0x0⟩]
  | .FEATURES => -- R420
    [⟨31, 24, .ro, 0xB1⟩, ⟨23, 16, .ro, 0x1⟩, ⟨5, 0, .ro, 0x3F⟩]
  | .HIF_STATUS => -- R420
    [⟨31, 31, .w1c, 0x0⟩, ⟨0, 0, .ro, 0x0⟩]
  | .HIF_FN_SEL => -- R420
    [⟨2, 0, .rw, 0x0⟩]
  | .HIF_FN_RINGS => -- R420
    [⟨24, 16, .rw, 0x0⟩, ⟨7, 0, .rw, 0x0⟩]
  | .HIF_FN_PORTS => -- R420
    [⟨20, 16, .rw, 0x0⟩, ⟨3, 0, .rw, 0x0⟩]
  | .KVP_CTRL => -- R338
    [⟨31, 31, .rw, 0x0⟩, ⟨20, 16, .rw, 0x0⟩]
  | .KVP_STATUS => -- R339
    [⟨31, 31, .w1c, 0x0⟩, ⟨30, 30, .w1c, 0x0⟩, ⟨29, 29, .w1c, 0x0⟩, ⟨28, 28, .w1c, 0x0⟩, ⟨27, 27, .w1c, 0x0⟩, ⟨26, 26, .w1c, 0x0⟩, ⟨7, 7, .ro, 0x0⟩, ⟨6, 0, .ro, 0x0⟩]
  | .KVP_POOL_LO => -- R338
    [⟨31, 18, .rw, 0x0⟩]
  | .KVP_POOL_HI => -- R338
    [⟨15, 0, .rw, 0x0⟩]
  | .KVP_POOL_PAGES => -- R338
    [⟨20, 0, .rw, 0x0⟩]
  | .KVP_SIDE_LO => -- R338
    [⟨31, 13, .rw, 0x0⟩]
  | .KVP_SIDE_HI => -- R338
    [⟨15, 0, .rw, 0x0⟩]
  | .KVP_TABLE_LO => -- R338
    [⟨31, 12, .rw, 0x0⟩]
  | .KVP_TABLE_HI => -- R338
    [⟨15, 0, .rw, 0x0⟩]
  | .KVP_TABLE_SIZE => -- R338
    [⟨31, 0, .rw, 0x0⟩]
  | .KVP_STAGE_OFF => -- R338
    [⟨23, 12, .rw, 0x0⟩]
  | .KVP_CMD0 => -- R340
    [⟨31, 0, .rw, 0x0⟩]
  | .KVP_CMD1 => -- R340
    [⟨31, 0, .rw, 0x0⟩]
  | .KVP_CMD2 => -- R340
    [⟨31, 0, .rw, 0x0⟩]
  | .KVP_CMD3 => -- R340
    [⟨31, 0, .rw, 0x0⟩]
  | .KVP_CMD_RESULT => -- R340
    [⟨31, 24, .ro, 0x0⟩, ⟨0, 0, .ro, 0x0⟩]
  | .KVP_GEN => -- R340
    [⟨31, 0, .ro, 0x0⟩]
  | .KVP_OLDEST => -- R340
    [⟨31, 0, .ro, 0x0⟩]
  | .KVP_FREE => -- R340
    [⟨20, 0, .ro, 0x0⟩]
  | .KVP_LAB_MISS => -- R341
    [⟨31, 0, .rc, 0x0⟩]
  | .KVP_EXHAUST_COUNT => -- R341
    [⟨31, 0, .rc, 0x0⟩]
  | .KVP_REBASE_COUNT => -- R341
    [⟨31, 0, .rc, 0x0⟩]
  | .KVP_HOLD_COUNT => -- R341
    [⟨31, 0, .rc, 0x0⟩]
  | .MEM_CTRL => -- R309
    [⟨0, 0, .rw, 0x0⟩]
  | .MEM_STATUS => -- R309
    [⟨31, 31, .w1c, 0x0⟩, ⟨30, 30, .w1c, 0x0⟩, ⟨29, 29, .w1c, 0x0⟩, ⟨0, 0, .ro, 0x0⟩]
  | .MEM_CRC_COUNT => -- R310
    [⟨31, 0, .rc, 0x0⟩]
  | .MEM_HOLD_COUNT => -- R310
    [⟨31, 0, .rc, 0x0⟩]
  | .MEM_ODECC_COUNT => -- R310
    [⟨31, 0, .rc, 0x0⟩]
  | .MEM_ERR_ADDR => -- R310
    [⟨31, 0, .ro, 0x0⟩]
  | .MEM_ERR_ADDR_HI => -- R310
    [⟨31, 31, .ro, 0x0⟩, ⟨15, 0, .ro, 0x0⟩]
  | .MGT_WD_CTRL => -- R473
    [⟨31, 24, .rw, 0xA⟩, ⟨23, 12, .rw, 0x64⟩, ⟨11, 0, .rw, 0x64⟩]
  | .MGT_HB => -- R473
    [⟨31, 16, .rw, 0x3E8⟩]
  | .MGT_REJOIN => -- R473
    [⟨15, 0, .rw, 0x1E⟩]
  | .MGT_ESC_CTRL => -- R473
    [⟨0, 0, .rw, 0x0⟩]
  | .MGT_STATUS => -- R474
    [⟨31, 31, .w1c, 0x0⟩, ⟨30, 30, .w1c, 0x0⟩, ⟨29, 29, .w1c, 0x0⟩, ⟨28, 28, .w1c, 0x0⟩, ⟨4, 4, .ro, 0x0⟩, ⟨3, 2, .ro, 0x0⟩, ⟨1, 1, .ro, 0x0⟩, ⟨0, 0, .ro, 0x0⟩]
  | .MGT_RESET_REC => -- R474
    [⟨31, 0, .ro, 0x0⟩]
  | .MGT_CTX_COUNT => -- R474
    [⟨31, 0, .rc, 0x0⟩]
  | .MGT_ENG_COUNT => -- R474
    [⟨31, 0, .rc, 0x0⟩]
  | .MGT_PART_COUNT => -- R474
    [⟨31, 0, .rc, 0x0⟩]
  | .MGT_WD_FIRE => -- R474
    [⟨31, 0, .rc, 0x0⟩]
  | .MGT_REPLAY_STEPS => -- R474
    [⟨31, 0, .rc, 0x0⟩]
  | .MGT_RESET_CMD => -- R473
    [⟨31, 28, .wo, 0x0⟩, ⟨27, 20, .wo, 0x0⟩]
  | .MGT_MRM_CMD => -- R495
    [⟨31, 24, .wo, 0x0⟩]
  | .MGT_MRM_ARG => -- R495
    [⟨31, 0, .rw, 0x0⟩]
  | .MGT_MRM_STATUS => -- R495
    [⟨31, 24, .ro, 0x0⟩, ⟨1, 1, .ro, 0x0⟩, ⟨0, 0, .ro, 0x0⟩]
  | .PLC_JOB_STATE => -- R395
    [⟨31, 24, .ro, 0x0⟩, ⟨3, 0, .ro, 0x0⟩]
  | .PLC_SYNC_CTRL => -- R395
    [⟨31, 30, .rw, 0x0⟩, ⟨11, 0, .rw, 0xFA0⟩]
  | .PLC_STATUS => -- R395
    [⟨31, 31, .w1c, 0x0⟩, ⟨30, 30, .w1c, 0x0⟩, ⟨29, 29, .w1c, 0x0⟩, ⟨28, 28, .w1c, 0x0⟩, ⟨27, 27, .w1c, 0x0⟩, ⟨26, 26, .w1c, 0x0⟩, ⟨25, 25, .w1c, 0x0⟩]
  | .PLC_STEP => -- R395
    [⟨31, 0, .ro, 0x0⟩]
  | .PLC_SYNC_WAIT => -- R395
    [⟨31, 0, .ro, 0x0⟩]
  | .PLC_SYNC_EARLY_COUNT => -- R395
    [⟨31, 0, .rc, 0x0⟩]
  | .PLC_SYNC_EXPIRED_COUNT => -- R395
    [⟨31, 0, .rc, 0x0⟩]
  | .PLC_STALL_COUNT => -- R395
    [⟨31, 0, .rc, 0x0⟩]
  | .PLC_MET_LOST => -- R395
    [⟨31, 0, .rc, 0x0⟩]
  | .PLC_MET_HEAD => -- R395
    [⟨15, 0, .ro, 0x0⟩]
  | .PLC_MET_TAIL => -- R395
    [⟨15, 0, .rw, 0x0⟩]
  | .PLC_PART_SEL => -- R394
    [⟨2, 0, .rw, 0x0⟩]
  | .PLC_PART_CLUSTERS => -- R394
    [⟨31, 0, .rw, 0x0⟩]
  | .PLC_PART_HBM => -- R394
    [⟨15, 8, .rw, 0x0⟩, ⟨7, 0, .rw, 0x0⟩]
  | .PLC_SYNC_RAW => -- R394
    [⟨31, 16, .ro, 0x0⟩, ⟨0, 0, .ro, 0x0⟩]
  | .FAB_PORT_CTRL => -- R373
    [⟨31, 31, .rw, 0x0⟩, ⟨30, 30, .rw, 0x0⟩, ⟨29, 26, .wo, 0x0⟩, ⟨25, 21, .rw, 0x10⟩, ⟨20, 13, .rw, 0x20⟩]
  | .FAB_PORT_STATUS => -- R373
    [⟨31, 31, .ro, 0x0⟩, ⟨30, 30, .w1c, 0x0⟩, ⟨29, 29, .w1c, 0x0⟩, ⟨21, 4, .ro, 0x0⟩, ⟨3, 0, .ro, 0x0⟩]
  | .FAB_PORT_MAC_LO => -- R373
    [⟨31, 0, .rw, 0x0⟩]
  | .FAB_PORT_MAC_HI => -- R373
    [⟨15, 0, .rw, 0x0⟩]
  | .FAB_PORT_GW_LO => -- R373
    [⟨31, 0, .rw, 0x0⟩]
  | .FAB_PORT_GW_HI => -- R373
    [⟨15, 0, .rw, 0x0⟩]
  | .FAB_PORT_LRETRY => -- R373
    [⟨31, 0, .rc, 0x0⟩]
  | .FAB_PORT_FEC_CORR => -- R373
    [⟨31, 0, .rc, 0x0⟩]
  | .FAB_PORT_FEC_UNCORR => -- R373
    [⟨31, 0, .rc, 0x0⟩]
  | .FAB_PORT_STOMP => -- R373
    [⟨31, 0, .rc, 0x0⟩]
  | .PWR_CTRL => -- R548
    [⟨31, 20, .rw, 0x0⟩, ⟨19, 18, .rw, 0x2⟩, ⟨17, 13, .rw, 0x1E⟩, ⟨10, 0, .rw, 0x400⟩]
  | .PWR_STATUS => -- R549
    [⟨31, 31, .w1c, 0x0⟩, ⟨30, 30, .w1c, 0x0⟩, ⟨29, 29, .w1c, 0x0⟩, ⟨28, 28, .w1c, 0x0⟩, ⟨27, 27, .w1c, 0x0⟩, ⟨11, 11, .ro, 0x0⟩, ⟨10, 10, .ro, 0x0⟩, ⟨9, 9, .ro, 0x0⟩, ⟨8, 8, .ro, 0x0⟩, ⟨7, 6, .ro, 0x0⟩, ⟨5, 4, .ro, 0x0⟩, ⟨3, 2, .ro, 0x0⟩]
  | .PWR_ALERT_EN => -- R550
    [⟨7, 0, .rw, 0x3F⟩]
  | .PWR_IN => -- R550
    [⟨31, 16, .ro, 0x0⟩, ⟨15, 0, .ro, 0x0⟩]
  | .PWR_PAVG => -- R550
    [⟨31, 16, .ro, 0x0⟩, ⟨15, 0, .rc, 0x0⟩]
  | .PWR_CAL => -- R550
    [⟨31, 16, .ro, 0x0⟩, ⟨15, 0, .ro, 0x0⟩]
  | .PWR_BRAKE => -- R550
    [⟨10, 0, .rw, 0x80⟩]
  | .PWR_SENSE => -- R550
    [⟨3, 0, .ro, 0x0⟩]
  | .PWR_DIE0 => -- R550
    [⟨31, 27, .ro, 0xC⟩, ⟨23, 16, .ro, 0x0⟩, ⟨10, 0, .ro, 0x400⟩]
  | .PWR_DIE1 => -- R550
    [⟨31, 27, .ro, 0xC⟩, ⟨23, 16, .ro, 0x0⟩, ⟨10, 0, .ro, 0x400⟩]
  | .PWR_DIE2 => -- R550
    [⟨31, 27, .ro, 0xC⟩, ⟨23, 16, .ro, 0x0⟩, ⟨10, 0, .ro, 0x400⟩]
  | .PWR_DIE3 => -- R550
    [⟨31, 27, .ro, 0xC⟩, ⟨23, 16, .ro, 0x0⟩, ⟨10, 0, .ro, 0x400⟩]
  | .PWR_THR_COUNT => -- R551
    [⟨31, 0, .rc, 0x0⟩]
  | .PWR_BRAKE_COUNT => -- R551
    [⟨31, 0, .rc, 0x0⟩]
  | .PWR_TRANS_COUNT => -- R551
    [⟨31, 0, .rc, 0x0⟩]
  | .RES_SNAP_CTRL => -- R453
    [⟨31, 24, .rw, 0x80⟩, ⟨23, 20, .rw, 0x7⟩, ⟨19, 12, .rw, 0x14⟩]
  | .RES_SNAP_CEIL => -- R453
    [⟨31, 0, .rw, 0x1000⟩]
  | .RES_SNAP_CMD => -- R453
    [⟨0, 0, .w1s, 0x0⟩]
  | .RES_SNAP_STATUS => -- R453
    [⟨31, 31, .w1c, 0x0⟩, ⟨30, 30, .w1c, 0x0⟩, ⟨29, 29, .w1c, 0x0⟩, ⟨28, 28, .w1c, 0x0⟩, ⟨27, 27, .w1c, 0x0⟩, ⟨2, 0, .ro, 0x0⟩]
  | .RES_EPOCH_C => -- R453
    [⟨31, 0, .ro, 0xFFFFFFFF⟩]
  | .RES_EPOCH_P => -- R453
    [⟨31, 0, .ro, 0xFFFFFFFF⟩]
  | .RES_TOUCH_COUNT => -- R453
    [⟨31, 0, .rc, 0x0⟩]
  | .RES_TOUCH_STALL => -- R453
    [⟨31, 0, .rc, 0x0⟩]
  | .RES_LOG_CTRL => -- R454
    [⟨19, 16, .rw, 0x9⟩, ⟨11, 0, .rw, 0x0⟩]
  | .RES_LOG_STATUS => -- R454
    [⟨31, 31, .w1c, 0x0⟩, ⟨30, 30, .w1c, 0x0⟩, ⟨29, 29, .w1c, 0x0⟩]
  | .RES_REPLAY_COUNT => -- R454
    [⟨31, 0, .rc, 0x0⟩]
  | .RES_RECOMP_COUNT => -- R454
    [⟨31, 0, .rc, 0x0⟩]
  | .RES_MAINT_CMD => -- R454
    [⟨31, 28, .wo, 0x0⟩, ⟨27, 23, .wo, 0x0⟩, ⟨22, 18, .wo, 0x0⟩, ⟨17, 16, .wo, 0x0⟩]
  | .RES_MAINT_STATUS => -- R454
    [⟨31, 24, .ro, 0x0⟩, ⟨0, 0, .ro, 0x0⟩]
  | .RES_FENCED => -- R454
    [⟨31, 0, .ro, 0x0⟩]
  | .RES_FENCE_CTRL => -- R454
    [⟨31, 0, .rw, 0xF4240⟩]
  | .RP_SQ_LO => -- R422
    [⟨31, 12, .rw, 0x0⟩]
  | .RP_SQ_HI => -- R422
    [⟨31, 0, .rw, 0x0⟩]
  | .RP_CQ_LO => -- R422
    [⟨31, 12, .rw, 0x0⟩]
  | .RP_CQ_HI => -- R422
    [⟨31, 0, .rw, 0x0⟩]
  | .RP_CFG => -- R422
    [⟨31, 31, .rw, 0x0⟩, ⟨23, 16, .rw, 0x0⟩, ⟨15, 8, .rw, 0x0⟩]
  | .RP_SIZE => -- R422
    [⟨20, 16, .rw, 0x0⟩, ⟨4, 0, .rw, 0x0⟩]
  | .RP_COAL => -- R422
    [⟨31, 16, .rw, 0x0⟩, ⟨7, 0, .rw, 0x0⟩]
  | .RP_STATUS => -- R422
    [⟨31, 31, .w1c, 0x0⟩, ⟨30, 30, .w1c, 0x0⟩, ⟨0, 0, .ro, 0x0⟩]
  | .RP_SQ_HEAD => -- R422
    [⟨15, 0, .ro, 0x0⟩]
  | .RP_SQ_TAIL => -- R422
    [⟨15, 0, .ro, 0x0⟩]
  | .RP_CQ_TAIL => -- R422
    [⟨16, 16, .ro, 0x1⟩, ⟨15, 0, .ro, 0x0⟩]
  | .RP_CQ_HEAD => -- R422
    [⟨15, 0, .ro, 0x0⟩]
  | .SEC_STATUS => -- R520
    [⟨31, 29, .ro, 0x0⟩, ⟨28, 28, .ro, 0x0⟩, ⟨27, 26, .ro, 0x0⟩, ⟨25, 25, .ro, 0x0⟩, ⟨24, 24, .ro, 0x0⟩, ⟨23, 23, .ro, 0x0⟩, ⟨22, 22, .w1c, 0x0⟩, ⟨15, 8, .ro, 0x0⟩, ⟨7, 0, .ro, 0x0⟩]
  | .SEC_LC_NONCE0 => -- R520
    [⟨31, 0, .ro, 0x0⟩]
  | .SEC_LC_NONCE1 => -- R520
    [⟨31, 0, .ro, 0x0⟩]
  | .SEC_LC_NONCE2 => -- R520
    [⟨31, 0, .ro, 0x0⟩]
  | .SEC_LC_NONCE3 => -- R520
    [⟨31, 0, .ro, 0x0⟩]
  | .SEC_TOKEN_SEL => -- R521
    [⟨31, 31, .rw, 0x0⟩, ⟨6, 0, .rw, 0x0⟩]
  | .SEC_TOKEN_DATA => -- R521
    [⟨31, 0, .rw, 0x0⟩]
  | .SEC_CMD => -- R521
    [⟨31, 24, .wo, 0x0⟩]
  | .SEC_FW_SRC_LO => -- R521
    [⟨31, 4, .rw, 0x0⟩]
  | .SEC_FW_SRC_HI => -- R521
    [⟨15, 0, .rw, 0x0⟩]
  | .SEC_FW_LEN => -- R521
    [⟨15, 0, .rw, 0x0⟩]
  | .SEC_RESULT => -- R521
    [⟨31, 24, .ro, 0x0⟩, ⟨0, 0, .ro, 0x0⟩]
  | .SEC_TAMPER => -- R520
    [⟨31, 31, .w1c, 0x0⟩, ⟨30, 30, .w1c, 0x0⟩, ⟨29, 29, .w1c, 0x0⟩, ⟨28, 28, .w1c, 0x0⟩, ⟨3, 0, .w1c, 0x0⟩]
  | .SEC_TAMPER_COUNT => -- R520
    [⟨31, 0, .rc, 0x0⟩]
  | .SHR_CTRL => -- R253
    [⟨31, 16, .rw, 0x1F4⟩]
  | .SHR_STATUS => -- R254
    [⟨31, 31, .w1c, 0x0⟩, ⟨30, 30, .w1c, 0x0⟩, ⟨29, 29, .w1c, 0x0⟩, ⟨28, 28, .w1c, 0x0⟩, ⟨27, 27, .w1c, 0x0⟩, ⟨26, 26, .w1c, 0x0⟩, ⟨25, 25, .w1c, 0x0⟩, ⟨5, 0, .ro, 0x0⟩]
  | .SHR_DFLAG_RANGE => -- R253
    [⟨25, 16, .rw, 0x0⟩, ⟨9, 0, .rw, 0x0⟩]
  | .SHR_FLAG_SEL => -- R255
    [⟨10, 10, .rw, 0x0⟩, ⟨9, 0, .rw, 0x0⟩]
  | .SHR_FLAG_DATA => -- R255
    [⟨31, 0, .rw, 0x0⟩]
  | .SHR_REG_SEL => -- R255
    [⟨11, 11, .rw, 0x0⟩, ⟨10, 10, .rw, 0x0⟩, ⟨9, 0, .rw, 0x0⟩]
  | .SHR_REG_DATA => -- R255
    [⟨31, 0, .rw, 0x0⟩]
  | .SHR_TOK_SEL => -- R256
    [⟨10, 8, .rw, 0x0⟩, ⟨7, 5, .rw, 0x0⟩, ⟨4, 0, .rw, 0x0⟩]
  | .SHR_TOK_DATA => -- R256
    [⟨31, 31, .ro, 0x0⟩, ⟨30, 24, .ro, 0x0⟩, ⟨23, 15, .ro, 0x0⟩, ⟨3, 0, .ro, 0x0⟩]
  | .SHR_DEADLOCK_COUNT => -- R256
    [⟨31, 0, .rc, 0x0⟩]
  | .SHR_TOKDL_COUNT => -- R256
    [⟨31, 0, .rc, 0x0⟩]
  | .SHR_TIMEOUT_COUNT => -- R256
    [⟨31, 0, .rc, 0x0⟩]
  | .TTL_RISK => -- R452
    [⟨7, 0, .ro, 0x0⟩]
  | .TTL_RISK_DIE => -- R452
    [⟨31, 0, .ro, 0x0⟩]
  | .TTL_RISK_CTRL => -- R452
    [⟨31, 28, .rw, 0xE⟩, ⟨23, 16, .rw, 0xA⟩, ⟨15, 8, .rw, 0x5⟩, ⟨7, 0, .rw, 0x40⟩]
  | .TTL_WEIGHT0 => -- R452
    [⟨31, 0, .rw, 0x2404010⟩]
  | .TTL_WEIGHT1 => -- R452
    [⟨31, 0, .rw, 0x8200418⟩]
  | .TTL_WEIGHT2 => -- R452
    [⟨31, 0, .rw, 0x2010420⟩]
  | .TTL_LOG_HEAD => -- R452
    [⟨10, 0, .ro, 0x0⟩]
  | .TTL_LOG_TAIL => -- R452
    [⟨10, 0, .rw, 0x0⟩]
  | .TTL_LOG_LOST => -- R452
    [⟨31, 0, .rc, 0x0⟩]
  | .TTL_SHADOW_CTRL => -- R184
    [⟨31, 31, .rw, 0x1⟩, ⟨3, 0, .rw, 0x6⟩]
  | .TTL_SHADOW_THR => -- R184
    [⟨31, 24, .rw, 0x40⟩, ⟨23, 16, .rw, 0x20⟩, ⟨15, 8, .rw, 0x80⟩, ⟨7, 0, .rw, 0x40⟩]
  | .TTL_SHADOW_DONE => -- R185
    [⟨31, 0, .ro, 0x0⟩]
  | .TTL_SHADOW_WARN_COUNT => -- R185
    [⟨31, 0, .rc, 0x0⟩]
  | .TTL_SHADOW_ALARM_COUNT => -- R185
    [⟨31, 0, .rc, 0x0⟩]
  | .TTL_SHADOW_LOST => -- R185
    [⟨31, 0, .rc, 0x0⟩]
  | .TTL_NUM_STATUS => -- R190
    [⟨31, 31, .w1c, 0x0⟩, ⟨30, 30, .w1c, 0x0⟩, ⟨29, 29, .w1c, 0x0⟩, ⟨28, 28, .w1c, 0x0⟩, ⟨27, 27, .w1c, 0x0⟩, ⟨26, 26, .w1c, 0x0⟩]
  | .TTL_NW_SEL => -- R187
    [⟨15, 15, .rw, 0x0⟩, ⟨14, 5, .rw, 0x0⟩, ⟨4, 0, .rw, 0x0⟩]
  | .TTL_NW_DATA => -- R187
    [⟨31, 0, .rw, 0x0⟩]
  | .VEC_MODE => -- R167
    [⟨0, 0, .rw, 0x0⟩]
  | .VEC_STATUS => -- R168
    [⟨31, 31, .w1c, 0x0⟩, ⟨30, 30, .w1c, 0x0⟩, ⟨29, 29, .w1c, 0x0⟩, ⟨1, 1, .ro, 0x0⟩, ⟨0, 0, .ro, 0x0⟩]
  | .VEC_FLUSH_COUNT => -- R169
    [⟨31, 0, .rc, 0x0⟩]
  | .VEC_COMB_COUNT => -- R169
    [⟨31, 0, .ro, 0x0⟩]
  | .VEC_STALL_COUNT => -- R169
    [⟨31, 0, .rc, 0x0⟩]
  | .XFR_STATUS => -- R311
    [⟨31, 31, .w1c, 0x0⟩, ⟨30, 30, .w1c, 0x0⟩, ⟨29, 29, .w1c, 0x0⟩, ⟨28, 28, .w1c, 0x0⟩, ⟨13, 7, .ro, 0x0⟩, ⟨6, 0, .ro, 0x0⟩]
  | .XFR_STALE_COUNT => -- R311
    [⟨31, 0, .rc, 0x0⟩]
  | .XFR_TAG_HOLD => -- R311
    [⟨31, 0, .rc, 0x0⟩]
  | .XFR_PARITY_COUNT => -- R311
    [⟨31, 0, .rc, 0x0⟩]
  | .XFR_WATCH_LO => -- R311
    [⟨31, 0, .ro, 0x0⟩]
  | .XFR_WATCH_HI => -- R311
    [⟨31, 0, .ro, 0x0⟩]
  | .XFR_FURL_IN => -- R311
    [⟨31, 0, .ro, 0x0⟩]
  | .XFR_FURL_OUT => -- R311
    [⟨31, 0, .ro, 0x0⟩]

/-- Every register, in the order of the chapters. -/
def Reg.byBlock : Block → List Reg
  | .HIF => [.ARCH_VERSION, .FEATURES, .HIF_STATUS, .HIF_FN_SEL, .HIF_FN_RINGS, .HIF_FN_PORTS]
  | .FN => [.HIF_VERSION, .HIF_FEATURES, .HIF_DRV_FEATURES, .FN_STATUS, .FN_IRQ, .FN_UNMAPPED_COUNT]
  | .RP => [.RP_SQ_LO, .RP_SQ_HI, .RP_CQ_LO, .RP_CQ_HI, .RP_CFG, .RP_SIZE, .RP_COAL, .RP_STATUS, .RP_SQ_HEAD,
      .RP_SQ_TAIL, .RP_CQ_TAIL, .RP_CQ_HEAD]
  | .MGT => [.MGT_WD_CTRL, .MGT_HB, .MGT_REJOIN, .MGT_ESC_CTRL, .MGT_STATUS, .MGT_RESET_REC, .MGT_CTX_COUNT,
      .MGT_ENG_COUNT, .MGT_PART_COUNT, .MGT_WD_FIRE, .MGT_REPLAY_STEPS, .MGT_RESET_CMD, .MGT_MRM_CMD, .MGT_MRM_ARG,
      .MGT_MRM_STATUS]
  | .SEC => [.SEC_STATUS, .SEC_LC_NONCE0, .SEC_LC_NONCE1, .SEC_LC_NONCE2, .SEC_LC_NONCE3, .SEC_TOKEN_SEL,
      .SEC_TOKEN_DATA, .SEC_CMD, .SEC_FW_SRC_LO, .SEC_FW_SRC_HI, .SEC_FW_LEN, .SEC_RESULT, .SEC_TAMPER,
      .SEC_TAMPER_COUNT]
  | .PWR => [.PWR_CTRL, .PWR_STATUS, .PWR_ALERT_EN, .PWR_IN, .PWR_PAVG, .PWR_CAL, .PWR_BRAKE, .PWR_SENSE,
      .PWR_DIE0, .PWR_DIE1, .PWR_DIE2, .PWR_DIE3, .PWR_THR_COUNT, .PWR_BRAKE_COUNT, .PWR_TRANS_COUNT]
  | .CKR => [.CKR_RST_STATUS, .CKR_START_COUNT, .CKR_GLITCH_COUNT, .CKR_OB_SEQ, .CKR_STAY_SEL, .CKR_STAY_DATA,
      .CKR_STAYMEM_ADDR, .CKR_STAYMEM_DATA]
  | .TTL => [.TTL_RISK, .TTL_RISK_DIE, .TTL_RISK_CTRL, .TTL_WEIGHT0, .TTL_WEIGHT1, .TTL_WEIGHT2, .TTL_LOG_HEAD,
      .TTL_LOG_TAIL, .TTL_LOG_LOST, .TTL_SHADOW_CTRL, .TTL_SHADOW_THR, .TTL_SHADOW_DONE, .TTL_SHADOW_WARN_COUNT,
      .TTL_SHADOW_ALARM_COUNT, .TTL_SHADOW_LOST, .TTL_NUM_STATUS, .TTL_NW_SEL, .TTL_NW_DATA]
  | .RES => [.RES_SNAP_CTRL, .RES_SNAP_CEIL, .RES_SNAP_CMD, .RES_SNAP_STATUS, .RES_EPOCH_C, .RES_EPOCH_P,
      .RES_TOUCH_COUNT, .RES_TOUCH_STALL, .RES_LOG_CTRL, .RES_LOG_STATUS, .RES_REPLAY_COUNT, .RES_RECOMP_COUNT,
      .RES_MAINT_CMD, .RES_MAINT_STATUS, .RES_FENCED, .RES_FENCE_CTRL]
  | .PLC => [.PLC_PART_SEL, .PLC_PART_CLUSTERS, .PLC_PART_HBM, .PLC_SYNC_RAW]
  | .PART => [.PLC_JOB_STATE, .PLC_SYNC_CTRL, .PLC_STATUS, .PLC_STEP, .PLC_SYNC_WAIT, .PLC_SYNC_EARLY_COUNT,
      .PLC_SYNC_EXPIRED_COUNT, .PLC_STALL_COUNT, .PLC_MET_LOST, .PLC_MET_HEAD, .PLC_MET_TAIL]
  | .FAB => [.FAB_CTRL, .FAB_DEVID, .FAB_INC, .FAB_STATUS, .FAB_LOST, .FAB_V6_PREFIX0, .FAB_V6_PREFIX1,
      .FAB_V6_PREFIX2, .FAB_ETH, .FAB_ROUTE_SEL, .FAB_ROUTE_DATA, .FAB_MEMBERS_LO, .FAB_MEMBERS_HI, .FAB_MEMBERS_N,
      .FAB_DROP_COUNT, .FAB_RETX_COUNT, .FAB_DUP_COUNT]
  | .PORT => [.FAB_PORT_CTRL, .FAB_PORT_STATUS, .FAB_PORT_MAC_LO, .FAB_PORT_MAC_HI, .FAB_PORT_GW_LO,
      .FAB_PORT_GW_HI, .FAB_PORT_LRETRY, .FAB_PORT_FEC_CORR, .FAB_PORT_FEC_UNCORR, .FAB_PORT_STOMP]
  | .COL => [.COL_CTRL, .COL_TABLE_LO, .COL_TABLE_HI, .COL_STORE_LO, .COL_STORE_HI, .COL_STORE_SIZE, .COL_STATUS,
      .COL_VANISH_COUNT, .COL_CLAMP_COUNT, .COL_NODE_COUNT]
  | .MEM => [.MEM_CTRL, .MEM_STATUS, .MEM_CRC_COUNT, .MEM_HOLD_COUNT, .MEM_ODECC_COUNT, .MEM_ERR_ADDR,
      .MEM_ERR_ADDR_HI]
  | .CHN => [.CHN_CTRL, .CHN_STATUS, .CHN_SLOT_CTRL, .CHN_LD_SRC_LO, .CHN_LD_SRC_HI, .CHN_LD_DST, .CHN_LD_LEN,
      .CHN_EVR_BASE, .CHN_EVR_CTRL, .CHN_EVR_HEAD, .CHN_EVR_TAIL, .CHN_EVR_LOST, .CHN_CORE_EN, .CHN_MBOX,
      .CHN_MBOX_OUT, .CHN_DISP_COUNT, .CHN_HOLD_COUNT]
  | .SHR => [.SHR_CTRL, .SHR_STATUS, .SHR_DFLAG_RANGE, .SHR_FLAG_SEL, .SHR_FLAG_DATA, .SHR_REG_SEL, .SHR_REG_DATA,
      .SHR_TOK_SEL, .SHR_TOK_DATA, .SHR_DEADLOCK_COUNT, .SHR_TOKDL_COUNT, .SHR_TIMEOUT_COUNT]
  | .KVP => [.KVP_CTRL, .KVP_STATUS, .KVP_POOL_LO, .KVP_POOL_HI, .KVP_POOL_PAGES, .KVP_SIDE_LO, .KVP_SIDE_HI,
      .KVP_TABLE_LO, .KVP_TABLE_HI, .KVP_TABLE_SIZE, .KVP_STAGE_OFF, .KVP_CMD0, .KVP_CMD1, .KVP_CMD2, .KVP_CMD3,
      .KVP_CMD_RESULT, .KVP_GEN, .KVP_OLDEST, .KVP_FREE, .KVP_LAB_MISS, .KVP_EXHAUST_COUNT, .KVP_REBASE_COUNT,
      .KVP_HOLD_COUNT]
  | .CVT => [.CVT_REEF_CTRL, .CVT_REEF_STATUS, .CVT_LS_CTRL, .CVT_LOSS_SCALE, .CVT_SKIP_COUNT, .CVT_REEF_SEL,
      .CVT_REEF_DATA]
  | .FWD => [.FWD_STATUS, .FWD_CHECK_COUNT, .FWD_PASS_COUNT, .FWD_STALL_COUNT, .FWD_DUTY]
  | .BWD => [.BWD_STATUS, .BWD_CHECK_COUNT, .BWD_PASS_COUNT, .BWD_FPASS_COUNT, .BWD_STALL_COUNT, .BWD_DUTY]
  | .VEC => [.VEC_MODE, .VEC_STATUS, .VEC_FLUSH_COUNT, .VEC_COMB_COUNT, .VEC_STALL_COUNT]
  | .GTH => []
  | .XFR => [.XFR_STATUS, .XFR_STALE_COUNT, .XFR_TAG_HOLD, .XFR_PARITY_COUNT, .XFR_WATCH_LO, .XFR_WATCH_HI,
      .XFR_FURL_IN, .XFR_FURL_OUT]

/-- Reset value of a register from its fields. -/
def Reg.fieldReset (r : Reg) : Word :=
  r.fields.foldl (fun w f => setBits w f.hi f.lo f.reset) 0#32

/-- The key of instance `i` of a register in the register store. -/
def Reg.key (r : Reg) (i : Nat) : Nat := r.ctorIdx + 512 * i

/-- Reset value of instance `i`; partition 0 starts with every cluster and all HBM, PF0 with every ring pair and
port (R394, R398, R420). -/
def Reg.resetAt (r : Reg) (i : Nat) : Word :=
  match r with
  | .PLC_PART_CLUSTERS => if i = 0 then 0xFFFFFFFF#32 else 0#32
  | .PLC_PART_HBM => if i = 0 then 0x90#32 else 0#32
  | .HIF_FN_RINGS => if i = 0 then 0x01000000#32 else 0#32
  | .HIF_FN_PORTS => if i = 0 then 0x00100000#32 else 0#32
  | r => r.fieldReset

/-- The select registers that exist twice, once for the host and once for the Mastheads (R556). -/
def Reg.isSelect : Reg → Bool
  | .CVT_REEF_SEL | .TTL_NW_SEL | .SHR_FLAG_SEL | .SHR_REG_SEL | .SHR_TOK_SEL | .CKR_STAY_SEL | .CKR_STAYMEM_ADDR
  | .SEC_TOKEN_SEL | .FAB_ROUTE_SEL | .PLC_PART_SEL | .HIF_FN_SEL => true
  | _ => false

end Sys2Proof.Machine
end

