-- ==== Sys2Proof/Machine/State.lean ====
section
/-!
DEFINITION. The machine's state as plain data: every register, memory, queue, table and mark the spec gives the
GH-2460, the queue of commands that wait, and the state right after power-on reset. INVENTORY.md's State section lists
each piece with its rule.
-/

namespace Sys2Proof.Machine

/-- Completion and completion-entry statuses; the constructors stand in the order of their numeric values (R399). -/
inductive Status where
  | ok | skippedStep | saturated | vanished | stale | pageExhausted | deadlock | timeout | slotBusy | peerLost
  | recomputed | restored | hangReset | faultAddress | versionMismatch | authFail
  deriving DecidableEq, Repr

/-- Telltale's event codes (R423). -/
inductive TCode where
  | detectedRecomputed | memPersistent | arrayCheckPersistent | prefetchLivelock | linkRetry
  | shadowWarn | shadowAlarm | normWarn | normAlarm | satThreshold | vanThreshold | baseClamped | skipRunLimit
  | updateNonfinite | tempMargin | voltMargin | laneMargin | peerLost | epochCommitted | epochDiscarded | restore
  deriving DecidableEq, Repr

/-- One event posted to a die's Telltale since its last tick (R423). -/
structure TEvent where
  code : TCode
  subject : Word
  value : Word
  /-- What the event carries beyond its log record: the core of a shadow event (R182); kind, x and mean of a norm event
  (R188). -/
  more : List Word := []
  deriving DecidableEq, Repr

/-- One token of one engine of a core (R231). -/
structure Tok where
  count : Nat
  pend : Nat
  pendOwn : Nat
  stale : Bool
  /-- The unconsumed posts in the order they were made, as the input versions of R440. -/
  srcs : List Word
  deriving DecidableEq, Repr

def Tok.reset : Tok := ⟨0, 0, 0, false, []⟩

/-- One entry of a queue's Replay Log (R440). `word` to `srcB` are the entry as the spec lays it out; `blocksIn` and
`blocksOut` are the 256-byte blocks it read and wrote, by which R442 drops it or sets `noReplay`. -/
structure LogEntry where
  word : TWord
  seq : Nat
  dver : Nat
  done : Bool
  noReplay : Bool
  status : Status
  srcA : Word
  srcB : Word
  blocksIn : List Nat
  blocksOut : List Nat
  /-- A KVAPPEND's first token, for its replay (R325). -/
  aux : Nat
  /-- The entry leaves the log as soon as every entry before it has completed (R442). -/
  drop : Bool
  /-- Its place among the completions of the device, by which R444 knows the newest. -/
  order : Nat
  deriving DecidableEq, Repr

/-- An instruction that has issued and has not completed: it waits for acknowledgements, replies or a result from
outside its core, or its engine has stopped in it. -/
structure Flight where
  word : TWord
  seq : Nat
  met : List Status
  /-- Its descriptors as they stood at issue (R198), operands in the order of their fields. -/
  descs : List Desc
  /-- Frames that wait for an answer: flow and PSN (R355). -/
  waits : List (Nat × Nat)
  /-- Segments of a transfer that have not landed, as byte ranges of the destination (R299). -/
  segs : List (Nat × Nat)
  /-- Bytes that READ_DATA frames have brought, at the peer's addresses; or the bytes of `segs`. -/
  img : Memory
  /-- A collective's ID and instance (R371). -/
  col : Option (Nat × Nat)
  /-- What the last answer still has to write, if it has: data read from a peer, or a collective's result. -/
  due : Bool
  /-- The engine has stopped in the instruction; only a reset ends it (R109, R455). -/
  stuck : Bool
  /-- Nothing is waited for any more; completion only follows queue order (R200). -/
  done : Bool
  /-- `VEC_MODE.FTZ` as the instruction began (R168). -/
  ftz : Bool
  deriving DecidableEq, Repr

/-- One engine's queue in one core (R17, R192, R222, R227, R245). -/
structure EngQ where
  items : List TWord
  /-- The head is a WAITF that holds the queue with its condition false (R245). -/
  waiting : Bool
  /-- The head was held for a refetch, so it completes with `STALE` (R237). -/
  restale : Bool
  /-- A refetch of the head's stale ranges is under way (R237). -/
  refetching : Bool
  /-- Instructions issued since context start (R227). -/
  seq : Word
  /-- Between UPASS_OPEN and UPASS_CLOSE (R222). -/
  upass : Bool
  flight : List Flight
  log : List LogEntry
  deriving DecidableEq, Repr

def EngQ.reset : EngQ := ⟨[], false, false, false, 0, false, [], []⟩

/-- One Source Watch range (R301 to R303). -/
structure WRange where
  armed : Bool
  blocks : List Nat
  eng : Nat
  tok : Nat
  /-- Order of the PREFETCH's post among the bindings of its token (R301). -/
  order : Nat
  /-- A write has met the range (R302). -/
  seen : Bool
  /-- Consecutive refetches of this binding (R303). -/
  refetches : Nat
  /-- A refetch of the range is under way (R303). -/
  busy : Bool
  src : Desc
  dst : Desc
  deriving DecidableEq, Repr

def WRange.reset : WRange := ⟨false, [], 0, 0, 0, false, 0, false, 0, 0⟩

/-- An unjudged shadow sample (R180): the destination descriptor it is tagged with, whether its source is G8_E5M2,
its `TID`, the levels in force when it was taken, the channels K, and the Shadow Buffer's contents: BF16 rows of X, and, once an array instruction has
completed it, the columns N, the rows of Y and the reference weight. -/
structure Shadow where
  desc : Nat
  gradient : Bool
  tid : Word
  /-- `TTL_SHADOW_THR` as it stood when the sample was taken (R184). -/
  thr : Word
  k : Nat
  x : List (List Nat)
  n : Option Nat
  y : List (List Word)
  wref : Desc
  wtrans : Bool
  deriving DecidableEq, Repr

/-- Why a core's queues do not issue (R224): the cause code of R458 and the status that brought it. -/
structure Hold where
  cause : Nat
  eng : Nat
  status : Status
  deriving DecidableEq, Repr

/-- One record of the Descriptor Journal (R441). -/
structure JRec where
  entry : Nat
  dver : Nat
  old : Desc
  deriving DecidableEq, Repr

/-- What the cells of an array hold (R95, R99, R118, R121). Registers of the 128 by 128 cells stand at 128 × row + column;
an unlisted one holds 0, so every register has a value at reset (log entry 113). -/
structure Cells where
  /-- Weight registers: the code, and the Shift of its group. -/
  weights : SMap (Nat × Nat)
  /-- The Forward Array's check weights by row; the Backward Array's residues by register row, and by register column. -/
  checkCol : SMap Int
  checkRow : SMap Int
  /-- Outlier Band: BF16 weights by band row and column, and the Outlier Map word of the block. -/
  band : SMap Nat
  map : Word
  deriving DecidableEq, Repr

def Cells.reset : Cells := ⟨[], [], [], [], 0⟩

/-- A bank of a Column Accumulator, 256 entries in each of 128 columns, at 128 × stream row + column: a binary32 sum, and the
hold field of the Forward Array (R95, R102, R118). An unlisted entry holds 0. -/
abbrev AccBank := SMap (Word × BitVec 16)

/-- The registers of an array: active and shadow cells, what the check cells of its rows take, both banks of the Column
Accumulator, and the bank of the next stream block (R95, R98, R118, R125). -/
structure ArrayRegs where
  active : Cells
  shadow : Cells
  check : SMap Int
  bank0 : AccBank
  bank1 : AccBank
  second : Bool
  deriving DecidableEq, Repr

def ArrayRegs.reset : ArrayRegs := ⟨.reset, .reset, [], [], [], false⟩

/-- A core: its six queues by `ENGINE` code, tokens by 32 × engine + ID, descriptors, Source Watch, shadow sampling. -/
structure Core where
  q : SMap EngQ
  tok : SMap Tok
  desc : SMap Desc
  /-- Descriptor Table version (R441). -/
  dver : Nat
  journal : List JRec
  watch : SMap WRange
  watchOrder : Nat
  hold : Option Hold
  /-- Shadow-sample candidates counted (R179). -/
  cand : Nat
  shadow : Option Shadow
  /-- Data Cache: the 256-byte block of each valid line, by 8 × set + way. A line's data are the memory's, because every
  write invalidates it (R296, R297). -/
  dcache : SMap (Option Nat)
  /-- Replacement bits of each set (R296). -/
  plru : SMap Nat
  /-- Blocks that miss registers track; `true` when an invalidation came while the miss was outstanding (R289, R298). -/
  miss : List (Nat × Bool)
  /-- The Forward and the Backward Array. -/
  fwd : ArrayRegs
  bwd : ArrayRegs
  /-- The Gather Engine waits for a transfer tag: how many tags the Move Engine may hold meanwhile (R289, R290). -/
  gthWait : Option Nat
  deriving DecidableEq, Repr

def Core.reset : Core := ⟨[], [], [], 0, [], [], 0, none, 0, none, [], [], [], .reset, .reset, none⟩

/-- One conversion's post on its way to the Reef Table (R65, R67): the largest finite magnitude, the counts, whether
a non-finite source element was met, and whether the conversion ran in the update pass (R82). -/
structure RPost where
  entry : Nat
  max : Word
  sat : Nat
  van : Nat
  ovf : Bool
  update : Bool
  deriving DecidableEq, Repr

/-- A tensor word that the Chanter holds at dispatch because a selected queue is full (R195, R263). -/
structure HeldDispatch where
  word : TWord
  /-- Address of the dispatching instruction. -/
  pc : DWord
  /-- Length of the dispatching instruction. -/
  len : Nat
  deriving DecidableEq, Repr

/-- A Chanter load under way (R279). -/
structure Load where
  target : Nat
  out : Bool
  offset : Nat
  len : Nat
  src : Nat
  /-- A write of 1 to `RUN` that takes effect when the load completes (R266). -/
  startAfter : Bool
  deriving DecidableEq, Repr

/-- The Chanter of a cluster (R257 to R281). Standard CSRs are those of RV64 machine mode. -/
structure Chanter where
  x : SMap DWord
  pc : DWord
  mstatus : DWord
  mie : DWord
  /-- The custom pending bits 16, 18, 19 and 20 of `mip`; bits 7 and 17 follow their levels (R273). -/
  mip : DWord
  mtvec : DWord
  mscratch : DWord
  mepc : DWord
  mcause : DWord
  mtval : DWord
  /-- AON cycles (R259). -/
  time : DWord
  mcycle : DWord
  minstret : DWord
  mcountinhibit : DWord
  tmtimecmp : DWord
  tdispcnt : DWord
  tholdcnt : DWord
  /-- Reservation of LR: address and size (R271). -/
  resv : Option (Nat × Nat)
  wfi : Bool
  /-- Slot B is the active slot (R278). -/
  active : Bool
  armed : Bool
  held : Option HeldDispatch
  ld : Option Load
  imA : Memory
  imB : Memory
  dm : Memory
  deriving DecidableEq, Repr

def Chanter.reset : Chanter :=
  { x := [], pc := 0, mstatus := 0x1800#64, mie := 0, mip := 0, mtvec := 0, mscratch := 0, mepc := 0, mcause := 0
    mtval := 0, time := 0, mcycle := 0, minstret := 0, mcountinhibit := 0, tmtimecmp := 0xFFFFFFFFFFFFFFFF#64, tdispcnt := 0
    tholdcnt := 0, resv := none, wfi := false, active := false, armed := false, held := none, ld := none
    imA := [], imB := [], dm := [] }

/-- What a staging page of a core's Staging Buffer is doing (R324, R328). -/
inductive StageState where
  | filling | flushing | stalled | draining
  deriving DecidableEq, Repr

/-- A page list entry that a flush will write when it is complete: sequence, page index, page number, the largest row
Base so far, and whether the flush allocated the page (R317, R324, R328). -/
structure PageUpd where
  seq : Nat
  idx : Nat
  page : Nat
  pbmax : Int
  fresh : Bool
  deriving DecidableEq, Repr

/-- A staging page: rows staged, rows its flush has written, the list entries and lengths that the flush will write,
and, while it drains, the generation of its flush (R320, R324). -/
structure StagePage where
  st : StageState
  fill : Nat
  row : Nat
  upd : List PageUpd
  lens : SMap Nat
  gen : Word
  deriving DecidableEq, Repr

def StagePage.reset : StagePage := ⟨.filling, 0, 0, [], [], 0⟩

/-- A core's Staging Buffer (R323, R324): which page is active, and both pages. -/
structure Stage where
  active : Bool
  a : StagePage
  b : StagePage
  deriving DecidableEq, Repr

def Stage.reset : Stage := ⟨false, .reset, .reset⟩

/-- The Halyard of a cluster (R314 to R330). The Sequence Table, the page lists and the Free Queue's entries lie in
memory, in the Table Region. -/
structure Halyard where
  gen : Word
  /-- Start generations of the active walks (R318). -/
  walks : List Word
  /-- Live `ALEN` of the open sequences (R316). -/
  alen : SMap Nat
  /-- Free Queue: index of its head, and pages in it (R320). -/
  freeHead : Nat
  freeCount : Nat
  /-- Pages freed and not yet reusable, with the generation that freed them, oldest first (R320). -/
  reclaim : List (Nat × Word)
  /-- An update command held for older walks (R319). -/
  held : Bool
  stage : SMap Stage
  /-- Look-aside buffer: the (sequence, page index div 16) of the 16 entries in each of its 32 places, and its replacement
  bits (R321). -/
  lab : SMap (Option (Nat × Nat))
  labTree : Nat
  /-- Sequence Cache (R321). -/
  seqCache : List Nat
  deriving DecidableEq, Repr

def Halyard.reset : Halyard := ⟨0, [], [], 0, 0, [], false, [], [], 0, []⟩

/-- A cluster: its flags and registrations (R242, R247), Reef Table (R62), posts on the way, Scratchpad bank split
(bit b: bank b belongs to the B-stream, R15), Chanter and Halyard. -/
structure Cluster where
  flags : SMap Word
  /-- Setter groups of the cluster flags, by 2 × flag + group. -/
  regs : SMap Word
  reef : SMap Word
  posts : List RPost
  /-- Entries whose `OVF` a conversion of the update pass has set (R76 order 7, R82). -/
  ovfKeep : List Nat
  banks : Word
  chn : Chanter
  kv : Halyard
  deriving DecidableEq, Repr

def Cluster.reset : Cluster := ⟨[], [], [], [], [], 0xFFFF0000#32, .reset, .reset⟩

/-- One Masthead (R13, R466 to R468). -/
structure Masthead where
  running : Bool
  /-- Heartbeat periods missed since the last heartbeat seen (R466). -/
  missed : Nat
  /-- Start tests failed in a row (R468). -/
  fails : Nat
  deriving DecidableEq, Repr

def Masthead.reset : Masthead := ⟨true, 0, 0⟩

/-- Something a die keeps: die flags and their setter groups (R242, R247), Telltale's
events of the tick and its accumulators (R424, R425), its Masthead, Control Memory (R507), Stay registers (R486), and
its HBM's Collective Engine node store (R368, R371). -/
structure Die where
  dflags : SMap Word
  /-- Setter groups of the die flags, by 2 × flag + group. -/
  dregs : SMap Word
  events : List TEvent
  accErr : Word
  accShadow : Word
  accNorm : Word
  /-- Level scores that were non-zero at the last tick: temperature, voltage, lanes (R423). -/
  levels : BitVec 3
  mast : Masthead
  ctl : Memory
  stay : SMap Word
  deriving DecidableEq, Repr

/-- Before phase 0 of a power-on start has written them 0, Stay 8 to 10 hold what `RES_EPOCH_C` and `RES_EPOCH_P` show at
reset (R453). -/
def Die.reset : Die :=
  ⟨[], [], [], 0, 0, 0, 0, .reset, [], [(8, 0xFFFFFFFF#32), (9, 0xFFFFFFFF#32), (10, 0xFFFFFFFF#32)]⟩

/-- A request that waits for a slot of a controller (R286): its core, its 256-byte block, what holds it at its requester, and
the cycles it has waited. -/
structure HeldReq where
  core : CoreId
  block : Nat
  kind : ReqKind
  waited : Nat
  deriving DecidableEq, Repr

/-- A controller: requests held at it, oldest first as they came, and requests accepted (R286). -/
structure Ctrl where
  held : List HeldReq
  accepted : List (Nat × Nat)
  deriving DecidableEq, Repr

def Ctrl.reset : Ctrl := ⟨[], []⟩

/-- A host window granted to a partition (R416). -/
structure HostWin where
  base : DWord
  len : Nat
  /-- The device may read, and may write. -/
  rd : Bool
  wr : Bool
  deriving DecidableEq, Repr

/-- An entry of the tensor table (R377): `kind` 0 is WEIGHT, 1 ACTIVATION, 2 KV. -/
structure TensorRow where
  tid : Word
  kind : Nat
  frozen : Bool
  psens : Bool
  pbf16 : Bool
  out : Bool
  gsize : Nat
  layer : Nat
  k : Nat
  n : Nat
  wd : Word
  deriving DecidableEq, Repr

/-- A job as its descriptor gives it (R375 to R377), and the entry that submitted it (R411). -/
structure Job where
  id : Word
  /-- Address of the descriptor. -/
  jd : Nat
  resume : Bool
  strict : Bool
  /-- Epoch to resume from. -/
  epoch : Word
  steps : Nat
  start : Word
  pm1 : Nat
  /-- Digest of the Kweand image (R511). -/
  digest : List Byte
  exp0 : Nat
  lsCtrl : Word
  reefCtrl : Word
  vecMode : Word
  /-- b1, omb1, b2, omb2, eps and mu (R376). -/
  hyper : List Word
  /-- Metrics Ring: host address, LOG2N and INTERVAL. -/
  met : Option (Nat × Nat × Nat)
  /-- TID and reduction extent of the weight tensors with selected outlier channels. -/
  tensors : List (Word × Nat)
  table : List TensorRow
  /-- The words of REDUCTIONS: `D`, `NLEVEL`, `NFMT`, `NGSIZE` and `RNARROW` of each split reduction (R376). -/
  reds : List Word
  /-- GMB and MBTOK; the learning-rate table's address and length. -/
  gmb : Nat
  mbtok : Nat
  lrt : Nat × Nat
  /-- OPT, and CLIP. -/
  opt : Nat
  clip : Word
  /-- Words 0 and 1 of CONSTRAINTS. -/
  cons : Word × Word
  pins : List (Word × Word × Word × Word)
  /-- Address of section 8, the Job Member Table (R362, R376). -/
  memTab : Nat
  members : List Nat
  /-- Where its completions go. -/
  ring : Nat
  tag : Word
  irq : Bool
  deriving DecidableEq, Repr

/-- What a plan decides (R380, R381, R385 to R387): its shape, this device's rank, the Placement Report's address and records, d, the
two input buffers and their length, and the INIT areas; the stage, replica and tensor-parallel index of its rank, its first micro-batch
and how many, and at each shard depth the first and last shard that holds one of them. -/
structure Place where
  s : Nat
  w : Nat
  t : Nat
  rank : Nat
  report : Nat
  input : Option (Nat × Nat × Nat)
  records : List (Word × Word × Word × Word)
  digest : DWord
  inits : List (Word × Nat)
  stage : Nat
  replica : Nat
  way : Nat
  mb : Nat × Nat
  shards : List (Nat × Nat)
  deriving DecidableEq, Repr

def Place.reset : Place := ⟨0, 0, 0, 0, 0, none, [], 0, [], 0, 0, 0, (0, 0), []⟩

/-- A step that is ready for its boundary (R389): the mode and window in force, and its metrics. -/
structure Ready where
  mode : Nat
  window : Nat
  met : Metrics
  deriving DecidableEq, Repr

/-- Parity groups that an earlier plan formed: members by rank, group size − 1, and the lost of them (R446). -/
structure OldGroups where
  members : List Nat
  group : Nat
  lost : List Nat
  deriving DecidableEq, Repr

/-- What a partition's job holds beside its registers (R376 to R393, R427, R461, R470). -/
structure Part where
  job : Option Job
  plan : Option Plan
  place : Place
  /-- The step's overflow verdict once it is formed; true is an overflow (R76). -/
  verdict : Option Bool
  /-- Reef has done orders 4 to 7 of R76 for the step. -/
  reefDone : Bool
  ready : Option Ready
  /-- The next step waits for its input buffer (R24). -/
  inputHold : Bool
  /-- µs of input stall before the step. -/
  stallUs : Nat
  /-- The step-end exchange found a request for an epoch, and a non-finite mark (R427). -/
  reqOr : Bool
  nfOr : Bool
  /-- Gradient accumulation of this device met an infinity or NaN in the step (R22, R76). -/
  gradNf : Bool
  /-- An UPDATE_NONFINITE waits for the next exchange. -/
  nf : Bool
  /-- The job carries the non-finite mark (R426). -/
  mark : Bool
  /-- The risk latch is armed (R427). -/
  armed : Bool
  skips : Nat
  /-- The two Boundary Record areas, and which the next boundary writes (R461). -/
  rec0 : Option Capture
  rec1 : Option Capture
  recNext : Bool
  /-- Metrics records since the last metrics interrupt, and entries that posted a threshold event in the step (R393). -/
  metSeq : Nat
  satN : Nat
  vanN : Nat
  /-- STEP of the complete input buffer of each parity (R386). -/
  buf0 : Option Word
  buf1 : Option Word
  /-- The first epoch has not committed, so the first step has not begun (R428). -/
  firstEpoch : Bool
  /-- An update-pass instruction has issued in the step after a clean verdict (R462). -/
  updated : Bool
  /-- A TIMEOUT has ended in a step replay of this step (R458). -/
  timedOut : Bool
  /-- Devices reported lost (R380). -/
  lost : List Nat
  /-- A drain's epoch has committed: the next boundary passes to REPLANNING (R450). -/
  replanDue : Bool
  /-- A drain, or a part's return, asks for an epoch and then a re-plan (R450). -/
  drainDue : Bool
  /-- The epoch in progress was started with that request pending: its commit brings the re-plan (R437, R450). -/
  drainEp : Bool
  /-- The constant pages are not captured yet under the plan in force (R429). -/
  constDue : Bool
  /-- The first boundary after a re-plan starts an epoch (R446). -/
  epochDue : Bool
  /-- Group size − 1 in force (R433, R453). -/
  group : Nat
  /-- A RESTORE notice came in HOLDING (R472). -/
  holdRestore : Bool
  /-- A detection or a replay calls for a restore (R307, R444). -/
  restoreDue : Bool
  /-- The image's state pages, as 64 KiB page numbers of the device map (R428). -/
  pages : List Nat
  /-- `PLC_SYNC_CTRL` in force since the last ready point (R389). -/
  sync : Word
  /-- Its own recovery has reset the partition or brought the job back, and the rejoin's collective is to come (R471). -/
  rejoin : Bool
  /-- After a re-plan and until an epoch commits under the new groups: the members and the group size − 1 whose parity protects the
  committed epoch, and those of them that are lost (R446). -/
  old : Option OldGroups
  deriving DecidableEq, Repr

def Part.reset : Part :=
  { job := none, plan := none, place := .reset, verdict := none, reefDone := false, ready := none, inputHold := false, stallUs := 0
    reqOr := false, nfOr := false, gradNf := false, nf := false, mark := false, armed := false, skips := 0, rec0 := none, rec1 := none
    recNext := false, metSeq := 0, satN := 0, vanN := 0, buf0 := none, buf1 := none, firstEpoch := false
    updated := false, timedOut := false, lost := [], replanDue := false, drainDue := false, drainEp := false, constDue := false, epochDue := false, group := 7, holdRestore := false
    restoreDue := false, pages := [], sync := 0x0FA0#32, rejoin := false, old := none }

/-- The Snapshot Engine (R428 to R437): the partition and number of the epoch in progress, its slot, the state pages
that are protected and not yet copied, the headers of the two slots, and the addresses of the persistent detections
that restores answered, until an epoch commits (R439). -/
structure Snap where
  part : Nat
  epoch : Word
  slot : Bool
  prot : List Nat
  head0 : Option Capture
  head1 : Option Capture
  lastBad : List Nat
  /-- Persistent detections whose restore has not been made (R308, R439). -/
  bad : List Nat
  /-- `RES_SNAP_CTRL` and `RES_SNAP_CEIL` in force since the last boundary (R453). -/
  ctrl : Word
  ceil : Word
  /-- A write of the epoch in progress would have reached a Table Region (R315). -/
  refused : Bool := false
  deriving DecidableEq, Repr

def Snap.reset : Snap := ⟨0, 0, false, [], none, none, [], [], 0x80714000#32, 0x1000#32, false⟩

/-- A fault that has entered the ladder and whose recovery has not run (R455 to R459). -/
structure FaultRec where
  level : Nat
  cause : Nat
  /-- Core, cluster, die or partition, by level. -/
  unit : Nat
  eng : Nat
  deriving DecidableEq, Repr

/-- Maintenance under way (R447, R450): the operation, its unit and die, and the slices of a recalibration done. -/
structure Maint where
  op : Nat
  unit : Nat
  pc : Nat
  die : Nat
  deriving DecidableEq, Repr

/-- Recovery and service (R447 to R474). -/
structure Recov where
  faults : List FaultRec
  /-- Recoveries of levels 1 and 2 since the last step boundary, and of level 3 since the last commit (R459). -/
  seen : List FaultRec
  maint : Option Maint
  /-- Clusters out of the healthy-cluster mask (R380, R450, R484). -/
  drained : Word
  /-- Clusters that failed the array test of the last start (R484). -/
  failedTest : Word
  /-- Step of the last ARRAY_CHECK_PERSISTENT of each cluster (R451). -/
  acp : SMap (Option Nat)
  /-- `MGT_WD_CTRL` and `MGT_REJOIN` in force since the last boundary (R473). -/
  wd : Word
  rejoin : Word
  /-- Temperature of a die in °C when a pseudo-channel of a stack was last calibrated, by 32 × stack + channel (R448). -/
  calTemp : SMap Int
  deriving DecidableEq, Repr

def Recov.reset : Recov := ⟨[], [], none, 0, 0, [], 0x0A064064#32, 0x1E#32, []⟩

/-- A completion on its way to a ring (R408, R410). -/
structure Compl where
  status : Nat
  more : Bool
  op : Nat
  tag : Word
  mask : Nat
  result : List Byte
  irq : Bool
  /-- The ring pair of its entry. -/
  src : Nat
  deriving DecidableEq, Repr

/-- A ring pair beside its registers (R400 to R409, R417). -/
structure RingQ where
  /-- Entries fetched and not yet acted on, as bytes, in ring order. -/
  entries : List (List Byte)
  /-- JOB_SUBMIT entries whose first completion is due. -/
  due : Nat
  comps : List Compl
  /-- Completions written and not yet signalled. -/
  unsig : Nat
  deriving DecidableEq, Repr

def RingQ.reset : RingQ := ⟨[], 0, [], 0⟩

/-- An open Data Port window (R412 to R415). -/
structure PWin where
  /-- The host reads. -/
  dirRead : Bool
  /-- An INPUT window's buffer parity. -/
  input : Option Nat
  base : Nat
  len : Nat
  pos : Nat
  overrun : Bool
  poison : Bool
  /-- Bytes of it would have reached a Table Region (R315). -/
  refused : Bool := false
  deriving DecidableEq, Repr

/-- An MSI-X vector (R417). -/
structure Vec where
  addr : DWord
  data : Word
  masked : Bool
  pend : Bool
  deriving DecidableEq, Repr

def Vec.reset : Vec := ⟨0, 0, true, false⟩

/-- The host interface beside its registers (R396 to R422). -/
structure HostIf where
  rings : SMap RingQ
  /-- Windows by device number. -/
  wins : SMap (Option PWin)
  /-- Vectors by 256 × function + vector. -/
  vecs : SMap Vec
  /-- The ring pair fetched from last, and the one an entry of which started last (R405). -/
  rr : Nat
  turn : Nat
  /-- Job completions that wait for an enabled ring of a partition (R411). -/
  jobComps : List (Nat × Compl)
  deriving DecidableEq, Repr

def HostIf.reset : HostIf := ⟨[], [], [], 255, 255, []⟩

/-- What a firmware image's header says (R503). -/
structure Fw where
  svn : Nat
  hoMin : Nat
  hoMax : Nat
  digest : List Byte
  deriving DecidableEq, Repr

/-- One-time fuses (R498): device secrets by die, key hashes (0 and 1 VKEY, 2 to 5 OWNER), and for each flag or
counter position the mask of its burned fuses. Positions: 0, 1 revoke VKEY; 2 to 5 set OWNER; 6 to 9 revoke OWNER; 10
LC_PROV; 11 LC_RMA; 12 LC_RET; 16 onward SVN_CTR. -/
structure Otp where
  uds : SMap (BitVec 256)
  hash : SMap (BitVec 512)
  fuse : SMap (BitVec 3)
  deriving DecidableEq, Repr

def Otp.reset : Otp := ⟨[], [], []⟩

/-- A start that has not completed (R476, R483): none under way; AON rail down; held by its sources; waiting for REFCLK in phase 0 or
1; held in the cold in phase 1; or ready to run, at power-on or chip level. -/
inductive Start where
  | none | off | held | ready | ref | cold
  deriving DecidableEq, Repr

/-- The governor's loops for one die (R533 to R535). -/
structure Gov where
  power : Nat
  thermal : Nat
  /-- The thermal loop lowers the die's duty. -/
  hot : Bool
  /-- ms in a row that the hottest sensor has stood at its throttle temperature + 5 °C or more (R534). -/
  scorch : Nat
  /-- One of the two cases of R534 holds, in which the clock leaves its target. -/
  slow : Bool
  /-- The clock has left its target and is not back. -/
  below : Bool
  /-- ms since the clock last stepped, while neither case holds. -/
  up : Nat
  /-- A step of 100 MHz is due (R534). -/
  due : Bool
  deriving DecidableEq, Repr

def Gov.reset : Gov := ⟨0x400, 0x400, false, 0, false, false, 0, false⟩

/-- The messages that the SPDM responder has kept for its next signatures (R510, R517): those from GET_VERSION to ALGORITHMS,
those of digests and certificates, and those of measurements. -/
structure Spdm where
  vca : List Byte
  certs : List Byte
  meas : List Byte
  deriving DecidableEq, Repr

def Spdm.reset : Spdm := ⟨[], [], []⟩

/-- Reset, start, security, power and the tray bus (R475 to R551). -/
structure Chip where
  start : Start
  /-- The start is a power-on start, so it runs phase 0. -/
  power : Bool
  /-- Source of the start, and a bit for every source since the last start complete (R477, R487). -/
  src : Nat
  seen : BitVec 8
  /-- PERST_N low, RESET_N low, thermal trip. -/
  perst : Bool
  resetn : Bool
  therm : Bool
  /-- Contents of HBM are lost (R475); every stack entered self-refresh (R478). -/
  hbmLost : Bool
  refreshed : Bool
  /-- Stay memory (R464). -/
  stayMem : Memory
  /-- Module flash, each byte inverted: an erased byte reads 0xFF. -/
  flash : Memory
  otp : Otp
  /-- The running image. -/
  fw : Option Fw
  /-- The token buffer (R521). -/
  token : Memory
  /-- SPDM signing state of die 0 (R517). -/
  spdm : Spdm
  /-- A sensor has tripped while a start stood in phases 1 to 6 (R519). -/
  tripped : Bool
  /-- Minimal Recovery Mode's window 0: the command that opened it, slot and length, and the bytes it has taken
  (R491, R492); `over` marks bytes beyond the length. -/
  mrmWin : Option (Nat × Nat × Nat)
  mrmData : List Byte
  mrmOver : Bool
  /-- Highest ARRAY clock of each die by the Option Block, in 100 MHz (R482). -/
  clkCap : List Nat
  /-- The governor is armed: phase 12 has run. -/
  armed : Bool
  /-- PWR_BRAKE_N is asserted, with the duty that `PWR_BRAKE` held then (R536, R550). -/
  brake : Option Nat
  gov : SMap Gov
  /-- TRAY_I3C: dynamic address, events enabled, offset, MRM latch, heartbeat sequence, tray cap (R541 to R544). -/
  dynAddr : Option Nat
  events : Bool
  offset : Nat
  mrmLatch : Bool
  /-- Minimal Recovery Mode was left by a reset, and by neither EXIT nor power-on: the next start enters it again (R491). -/
  mrmStays : Bool
  /-- Causes of ALERT_N that the last start found: bit 0 MISMATCH, 1 STRAP_ERR, 2 COOL_FAULT (R545). -/
  startAlerts : BitVec 3
  hbSeq : Nat
  trayCap : Nat
  /-- Option Block fields that a start loaded: SERIAL and PCIECAP. -/
  serial : List Byte
  /-- What phase 6 issued: the Alias public key of each die, and die 0's Alias certificate (R501, R511). -/
  aliasKeys : SMap (List Byte)
  /-- The Alias certificate of each die, which die 0 holds (R501). -/
  aliasCerts : SMap (List Byte)
  /-- `PCIECAP` bounds the link and the functions presented (R482). -/
  pcieCap : Nat
  /-- Dies that are fenced (R482). -/
  fencedDies : BitVec 4
  /-- Job Record marks survive in HBM: the job of the Reset Record can be reloaded (R471). -/
  jobRec : Option (Job × Plan × Place)
  deriving DecidableEq, Repr

def Chip.reset : Chip :=
  { start := .ready, power := true, src := 0, seen := 1, perst := false, resetn := false, therm := false, hbmLost := true, refreshed := false
    stayMem := [], flash := [], otp := .reset, fw := none, token := [], spdm := .reset, tripped := false, mrmWin := none, mrmData := [], mrmOver := false
    clkCap := [30, 30, 30, 30], armed := false, brake := none, gov := [], dynAddr := none, events := true, offset := 0
    mrmLatch := false, mrmStays := false, startAlerts := 0, hbSeq := 0, trayCap := 0, serial := [], aliasKeys := [], aliasCerts := [], pcieCap := 0, fencedDies := 0, jobRec := none }

/-- A frame of the transport that this device sends (R345, R346), and the instruction that waits for its answer: its
core, engine and `SEQ`. -/
structure TxFrame where
  psn : Nat
  typ : Nat
  ops : BitVec 96
  data : List Byte
  notify : Bool
  owner : Option (Nat × Nat × Nat)
  deriving DecidableEq, Repr

/-- A flow: one local die to one die of one peer (R354, R355, R357). -/
structure Flow where
  /-- The peer's incarnation, once recorded. -/
  inc : Option Nat
  next : Nat
  unacked : List TxFrame
  /-- Frames that wait for the window of 256, or for the peer's incarnation. -/
  backlog : List TxFrame
  /-- The PSN expected next from the peer. -/
  expect : Nat
  /-- Rate limit in GB/s, and whether it was halved within the last 10 µs (R354). -/
  rate : Nat
  halved : Bool
  /-- A resend on a gap acknowledgement has been made since the last RTO (R355). -/
  resent : Bool
  /-- Times the expected COLL frame has come with a failing payload CRC (R371). -/
  crcFail : Nat
  deriving DecidableEq, Repr

def Flow.reset : Flow := ⟨none, 0, [], [], 0, 100, false, false, 0⟩

/-- A read that a READ_DATA frame will answer (R346): its tag, flow, PSN, the peer's address, length, and the
instruction. -/
structure PeerRead where
  tag : Nat
  key : Nat
  psn : Nat
  addr : Nat
  len : Nat
  owner : Nat × Nat × Nat
  deriving DecidableEq, Repr

/-- A Direct frame at an output port (R349 to R352). -/
structure LinkFrame where
  lseq : Nat
  vc : Nat
  ttl : Nat
  hdr : BitVec 256
  data : List Byte
  resends : Nat
  /-- The input buffer that a forwarded frame occupies until it leaves: port, virtual channel and credits (R351). -/
  back : Option (Nat × Nat × Nat) := none
  deriving DecidableEq, Repr

/-- A fabric port beside its registers (R349 to R352, R359): link sequence numbers, frames that the far end has not
acknowledged, frames held for credit, credits by virtual channel, and the lane that retrains. -/
structure Port where
  txSeq : Nat
  tx : List LinkFrame
  held : List LinkFrame
  rxSeq : Nat
  credit : SMap Nat
  retrain : Option Nat
  /-- Lanes that software has asked to retrain and that wait for that one (R359). -/
  toRetrain : List Nat
  /-- Lanes in service. -/
  lanes : Nat
  deriving DecidableEq, Repr

def Port.reset : Port := ⟨0, [], [], 0, [], none, [], 15⟩

/-- A block in a Collective Engine's node store or result store (R367 to R371): the die, the collective and its
instance, the node (level and index; for ALLGATHER and ALLTOALL the rank of the piece), the block, and its elements
as pairs, or as bytes for the two operations that move bytes. -/
structure CBlock where
  die : Nat
  cid : Nat
  inst : Nat
  level : Nat
  node : Nat
  block : Nat
  pairs : List (Word × Word)
  bytes : List Byte
  base : Nat
  deriving DecidableEq, Repr

/-- The fabric and the Collective Engines (R342 to R371). -/
structure Fab where
  /-- Flows by local die × 2^20 + peer × 4 + peer's die. -/
  flows : SMap Flow
  ports : SMap Port
  /-- Route Table (R350). -/
  route : SMap Word
  /-- Peers reported lost and not readmitted, with the incarnation that was lost (R361). -/
  lost : List (Nat × Nat)
  /-- Peers whose PEER_UP waits for Moasozil to accept it, with the new incarnation (R357). -/
  up : List (Nat × Nat)
  /-- Current incarnations of peers, as last heard. -/
  incs : SMap Nat
  /-- Notices applied: kind, subject, incarnation, NSEQ (R362). -/
  seen : List (Nat × Nat × Nat × Nat)
  /-- RESTORE and REPLAY notices originated in this incarnation (R347). -/
  nRestore : Nat
  nReplay : Nat
  tag : Nat
  reads : List PeerRead
  /-- Child blocks that wait in the node stores, and result blocks delivered. -/
  nodes : List CBlock
  results : List CBlock
  /-- Instances completed, by die × 4096 + CID (R371). -/
  uses : SMap Nat
  /-- Nodes that CSEND has contributed to instances not yet completed: die × 4096 + CID, instance, level, node. -/
  sent : List (Nat × Nat × Nat × Nat)
  deriving DecidableEq, Repr

def Fab.reset : Fab := ⟨[], [], [], [], [], [], [], 0, 0, 0, [], [], [], [], []⟩


/-- The observations of one step: its partition, whether its boundary has been taken, and entries with their n2, in
ascending entry index (R186, R189). -/
structure NwStep where
  part : Nat
  due : Bool
  obs : List (Nat × Word)
  deriving DecidableEq, Repr

/-- The fields of an Ethernet frame ahead of its Transport Header, with an EtherType of 0x86DD, next header 17 and hop limit 64
(R353): MAC addresses, the PCP of a tag, IPv6 DSCP, ECN, flow label and addresses, and UDP ports. -/
structure EthHead where
  dmac : BitVec 48
  smac : BitVec 48
  pcp : Option Nat
  dscp : Nat
  ecn : Nat
  label : Nat
  src : BitVec 128
  dst : BitVec 128
  sport : Nat
  dport : Nat
  deriving DecidableEq, Repr

/-- What the block has sent to the outside: the data of a read, and whatever else a rule names. -/
inductive OutMsg where
  /-- Data returned by a register read (R7, R555). -/
  | readData (w : Word)
  /-- A mailbox event of a cluster to the Masthead (R276). -/
  | mailbox (c : Nat)
  /-- Halyard's interrupt to the die's Masthead: a flush found no page (R328). -/
  | kvExhausted (c : Nat)
  /-- A Direct frame on a port: virtual channel, TTL, link sequence number, Transport Header and payload data; `stomp`
  marks a copy ended with the inverted CRC (R349, R351). -/
  | direct (port vc ttl lseq : Nat) (hdr : BitVec 256) (data : List Byte) (stomp : Bool)
  /-- A Direct link control frame: CTYPE, LSEQ and ARG (R349). -/
  | control (port ctype lseq arg : Nat)
  /-- An Ethernet frame: port, the fields ahead of the Transport Header, the Transport Header and payload data (R353). -/
  | ether (port : Nat) (head : EthHead) (hdr : BitVec 256) (data : List Byte)
  /-- A write of the device to host memory (R408, R393). -/
  | hostWrite (addr : Nat) (data : List Byte)
  /-- An MSI-X message: function and vector, address and data (R417). -/
  | msix (fn vec : Nat) (addr : DWord) (data : Word)
  /-- Data of a Data Port read (R414). -/
  | winData (data : List Byte)
  /-- A heartbeat of one Masthead to another (R466). -/
  | heartbeat (src dst : Nat)
  /-- An in-band interrupt on TRAY_I3C: mandatory data byte and payload (R543). -/
  | ibi (mdb payload : Nat)
  /-- Bytes of a private read on TRAY_I3C (R542), or the answer to a command code (R541). -/
  | i3c (data : List Byte)
  /-- The tray power-cycles the module (R469). -/
  | powerCycle
  /-- Chunk `c` of an epoch's image, or of the constant pages, goes to the member of a rank: its bytes that are not 0, by their
  offset in the chunk (R430, R433). -/
  | chunk (part : Nat) (epoch : Word) (dst c : Nat) (consts : Bool) (data : Memory)
  /-- Chunk `c` of the image, or of the constant pages, of a lost rank, as its holder rebuilds it (R433, R445). -/
  | rebuilt (part : Nat) (epoch : Word) (lost c : Nat) (consts : Bool) (data : Memory)
  /-- The Masthead is told of a lost peer (R361). -/
  | peerLost (dev : Nat)
  /-- An SPDM response: its name and its data (R510, R511). -/
  | spdm (name : String) (data : List Byte)
  deriving DecidableEq, Repr

/-- The state of the machine. -/
structure State where
  /-- Setup registers that differ from reset, by `Reg.key`. -/
  regs : SMap Word
  /-- The Mastheads' copies of the select registers (R556). -/
  regsM : SMap Word
  /-- Bytes of the device physical map (R282); an unlisted byte reads 0. -/
  mem : Memory
  /-- Bytes of host memory as the device has written them. -/
  hostMem : Memory
  cores : SMap Core
  clusters : SMap Cluster
  dies : SMap Die
  ctrls : SMap Ctrl
  parts : SMap Part
  fab : Fab
  snap : Snap
  recov : Recov
  hif : HostIf
  chip : Chip
  /-- Norm Watch Table, by 8 × entry + word, as it was loaded, and the entries observed since (R187 to R189). -/
  nw : SMap Word
  nwLoaded : SMap Word
  nwSeen : List Nat
  /-- Observations of steps that Telltale has not processed, oldest step first (R189). -/
  nwQ : List NwStep
  /-- Host windows granted, by 16 × partition + window (R416). -/
  hostWins : SMap (Option HostWin)
  /-- Byte ranges that hold narrow weight copies, by the plans in force (R20). -/
  wcopies : List (Nat × Nat)
  /-- Completions logged so far: the model's own, for `LogEntry.order`. -/
  logOrder : Nat
  /-- The model's own counter with which free values are drawn. -/
  fresh : Nat
  /-- What has gone out, newest first. -/
  out : List OutMsg
  /-- Commands that wait, first in first out. -/
  pending : List Instr
  deriving DecidableEq, Repr

/-- A machine fault: none of the block's behaviours stops it; every error the spec describes is a next state. -/
inductive Fault where
  /-- Raised by no meaning; kept so that the type is inhabited. Safe. -/
  | none
  deriving DecidableEq, Repr

/-- A refusal: a command without a meaning. -/
inductive Refusal where
  /-- Raised by `exec` for a command that is not modelled yet. Safe. -/
  | notModelled (mnemonic : String)
  deriving DecidableEq, Repr

/-- Right after power-on reset. -/
def State.reset : State :=
  { regs := [], regsM := [], mem := [], hostMem := [], cores := [], clusters := [], dies := [], ctrls := [], parts := [], fab := .reset
    snap := .reset, recov := .reset, hif := .reset, chip := .reset, nw := [], nwLoaded := [], nwSeen := [], nwQ := [], hostWins := [], wcopies := []
    logOrder := 0, fresh := 0, out := [], pending := [] }

end Sys2Proof.Machine
end

