-- ==== Sys2Proof/Machine/Formats.lean ====
section
/-!
DEFINITION. Number formats: exact values, decoding of every element format, the one rounding of R46, and binary32
arithmetic (02_number_formats.md R29 to R58; 06_vector_accumulation.md R144, R146).
-/

namespace Sys2Proof.Machine

/-- An exact value: a NaN, an infinity of a sign, or (sign) `m` × 2^`e`. A zero keeps its sign. -/
inductive FV where
  | nan
  | inf (s : Bool)
  | fin (s : Bool) (m : Nat) (e : Int)
  deriving DecidableEq, Repr

def FV.zero : FV := .fin false 0 0

/-- Number of bits of a number. -/
def bitLen (m : Nat) : Nat := if m = 0 then 0 else Nat.log2 m + 1

/-- `m` / 2^`k` rounded to nearest, ties to even (R46). -/
def rneShift (m k : Nat) : Nat :=
  if k = 0 then m
  else
    let q := m >>> k
    let r := m % 2 ^ k
    let half := 2 ^ (k - 1)
    if half < r ∨ (r = half ∧ q % 2 = 1) then q + 1 else q

/-- Round `m` × 2^`e` to `w` fraction bits, the unit in the last place no smaller than 2^`lsb`: the rounded
significand and its unit's exponent (R46, exponent range unbounded above). -/
def roundSig (w : Nat) (lsb : Int) (m : Nat) (e : Int) : Nat × Int :=
  let l := max lsb (e + bitLen m - (w + 1))
  if l ≤ e then (m <<< (e - l).toNat, l) else (rneShift m (l - e).toNat, l)

/-- Exponent and fraction fields of a rounded significand; the exponent field may be any number. -/
def packFields (w : Nat) (lsb : Int) (q : Nat) (l : Int) : Nat × Nat :=
  if q < 2 ^ w then (0, q)
  else if q = 2 ^ (w + 1) then ((l + 1 - lsb).toNat + 1, 0)
  else ((l - lsb).toNat + 1, q - 2 ^ w)

/-- Decode a binary format of `eb` exponent and `w` fraction bits with an all-ones exponent for specials (R35). -/
def decodeBin (eb w : Nat) (x : Nat) : FV :=
  let s := decide ((x >>> (eb + w)) % 2 = 1)
  let ef := (x >>> w) % 2 ^ eb
  let f := x % 2 ^ w
  let lsb : Int := 2 - 2 ^ (eb - 1) - w
  if ef = 2 ^ eb - 1 then (if f = 0 then .inf s else .nan)
  else if ef = 0 then .fin s f lsb
  else .fin s (2 ^ w + f) (lsb + (ef - 1 : Nat))

/-- Round into a binary format of `eb` exponent and `w` fraction bits: gradual underflow, overflow to infinity, the
default NaN for a NaN (R36, R37, R46). -/
def encodeBin (eb w : Nat) (v : FV) : Nat :=
  let sign := fun (s : Bool) => if s then 2 ^ (eb + w) else 0
  match v with
  | .nan => (2 ^ eb - 1) * 2 ^ w + 2 ^ (w - 1)
  | .inf s => sign s + (2 ^ eb - 1) * 2 ^ w
  | .fin s m e =>
    let lsb : Int := 2 - 2 ^ (eb - 1) - w
    let (q, l) := roundSig w lsb m e
    let (ef, f) := packFields w lsb q l
    if 2 ^ eb - 1 ≤ ef then sign s + (2 ^ eb - 1) * 2 ^ w else sign s + ef * 2 ^ w + f

def dec32 (x : Word) : FV := decodeBin 8 23 x.toNat
def enc32 (v : FV) : Word := BitVec.ofNat 32 (encodeBin 8 23 v)
def decBf16 (x : Nat) : FV := decodeBin 8 7 x
def encBf16 (v : FV) : Nat := encodeBin 8 7 v
def decFp16 (x : Nat) : FV := decodeBin 5 10 x
def encFp16 (v : FV) : Nat := encodeBin 5 10 v

/-- Is a binary32 pattern a non-zero subnormal? -/
def isSub32 (x : Word) : Bool := decide (bits x 30 23 = 0) && decide (bits x 22 0 ≠ 0)

/-- A subnormal pattern becomes a zero of its sign (R53). -/
def flush32 (x : Word) : Word := if isSub32 x then x &&& 0x80000000#32 else x

def isSubBf16 (x : Nat) : Bool := decide ((x >>> 7) % 256 = 0) && decide (x % 128 ≠ 0)
def flushBf16 (x : Nat) : Nat := if isSubBf16 x then x &&& 0x8000 else x

/-- Is a binary32 pattern an infinity or a NaN? -/
def isNonfinite32 (x : Word) : Bool := decide (bits x 30 23 = 255)
def isNan32 (x : Word) : Bool := decide (bits x 30 23 = 255) && decide (bits x 22 0 ≠ 0)

/-- The default NaN of binary32 (R36). -/
def nan32 : Word := 0x7FC00000#32

/-- E2M1 (R31); the code 0b1000 decodes as +0.0 (R34). -/
def decE2M1 (c : Nat) : FV :=
  let s := decide ((c >>> 3) % 2 = 1)
  let e := (c >>> 1) % 4
  let m := c % 2
  if e = 0 then (if m = 0 then .zero else .fin s 1 (-1)) else .fin s (2 + m) ((e : Int) - 2)

/-- E4M3 (R32, R34). -/
def decE4M3 (c : Nat) : FV :=
  let s := decide ((c >>> 7) % 2 = 1)
  let e := (c >>> 3) % 16
  let m := c % 8
  if e = 15 ∧ m = 7 then .nan
  else if e = 0 then (if m = 0 then .zero else .fin s m (-9))
  else .fin s (8 + m) ((e : Int) - 10)

/-- E5M2 (R33, R34). -/
def decE5M2 (c : Nat) : FV :=
  let s := decide ((c >>> 7) % 2 = 1)
  let e := (c >>> 2) % 32
  let m := c % 4
  if e = 31 then (if m = 0 then .inf s else .nan)
  else if e = 0 then (if m = 0 then .zero else .fin s m (-16))
  else .fin s (4 + m) ((e : Int) - 17)

/-- The value times 2^`k`. -/
def FV.scale (v : FV) (k : Int) : FV :=
  match v with
  | .fin s m e => .fin s m (e + k)
  | v => v

def FV.isFinite : FV → Bool
  | .fin _ _ _ => true
  | _ => false

def FV.isZero : FV → Bool
  | .fin _ m _ => decide (m = 0)
  | _ => false

def FV.sign : FV → Bool
  | .nan => false
  | .inf s => s
  | .fin s _ _ => s

def FV.neg : FV → FV
  | .nan => .nan
  | .inf s => .inf (!s)
  | .fin s m e => .fin (!s) m e

def FV.abs : FV → FV
  | .nan => .nan
  | .inf _ => .inf false
  | .fin _ m e => .fin false m e

/-- Is `m1`×2^`e1` ≤ `m2`×2^`e2`? -/
def magLe (m1 : Nat) (e1 : Int) (m2 : Nat) (e2 : Int) : Bool :=
  let b := min e1 e2
  decide (m1 <<< (e1 - b).toNat ≤ m2 <<< (e2 - b).toNat)

/-- The signed integer `±m` aligned to exponent `b`. -/
def alignInt (s : Bool) (m : Nat) (e b : Int) : Int :=
  let x : Int := (m <<< (e - b).toNat : Nat)
  if s then -x else x

/-- Exact sum; the sign of an exact zero sum is that of round to nearest (R37). -/
def FV.add (a b : FV) : FV :=
  match a, b with
  | .nan, _ => .nan
  | _, .nan => .nan
  | .inf s, .inf t => if s = t then .inf s else .nan
  | .inf s, _ => .inf s
  | _, .inf t => .inf t
  | .fin s m e, .fin t n f =>
    let g := min e f
    let x := alignInt s m e g + alignInt t n f g
    if x = 0 then .fin (s && t) 0 0 else .fin (decide (x < 0)) x.natAbs g

/-- Exact product (R37). -/
def FV.mul (a b : FV) : FV :=
  match a, b with
  | .nan, _ => .nan
  | _, .nan => .nan
  | .inf s, .inf t => .inf (s != t)
  | .inf s, .fin t n _ => if n = 0 then .nan else .inf (s != t)
  | .fin s m _, .inf t => if m = 0 then .nan else .inf (s != t)
  | .fin s m e, .fin t n f => .fin (s != t) (m * n) (e + f)

/-- Order on values for comparison; neither operand a NaN. −0.0 equals +0.0 here. -/
def FV.le (a b : FV) : Bool :=
  match a, b with
  | .nan, _ => false
  | _, .nan => false
  | .inf true, _ => true
  | _, .inf false => true
  | .inf false, _ => false
  | _, .inf true => false
  | .fin s m e, .fin t n f =>
    let g := min e f
    decide (alignInt s m e g ≤ alignInt t n f g)

/-- Square root of a number below 2^(2·`k`), rounded down. -/
def isqrtFrom : Nat → Nat → Nat → Nat
  | 0, _, r => r
  | k + 1, n, r => let t := r + 2 ^ k; if t * t ≤ n then isqrtFrom k n t else isqrtFrom k n r

def isqrt (n : Nat) : Nat := isqrtFrom ((bitLen n + 1) / 2) n 0

/-- An inexact value is held with one more low bit set, so that one later rounding is still exact. -/
def sticky (q : Nat) (exact : Bool) : Nat := 2 * q + (if exact then 0 else 1)

/-- Quotient of two finite values, the divisor not zero, with enough bits for one rounding. -/
def FV.quot (s : Bool) (m : Nat) (e : Int) (n : Nat) (f : Int) : FV :=
  let k := 30 + bitLen n
  let q := (m <<< k) / n
  .fin s (sticky q (decide (q * n = m <<< k))) (e - f - k - 1)

/-- Division (R145, R37). -/
def FV.div (a b : FV) : FV :=
  match a, b with
  | .nan, _ => .nan
  | _, .nan => .nan
  | .inf _, .inf _ => .nan
  | .inf s, .fin t _ _ => .inf (s != t)
  | .fin s _ _, .inf t => .fin (s != t) 0 0
  | .fin s m e, .fin t n f =>
    if n = 0 then (if m = 0 then .nan else .inf (s != t))
    else if m = 0 then .fin (s != t) 0 0
    else FV.quot (s != t) m e n f

/-- Square root (R145). -/
def FV.sqrt : FV → FV
  | .nan => .nan
  | .inf s => if s then .nan else .inf false
  | .fin s m e =>
    if m = 0 then .fin s 0 0
    else if s then .nan
    else
      let k := 60 + (if (e % 2 = 0) then 0 else 1)
      let n := m <<< k
      let r := isqrt n
      .fin false (sticky r (decide (r * r = n))) ((e - k) / 2 - 1)

/-- Reciprocal square root (R145). -/
def FV.rsqrt : FV → FV
  | .nan => .nan
  | .inf s => if s then .nan else .fin false 0 0
  | .fin s m e =>
    if m = 0 then .inf s
    else if s then .nan
    else
      let k := 2 * (30 + bitLen m) + (if (e % 2 = 0) then 0 else 1)
      let y := (2 ^ k) / m
      let r := isqrt y
      .fin false (sticky r (decide (r * r * m = 2 ^ k))) ((-e - k) / 2 - 1)

/-- binary32 operations under gradual underflow, one rounding each (R144, R151). -/
def add32 (a b : Word) : Word := enc32 ((dec32 a).add (dec32 b))
def sub32 (a b : Word) : Word := enc32 ((dec32 a).add (dec32 b).neg)
def mul32 (a b : Word) : Word := enc32 ((dec32 a).mul (dec32 b))
def fma32 (a b c : Word) : Word := enc32 (((dec32 a).mul (dec32 b)).add (dec32 c))
def div32 (a b : Word) : Word := enc32 ((dec32 a).div (dec32 b))
def sqrt32 (a : Word) : Word := enc32 (dec32 a).sqrt

/-- Sign bit cleared or flipped; a NaN operand gives the default NaN (R144). -/
def abs32 (a : Word) : Word := if isNan32 a then nan32 else a &&& 0x7FFFFFFF#32
def neg32 (a : Word) : Word := if isNan32 a then nan32 else a ^^^ 0x80000000#32

/-- The order of R146: −0.0 below +0.0; neither operand a NaN. -/
def lt146 (a b : Word) : Bool :=
  let key := fun (x : Word) => if bit x 31 then -(bits x 30 0 : Int) - 1 else (bits x 30 0 : Int)
  decide (key a < key b)

def min32 (a b : Word) : Word := if isNan32 a || isNan32 b then nan32 else if lt146 b a then b else a
def max32 (a b : Word) : Word := if isNan32 a || isNan32 b then nan32 else if lt146 a b then b else a

/-- `COND` codes of CMP and ICMP (R209): EQ, NE, LT, LE, GT, GE. -/
def condOf (cond : Nat) (lt eq : Bool) : Bool :=
  match cond with
  | 0 => eq
  | 1 => !eq
  | 2 => lt
  | 3 => lt || eq
  | 4 => !lt && !eq
  | _ => !lt

/-- CMP (R146): 0 for a NaN but for "not equal". -/
def cmp32 (cond : Nat) (a b : Word) : Word :=
  if isNan32 a || isNan32 b then (if cond = 1 then 1#32 else 0#32)
  else
    let x := dec32 a
    let y := dec32 b
    if condOf cond (!(y.le x)) (x.le y && y.le x) then 1#32 else 0#32

def icmp32 (cond : Nat) (a b : Word) : Word :=
  if condOf cond (decide (a.toNat < b.toNat)) (decide (a = b)) then 1#32 else 0#32

/-- A compensated pair (s, e) (R151). -/
abbrev Pair := Word × Word

/-- combine, as R151 writes it, with the non-finite cases of R152. -/
def combine (x y : Pair) : Pair :=
  let (a, ea) := x
  let (b, eb) := y
  let s := add32 a b
  if isNonfinite32 s then (s, 0#32)
  else
    let bv := sub32 s a
    let av := sub32 s bv
    let t := add32 (sub32 a av) (sub32 b bv)
    let e := add32 t (add32 ea eb)
    let r := add32 s e
    if isNonfinite32 r then (r, 0#32)
    else (r, sub32 e (sub32 r s))

/-- Grouped element formats: fraction bits, exponent of the smallest step, largest magnitude as `m`×2^`e`. -/
structure Narrow where
  w : Nat
  lsb : Int
  maxM : Nat
  maxE : Int
  deriving DecidableEq, Repr

/-- G4, G8_E4M3 and G8_E5M2 by their `FMT` codes 0, 1 and 2 (R29, R31 to R33). -/
def narrowOf (fmt : Nat) : Narrow :=
  match fmt with
  | 0 => ⟨1, -1, 3, 1⟩
  | 1 => ⟨3, -9, 7, 6⟩
  | _ => ⟨2, -16, 7, 13⟩

/-- Code of the largest magnitude of a narrow format. -/
def narrowMaxCode (fmt : Nat) : Nat :=
  match fmt with
  | 0 => 0x7
  | 1 => 0x7E
  | _ => 0x7B

def narrowSign (fmt : Nat) (s : Bool) : Nat := if s then (if fmt = 0 then 0x8 else 0x80) else 0

/-- One element into a narrow format with the scale already taken out: its code, and whether it saturates
(R46, R47, R48, R34). -/
def encNarrow (fmt : Nat) (v : FV) : Nat × Bool :=
  let n := narrowOf fmt
  match v with
  | .nan => (if fmt = 0 then 0 else if fmt = 1 then 0x7F else 0x7E, false)
  | .inf s =>
    if fmt = 0 then (narrowSign fmt s + 0x7, true)
    else if fmt = 1 then (0x7F, false)
    else (if s then 0xFC else 0x7C, false)
  | .fin s m e =>
    let (q, l) := roundSig n.w n.lsb m e
    if q = 0 then (0, false)
    else if !(magLe q l n.maxM n.maxE) then (narrowSign fmt s + narrowMaxCode fmt, true)
    else
      let (ef, f) := packFields n.w n.lsb q l
      (narrowSign fmt s + ef * 2 ^ n.w + f, false)

/-- Decode a narrow element. -/
def decNarrow (fmt : Nat) (c : Nat) : FV :=
  match fmt with
  | 0 => decE2M1 c
  | 1 => decE4M3 c
  | _ => decE5M2 c

/-- e(M) of R69: the smallest e with L × 2^e ≥ M, for M = `m`×2^`x`, `m` not zero. -/
def eOf (fmt : Nat) (m : Nat) (x : Int) : Int :=
  let k := bitLen m - 1
  let ee : Int := x + k
  match fmt with
  | 0 => if 2 * m ≤ 3 * 2 ^ k then ee - 2 else ee - 1
  | 1 => if 4 * m ≤ 7 * 2 ^ k then ee - 8 else ee - 7
  | _ => if 4 * m ≤ 7 * 2 ^ k then ee - 15 else ee - 14

/-- Decode into binary32 range: a magnitude above the largest finite value is the infinity of its sign (R58). -/
def toFinite32 (v : FV) : FV :=
  match v with
  | .fin s m e => if magLe (2 ^ 24) 104 m e then .inf s else .fin s m e
  | v => v

/-- The larger of two finite magnitudes. -/
def magMax (a b : FV) : FV :=
  match a, b with
  | .fin _ m e, .fin _ n f => if magLe m e n f then .fin false n f else .fin false m e
  | .fin _ m e, _ => .fin false m e
  | _, .fin _ n f => .fin false n f
  | _, _ => .zero

end Sys2Proof.Machine
end

