-- ==== Sys2Proof/Machine/Tile.lean ====
section
/-!
DEFINITION. Tile descriptors and how a tile lies in memory: fields (08 R201), spaces and addresses (08 R202, 11 R282),
LINE, BLOCK and PAIR layouts, groups and Shift planes (02 R40 to R42, 08 R203, 11 R293), and reading and writing
one element.
-/

namespace Sys2Proof.Machine

namespace Tile

/-- Word `i` of a descriptor. -/
def word (d : Desc) (i : Nat) : Nat := bits d (32 * i + 31) (32 * i)

def addr (d : Desc) : Nat := word d 0 + (word d 1 % 2 ^ 16) * 2 ^ 32
def valid (d : Desc) : Bool := bit d 63
def stream (d : Desc) : Bool := bit d 62
def space (d : Desc) : Nat := bits d 61 59
def devid (d : Desc) : Nat := bits d 95 78
def rows (d : Desc) : Nat := bits d 127 112
def cols (d : Desc) : Nat := bits d 111 96
def pitch (d : Desc) : Nat := bits d 159 136
def soff (d : Desc) : Nat := word d 5
def fmt (d : Desc) : Nat := bits d 223 220
def gsize (d : Desc) : Nat := bits d 219 218
def gaxis (d : Desc) : Bool := bit d 217
def layout (d : Desc) : Nat := bits d 216 215
def reefV (d : Desc) : Bool := bit d 214
def reef (d : Desc) : Nat := bits d 213 204
def baseRaw (d : Desc) : Nat := bits d 199 192
def base (d : Desc) : Int := sext 8 (baseRaw d)
def spV (d : Desc) : Bool := bit d 255
def sp (d : Desc) : Nat := bits d 254 247

/-- The descriptor with a new `BASE` (R39). -/
def withBase (d : Desc) (b : Int) : Desc := setBits d 199 192 (wrapN 8 b)

/-- The descriptor of a tile's first `n` rows. -/
def withRows (d : Desc) (n : Nat) : Desc := setBits d 127 112 n

/-- `FMT` codes of R29. -/
def isGrouped (f : Nat) : Bool := decide (f ≤ 2)
def elemBits (f : Nat) : Nat :=
  match f with
  | 0 => 4
  | 1 | 2 | 7 => 8
  | 3 | 4 => 16
  | _ => 32

def isPair (d : Desc) : Bool := decide (layout d = 2)
def isBlock (d : Desc) : Bool := decide (layout d = 1)
def grouped (d : Desc) : Bool := isGrouped (fmt d)
/-- Elements of one group (R30). -/
def gs (d : Desc) : Nat := 32 * 2 ^ gsize d

/-- Storage lines and elements of a line (R201 `GAXIS`, R203). -/
def lines (d : Desc) : Nat := if gaxis d then cols d else rows d
def len (d : Desc) : Nat := if gaxis d then rows d else cols d
def groups (d : Desc) : Nat := ceilDiv (len d) (gs d)
def empty (d : Desc) : Bool := decide (rows d = 0) || decide (cols d = 0)

/-- Bytes of one storage line; a short last group still takes its whole place (R42). -/
def lineBytes (d : Desc) : Nat :=
  if isPair d then 8 * len d
  else if grouped d then groups d * gs d * elemBits (fmt d) / 8
  else len d * elemBits (fmt d) / 8

/-- Address, in the tile's space, of byte `o` of storage line `i` (R203, R293). -/
def byteAddr (d : Desc) (i o : Nat) : Nat :=
  if isBlock d then addr d + i / 16 * pitch d + o / 256 * 4096 + i % 16 * 256 + o % 256
  else addr d + i * pitch d + o

def shiftAddr (d : Desc) : Nat := addr d + soff d
/-- Bytes of the Shift plane (R41). -/
def shiftBytes (d : Desc) : Nat := if grouped d then ceilDiv (lines d * groups d) 2 else 0

/-- Byte ranges of the element data; a BLOCK tile takes every block it touches, whole (R204, R293). -/
def dataRanges (d : Desc) : List (Nat × Nat) :=
  if empty d then []
  else if isBlock d then
    (List.range (ceilDiv (lines d) 16)).flatMap fun p =>
      (List.range (ceilDiv (lineBytes d) 256)).map fun q => (addr d + p * pitch d + q * 4096, 4096)
  else (List.range (lines d)).map fun i => (addr d + i * pitch d, lineBytes d)

/-- Byte ranges of element data and Shift plane. -/
def ranges (d : Desc) : List (Nat × Nat) :=
  if empty d then [] else dataRanges d ++ (if grouped d then [(shiftAddr d, shiftBytes d)] else [])

/-- First address of a range list and the address after its last byte. -/
def hull : List (Nat × Nat) → Option (Nat × Nat)
  | [] => none
  | (a, n) :: rs =>
    match hull rs with
    | none => some (a, a + n)
    | some (lo, hi) => some (min a lo, max (a + n) hi)

def rangesOverlap (xs ys : List (Nat × Nat)) : Bool :=
  match hull xs, hull ys with
  | some (a, b), some (c, e) =>
    if b ≤ c ∨ e ≤ a then false
    else xs.any fun x => ys.any fun y => rangesMeet x.1 x.2 y.1 y.2
  | _, _ => false

end Tile

/-- The HBM of the four dies ends here (R282). -/
def hbmEnd : Nat := 0x009000000000
def dieHbm : Nat := 0x002400000000
def cmemBase (cl : Nat) : Nat := 0x010000000000 + cl * 0x1000000
def spadBase (core : Nat) : Nat := 0x010100000000 + core * 0x200000
def cmemSize : Nat := 0x1000000
def spadSize : Nat := 0x200000

/-- Does `[a, a+n)` lie in the listed regions of R282? The two SRAM regions do not touch HBM or each other. -/
def inMap (a n : Nat) : Bool :=
  decide (a + n ≤ hbmEnd)
  || (decide (0x010000000000 ≤ a) && decide (a + n ≤ 0x010020000000))
  || (decide (0x010100000000 ≤ a) && decide (a + n ≤ 0x010120000000))

/-- Device physical address of address `a` of a space, seen from a core (R202, R282). PEER and HOST addresses are
kept as they are. -/
def phys (core : Nat) (space a : Nat) : Nat :=
  match space with
  | 0 => spadBase core + a
  | 1 => cmemBase (core / 8) + a
  | _ => a

/-- Physical byte ranges of a tile of this device. -/
def Tile.physRanges (core : Nat) (d : Desc) : List (Nat × Nat) :=
  (Tile.ranges d).map fun r => (phys core (Tile.space d) r.1, r.2)

/-- The 256-byte blocks that byte ranges touch. -/
def blocksOf (rs : List (Nat × Nat)) : List Nat :=
  (rs.flatMap fun r => if r.2 = 0 then [] else
    (List.range ((r.1 + r.2 - 1) / 256 - r.1 / 256 + 1)).map fun k => r.1 / 256 + k).eraseDups

namespace Tile

/-- Storage line and position of element (row, column). -/
def linePos (d : Desc) (i j : Nat) : Nat × Nat := if gaxis d then (j, i) else (i, j)

/-- Raw code of the element at position `o` of storage line `i`. -/
def codeAt (m : Memory) (core : Nat) (d : Desc) (i o : Nat) : Nat :=
  let p := fun k => phys core (space d) (byteAddr d i k)
  if isPair d then leNat (m.rdN (p (8 * o)) 4)
  else match elemBits (fmt d) with
    | 4 => ((m.rd (p (o / 2))).toNat >>> (4 * (o % 2))) % 16
    | 8 => (m.rd (p o)).toNat
    | 16 => leNat (m.rdN (p (2 * o)) 2)
    | _ => leNat (m.rdN (p (4 * o)) 4)

/-- Raw code of element (row, column). -/
def code (m : Memory) (core : Nat) (d : Desc) (i j : Nat) : Nat :=
  let (l, o) := linePos d i j
  codeAt m core d l o

/-- The error term of an element of a PAIR tile (R203). -/
def pairE (m : Memory) (core : Nat) (d : Desc) (i j : Nat) : Word :=
  let (l, o) := linePos d i j
  BitVec.ofNat 32 (leNat (m.rdN (phys core (space d) (byteAddr d l (8 * o + 4))) 4))

/-- Shift of group `g` of storage line `l` (R41). -/
def shiftAt (m : Memory) (core : Nat) (d : Desc) (l g : Nat) : Nat :=
  let k := l * groups d + g
  ((m.rd (phys core (space d) (shiftAddr d + k / 2))).toNat >>> (4 * (k % 2))) % 16

/-- Shift of the group of element (row, column). -/
def shiftOf (m : Memory) (core : Nat) (d : Desc) (i j : Nat) : Nat :=
  let (l, o) := linePos d i j
  shiftAt m core d l (o / gs d)

/-- Exact value of an element (R38, R45): a wide subnormal keeps its value here. -/
def value (m : Memory) (core : Nat) (d : Desc) (i j : Nat) : FV :=
  let c := code m core d i j
  match fmt d with
  | 3 => decBf16 c
  | 4 => decFp16 c
  | 5 => dec32 (BitVec.ofNat 32 c)
  | f => (decNarrow f c).scale (base d - shiftOf m core d i j)

/-- Exact value as the arrays and the Convert Engine read it: BF16 and FP32 subnormals are zeros of their sign
(R53). -/
def valueFlushed (m : Memory) (core : Nat) (d : Desc) (i j : Nat) : FV :=
  let c := code m core d i j
  match fmt d with
  | 3 => decBf16 (flushBf16 c)
  | 4 => decFp16 c
  | 5 => dec32 (flush32 (BitVec.ofNat 32 c))
  | f => (decNarrow f c).scale (base d - shiftOf m core d i j)

/-- Write the raw code at position `o` of storage line `i`. -/
def putCodeAt (m : Memory) (core : Nat) (d : Desc) (i o c : Nat) : Memory :=
  let p := fun k => phys core (space d) (byteAddr d i k)
  if isPair d then m.wrN (p (8 * o)) (natLe 4 c)
  else match elemBits (fmt d) with
    | 4 =>
      let a := p (o / 2)
      m.wr a (setBits (m.rd a) (4 * (o % 2) + 3) (4 * (o % 2)) c)
    | 8 => m.wr (p o) (BitVec.ofNat 8 c)
    | 16 => m.wrN (p (2 * o)) (natLe 2 c)
    | _ => m.wrN (p (4 * o)) (natLe 4 c)

def putCode (m : Memory) (core : Nat) (d : Desc) (i j c : Nat) : Memory :=
  let (l, o) := linePos d i j
  putCodeAt m core d l o c

def putPair (m : Memory) (core : Nat) (d : Desc) (i j : Nat) (v : Pair) : Memory :=
  let (l, o) := linePos d i j
  m.wrN (phys core (space d) (byteAddr d l (8 * o))) (natLe 4 v.1.toNat ++ natLe 4 v.2.toNat)

/-- Write one Shift. The other half of the last byte of an odd plane is written 0 (R41). -/
def putShift (m : Memory) (core : Nat) (d : Desc) (l g sh : Nat) : Memory :=
  let k := l * groups d + g
  let a := phys core (space d) (shiftAddr d + k / 2)
  if k % 2 = 0 ∧ k + 1 = lines d * groups d then m.wr a (BitVec.ofNat 8 (sh % 16))
  else m.wr a (setBits (m.rd a) (4 * (k % 2) + 3) (4 * (k % 2)) sh)

end Tile

/-- Run `f` over 0, 1, … `n` − 1. -/
def forN {σ : Type} (n : Nat) (f : σ → Nat → σ) (s : σ) : σ := (List.range n).foldl f s

/-- Run `f` over the rows and columns of a tile. -/
def forTile {σ : Type} (rows cols : Nat) (f : σ → Nat → Nat → σ) (s : σ) : σ :=
  forN rows (fun s i => forN cols (fun s j => f s i j) s) s

end Sys2Proof.Machine
end

