-- ==== Sys2Proof/Machine/Arrays.lean ====
section
/-!
DEFINITION. What the two arrays compute, as functions of memory: every group sum and every addition in the order the
spec fixes, what an error inside the array changes, and the comparisons that find it (04_forward_array.md R98 to R109;
05_backward_array.md R125 to R131, R135).
-/

namespace Sys2Proof.Machine

/-- Twice an E2M1 value, as an integer (R101). -/
def e2m1Twice (c : Nat) : Int :=
  let v : Int :=
    match c % 8 with
    | 0 => 0
    | 1 => 1
    | 2 => 2
    | 3 => 3
    | 4 => 4
    | 5 => 6
    | 6 => 8
    | _ => 12
  if 8 ≤ c then -v else v

/-- A binary32 value in an array: rounded, then a subnormal flushed to a zero of its sign (R53). -/
def encFlush32 (v : FV) : Word := flush32 (enc32 v)

/-- One addition of a Column Accumulator (R105, R128). -/
def accAdd (a b : Word) : Word := flush32 (add32 a b)

/-- An integer multiple of a power of two as binary32; 0 gives +0.0 (R101). -/
def scaledInt (g : Int) (e : Int) : Word :=
  if g = 0 then 0#32 else encFlush32 (.fin (decide (g < 0)) g.natAbs e)

/-- Entry (`i`, `j`) of an I operand, with subnormals read as zero, or +0.0 when I is absent (R105, R128). -/
def initEntry (m : Memory) (core : Nat) (di : Option Desc) (i j : Nat) : Word :=
  match di with
  | none => 0#32
  | some d => flush32 (BitVec.ofNat 32 (Tile.code m core d i j))

/-! Errors inside an array (R108, R130). -/

/-- Bits that flip in element `k` of a stream row, `w` bits wide, with `per` reduction indices in a pass. -/
def streamFlip (fs : List ArrayErr) (w per i k : Nat) : Nat :=
  fs.foldl (fun a f => match f with
    | .parity r p seg fl =>
      if r = i ∧ p = k / per ∧ seg = k % per * w / 64 then a ^^^ ((fl.toNat >>> (k % per * w % 64)) % 2 ^ w) else a
    | _ => a) 0

/-- Errors of a group's sum: factor and power of two. -/
def sumErrs (fs : List ArrayErr) (i j g : Nat) : List (Int × Int) :=
  fs.filterMap fun f => match f with
    | .sum r c h e x => if r = i ∧ c = j ∧ h = g then some (e, x) else none
    | _ => none

/-- What the significand of addition `n` of an entry, or of the product it adds, is off by. -/
def mod3Err (fs : List ArrayErr) (i j n : Nat) (product : Bool) : Int :=
  (fs.map fun f => match f with
    | .mod3 r c k p e => if r = i ∧ c = j ∧ k = n ∧ p = product then e else 0
    | _ => 0).foldl (· + ·) 0

/-- A word whose significand is off. -/
def perturb (w : Word) (e : Int) : Word := if e = 0 then w else BitVec.ofInt 32 (w.toNat + e)

/-- The significand of a binary32 word. -/
def sig32 (w : Word) : Int := bits w 22 0 + (if bits w 30 23 = 0 then 0 else 2 ^ 23)

/-- The additions of an entry in their order (R105, R128), from a value and the addends with their passes. -/
def addAll (fs : List ArrayErr) (i j : Nat) (init : Word) (xs : List (Nat × Word)) : Word :=
  xs.zipIdx.foldl (fun acc x =>
    perturb (accAdd acc (perturb x.1.2 (mod3Err fs i j x.2 true))) (mod3Err fs i j x.2 false)) init

/-- The pass in which a residue modulo 3 finds an error, for the addends of its entry (R108, R130). -/
def mod3Found (xs : List (Nat × Word)) (n : Nat) (e : Int) : Option Nat :=
  match xs[n]? with
  | none => none
  | some x => if (sig32 x.2 + e) % 3 ≠ sig32 x.2 % 3 then some x.1 else none

/-- Even parity over 64 bits finds an odd number of flipped bits. -/
def parityFound (fl : DWord) : Bool := decide (((List.range 64).filter fun k => bit fl k).length % 2 = 1)

/-! The Forward Array. -/

/-- The exact integer G of group `g` for stream row `i` and column `j` (R101). -/
def fmmSum (m : Memory) (core : Nat) (dx dw : Desc) (fs : List ArrayErr) (i j g : Nat) : Int :=
  let lo := g * Tile.gs dx
  let n := min (Tile.gs dx) (Tile.cols dx - lo)
  forN n (fun (s : Int) k =>
    s + e2m1Twice (Tile.code m core dx i (lo + k) ^^^ streamFlip fs 4 64 i (lo + k)) * e2m1Twice (Tile.code m core dw (lo + k) j))
    ((sumErrs fs i j g).foldl (fun s e => s + e.1) 0)

/-- Value of group `g` for stream row `i` and column `j` of a Forward Array instruction (R101). -/
def fmmGroup (m : Memory) (core : Nat) (dx dw : Desc) (fs : List ArrayErr) (i j g : Nat) : Word :=
  let lo := g * Tile.gs dx
  scaledInt (fmmSum m core dx dw fs i j g)
    (Tile.base dx - Tile.shiftOf m core dx i lo + Tile.base dw - Tile.shiftOf m core dw lo j - 2)

/-- The pass in which group `g` completes (R102). -/
def fmmGroupPass (dx : Desc) (g : Nat) : Nat := (min ((g + 1) * Tile.gs dx) (Tile.cols dx) - 1) / 64

/-- The check weight c_k of reduction index `k` (R99, R108). -/
def fmmCheckWeight (m : Memory) (core : Nat) (dw : Desc) (k : Nat) : Int :=
  forN (Tile.cols dw) (fun (s : Int) n =>
    s + e2m1Twice (Tile.code m core dw k n) * 2 ^ (15 - Tile.shiftOf m core dw k n)) 0

/-- C of a stream row and group, as the Check Column forms it (R108). -/
def fmmCheckSum (m : Memory) (core : Nat) (dx dw : Desc) (fs : List ArrayErr) (i g : Nat) : Int :=
  let lo := g * Tile.gs dx
  forN (min (Tile.gs dx) (Tile.cols dx - lo)) (fun (s : Int) k =>
    s + e2m1Twice (Tile.code m core dx i (lo + k) ^^^ streamFlip fs 4 64 i (lo + k)) * fmmCheckWeight m core dw (lo + k)) 0

/-- The reference of a stream row and group, from the group sums of every column (R108). -/
def fmmReference (m : Memory) (core : Nat) (dx dw : Desc) (fs : List ArrayErr) (i g : Nat) : Int :=
  forN (Tile.cols dw) (fun (s : Int) n =>
    s + fmmSum m core dx dw fs i n g * 2 ^ (15 - Tile.shiftOf m core dw (g * Tile.gs dx) n)) 0

/-- Slot `s` of an Outlier Map word: the channel within the block, where the slot is valid (R85). -/
def omapSlot (w : Word) (s : Nat) : Option Nat := if bit w (7 * s + 6) then some (bits w (7 * s + 5) (7 * s)) else none

/-- Product of a band slot (R103). -/
def bandProduct (m : Memory) (core : Nat) (dxb dwb : Desc) (i j row : Nat) : Word :=
  encFlush32 ((Tile.valueFlushed m core dxb i row).mul (Tile.valueFlushed m core dwb row j))

/-- The Outlier Band of an instruction: its two tiles and the map words by block, when `OUT` is 1 (R97). -/
structure Band where
  dxb : Desc
  dwb : Desc
  map : List Word
  deriving DecidableEq, Repr

/-- What an entry adds, with the pass of each addition, in the order of R105. -/
def fmmAddends (m : Memory) (core : Nat) (dx dw : Desc) (band : Option Band) (fs : List ArrayErr) (i j : Nat) :
    List (Nat × Word) :=
  let k := Tile.cols dx
  (List.range (ceilDiv k 64)).flatMap fun p =>
    (((List.range (ceilDiv k (Tile.gs dx))).filter fun g => fmmGroupPass dx g == p).map fun g =>
      (p, fmmGroup m core dx dw fs i j g))
    ++ match band with
      | none => []
      | some b => (List.range 4).filterMap fun s => (omapSlot (b.map.getD p 0#32) s).map fun _ =>
          (p, bandProduct m core b.dxb b.dwb i j (4 * p + s))

/-- Entry (`i`, `j`) of a Forward Array instruction, under errors that no check finds (R105). -/
def fmmEntry (m : Memory) (core : Nat) (dx dw : Desc) (band : Option Band) (di : Option Desc) (fs : List ArrayErr)
    (i j : Nat) : Word :=
  addAll fs i j (initEntry m core di i j) (fmmAddends m core dx dw band fs i j)

/-- The pass in which the Forward Array's checks find an error (R108). -/
def fmmFound (m : Memory) (core : Nat) (dx dw : Desc) (band : Option Band) (fs : List ArrayErr) : ArrayErr → Option Nat
  | .sum i _ g _ _ =>
    if fmmCheckSum m core dx dw fs i g ≠ fmmReference m core dx dw fs i g then some (fmmGroupPass dx g) else none
  | .mod3 i j n _ e => mod3Found (fmmAddends m core dx dw band fs i j) n e
  | .parity _ p _ fl => if parityFound fl then some p else none

/-- What the cells hold in pass `p` of a Forward Array instruction (R99, R100). -/
def fmmCells (m : Memory) (core : Nat) (dx dw : Desc) (band : Option Band) (p : Nat) : Cells :=
  let k := Tile.cols dx
  { weights := SMap.ofFn (0, 0) 8192 fun x =>
      let r := x / 128
      let n := x % 128
      if Tile.cols dw ≤ n then (0, 15)
      else (if 64 * p + r < k then Tile.code m core dw (64 * p + r) n else 0,
        Tile.shiftOf m core dw (min (64 * p + r) (k - 1)) n)
    checkCol := SMap.ofFn 0 64 fun r => if 64 * p + r < k then fmmCheckWeight m core dw (64 * p + r) else 0
    checkRow := []
    band := match band with
      | none => []
      | some b => SMap.ofFn 0 512 fun x => if x % 128 < Tile.cols dw then Tile.code m core b.dwb (4 * p + x / 128) (x % 128) else 0
    map := match band with
      | none => 0#32
      | some b => b.map.getD p 0#32 }

/-- The hold field of an entry: the first part of its last group that spans two passes (R102). -/
def fmmHold (m : Memory) (core : Nat) (dx dw : Desc) (i j : Nat) : BitVec 16 :=
  let k := Tile.cols dx
  let gs := Tile.gs dx
  match ((List.range (ceilDiv k gs)).filter fun g => decide (g * gs / 64 < fmmGroupPass dx g)).getLast? with
  | none => 0
  | some g => BitVec.ofInt 16 (forN 64 (fun (s : Int) x =>
      s + e2m1Twice (Tile.code m core dx i (g * gs + x)) * e2m1Twice (Tile.code m core dw (g * gs + x) j)) 0)

/-! The Backward Array. -/

/-- Exact value of an element of a tile whose code has some bits flipped, subnormals of BF16 as zeros (R53). -/
def flippedValue (m : Memory) (core : Nat) (d : Desc) (i j flip : Nat) : FV :=
  let c := Tile.code m core d i j ^^^ flip
  match Tile.fmt d with
  | 3 => decBf16 (flushBf16 c)
  | 4 => decFp16 c
  | f => (decNarrow f c).scale (Tile.base d - Tile.shiftOf m core d i j)

/-- Element (`i`, `k`) of op_A(A) or (`k`, `j`) of op_B(B) at its exact decoded value (R119, R127). -/
def opElem (m : Memory) (core : Nat) (d : Desc) (t : Bool) (i k : Nat) : FV :=
  if t then Tile.valueFlushed m core d k i else Tile.valueFlushed m core d i k

/-- Element (`i`, `k`) of the stream operand, with the bits that flip on the way to the array. -/
def streamElem (m : Memory) (core : Nat) (d : Desc) (t : Bool) (fs : List ArrayErr) (i k : Nat) : FV :=
  let x := streamFlip fs (Tile.elemBits (Tile.fmt d)) 128 i k
  if x = 0 then opElem m core d t i k
  else if t then flippedValue m core d k i x else flippedValue m core d i k x

def opRows (d : Desc) (t : Bool) : Nat := if t then Tile.cols d else Tile.rows d
def opCols (d : Desc) (t : Bool) : Nat := if t then Tile.rows d else Tile.cols d

/-- Group length of a Backward Array instruction (R126). -/
def bmmGroupLen (da db : Desc) : Nat :=
  if Tile.grouped da then Tile.gs da else if Tile.grouped db then Tile.gs db else 32

/-- An exact sum of zero gives +0.0 (R127). -/
def groupRound (v : FV) : Word := if v.isZero then 0#32 else encFlush32 v

/-- The exact sum of group `g` for stream row `i` and column `j` (R127). -/
def bmmSum (m : Memory) (core : Nat) (da db : Desc) (ta tb : Bool) (fs : List ArrayErr) (i j g : Nat) : FV :=
  let lo := g * bmmGroupLen da db
  let n := min (bmmGroupLen da db) (opCols da ta - lo)
  (sumErrs fs i j g).foldl (fun s e => s.add (.fin (decide (e.1 < 0)) e.1.natAbs e.2))
    (forN n (fun (s : FV) x => s.add ((streamElem m core da ta fs i (lo + x)).mul (opElem m core db tb (lo + x) j))) FV.zero)

/-- What an entry adds, with the pass of each addition, in the order of R128. -/
def bmmAddends (m : Memory) (core : Nat) (da db : Desc) (ta tb : Bool) (fs : List ArrayErr) (i j : Nat) :
    List (Nat × Word) :=
  (List.range (ceilDiv (opCols da ta) (bmmGroupLen da db))).map fun g =>
    (g * bmmGroupLen da db / 128, groupRound (bmmSum m core da db ta tb fs i j g))

/-- Entry (`i`, `j`) of a Backward Array instruction, under errors that no check finds (R127, R128). -/
def bmmEntry (m : Memory) (core : Nat) (da db : Desc) (ta tb : Bool) (di : Option Desc) (fs : List ArrayErr)
    (i j : Nat) : Word :=
  addAll fs i j (initEntry m core di i j) (bmmAddends m core da db ta tb fs i j)

/-! The Backward Array's check residues modulo p = 2^61 − 1 (R130). -/

def p61 : Nat := 2 ^ 61 - 1

/-- The residue of a finite value: scaling by a power of two is a rotation of 61 bits. -/
def residue : FV → Nat
  | .fin s m e => wrapRes (if s then -(m : Int) else m) (e % 61).toNat
  | _ => 0
where
  wrapRes (x : Int) (k : Nat) : Nat := ((x * 2 ^ k) % (p61 : Int)).toNat

/-- The lowest exponent among the finite non-zero values of a line of registers. -/
def lowExp (vs : List FV) : Int :=
  (vs.filterMap fun v => match v with
    | .fin _ m e => if m = 0 then none else some e
    | _ => none).foldl (fun (a : Option Int) e => some (match a with
      | none => e
      | some b => min b e)) none |>.getD 0

/-- The check residue of a line of registers: their significands, aligned to the lowest exponent, summed. -/
def lineResidue (vs : List FV) : Nat :=
  (vs.foldl (fun a v => a + residue (v.scale (-lowExp vs))) 0) % p61

/-- The stored block of pass `p`: register (r, c) holds element (r, c) of B as it is stored (R121). -/
def storedElem (m : Memory) (core : Nat) (db : Desc) (tb : Bool) (p r c : Nat) : FV :=
  let k := 128 * p + (if tb then c else r)
  let n := if tb then r else c
  if k < opRows db tb ∧ n < opCols db tb then opElem m core db tb k n else FV.zero

/-- Check Column entry `r` and Check Row entry `c` of pass `p` (R130). -/
def checkColumn (m : Memory) (core : Nat) (db : Desc) (tb : Bool) (p r : Nat) : Nat :=
  lineResidue ((List.range 128).map fun c => storedElem m core db tb p r c)
def checkRow (m : Memory) (core : Nat) (db : Desc) (tb : Bool) (p c : Nat) : Nat :=
  lineResidue ((List.range 128).map fun r => storedElem m core db tb p r c)

/-- What the check cell of array row `k` of pass `p` takes: Check Column entry k when `TB` is 0, Check Row entry k when it
is 1 (R130), and the exponent it is aligned to. -/
def checkCell (m : Memory) (core : Nat) (db : Desc) (tb : Bool) (p k : Nat) : Nat × Int :=
  if tb then (checkRow m core db tb p k, lowExp ((List.range 128).map fun r => storedElem m core db tb p r k))
  else (checkColumn m core db tb p k, lowExp ((List.range 128).map fun c => storedElem m core db tb p k c))

/-- The residue formed in the check cells for a stream row and group. -/
def bmmCheckSum (m : Memory) (core : Nat) (da db : Desc) (ta tb : Bool) (fs : List ArrayErr) (i g : Nat) : Nat :=
  let lo := g * bmmGroupLen da db
  let n := min (bmmGroupLen da db) (opCols da ta - lo)
  (forN n (fun (s : Nat) x =>
    let c := checkCell m core db tb ((lo + x) / 128) ((lo + x) % 128)
    s + residue ((streamElem m core da ta fs i (lo + x)).scale c.2) * c.1) 0) % p61

/-- The residue of the group sums of every column. -/
def bmmReference (m : Memory) (core : Nat) (da db : Desc) (ta tb : Bool) (fs : List ArrayErr) (i g : Nat) : Nat :=
  (forN (opCols db tb) (fun (s : Nat) n => s + residue (bmmSum m core da db ta tb fs i n g)) 0) % p61

/-- Is every operand of a stream row's group finite? Infinities and NaNs have no residue (log entry 111). -/
def groupFinite (m : Memory) (core : Nat) (da db : Desc) (ta tb : Bool) (i g : Nat) : Bool :=
  let lo := g * bmmGroupLen da db
  (List.range (min (bmmGroupLen da db) (opCols da ta - lo))).all fun x =>
    (opElem m core da ta i (lo + x)).isFinite
    && (List.range (opCols db tb)).all fun n => (opElem m core db tb (lo + x) n).isFinite

/-- The pass in which the Backward Array's checks find an error (R130). -/
def bmmFound (m : Memory) (core : Nat) (da db : Desc) (ta tb : Bool) (fs : List ArrayErr) : ArrayErr → Option Nat
  | .sum i _ g _ _ =>
    if groupFinite m core da db ta tb i g
        && bmmCheckSum m core da db ta tb fs i g != bmmReference m core da db ta tb fs i g then
      some (g * bmmGroupLen da db / 128)
    else none
  | .mod3 i j n _ e => mod3Found (bmmAddends m core da db ta tb fs i j) n e
  | .parity _ p _ fl => if parityFound fl then some p else none

/-- What the registers hold in pass `p` of a Backward Array instruction (R118, R121, R126). -/
def bmmCells (m : Memory) (core : Nat) (db : Desc) (tb : Bool) (p : Nat) : Cells :=
  { weights := SMap.ofFn (0, 0) 16384 fun x =>
      let r := x / 128
      let c := x % 128
      let i := if tb then r else 128 * p + r
      let j := if tb then 128 * p + c else c
      if i < Tile.rows db ∧ j < Tile.cols db then
        (Tile.code m core db i j, if Tile.grouped db then Tile.shiftOf m core db i j else 0)
      else (0, 0)
    checkCol := SMap.ofFn 0 128 fun r => (checkColumn m core db tb p r : Int)
    checkRow := SMap.ofFn 0 128 fun c => (checkRow m core db tb p c : Int)
    band := []
    map := 0 }

/-! Runs. -/

/-- Write the first `rows` rows of Y from an entry function; the flag says that an infinity or NaN was written
(R106, R129). A non-finite value sets it whether a sum gave it or it came through I unchanged (log entry 112). -/
def putEntries (m : Memory) (core : Nat) (dy : Desc) (rows : Nat) (f : Nat → Nat → Word) : Memory × Bool :=
  forTile rows (Tile.cols dy) (fun (s : Memory × Bool) i j =>
    let v := f i j
    (Tile.putCode s.1 core dy i j v.toNat, s.2 || isNonfinite32 v)) (m, false)

/-- What a run of an array did: the memory, whether a non-finite value was written, passes run, detected errors, whether the
array stopped on a persistent error (R109, R131), the rows written, the stream blocks that ran, and the entries of their
output tiles. -/
structure ArrayRun where
  mem : Memory
  nonfinite : Bool
  passes : Nat
  errors : Nat
  persistent : Bool
  rows : Nat
  blocks : List Nat
  entry : Nat → Nat → Word

/-- The failing check of a stream block, if any. -/
def failOf (fs : List CheckFail) (b : Nat) : Option CheckFail := fs.find? fun f => f.block == b

/-- Passes that run for one stream block of `p` passes: those of a failed attempt up to the failing pass, then the
recomputation (R109). -/
def blockPasses (p : Nat) (f : Option CheckFail) : Nat :=
  match f with
  | none => p
  | some c =>
    min (c.pass + 1) p + (match c.again with
      | none => p
      | some q => min (q + 1) p)

def isPersistent (f : Option CheckFail) : Bool :=
  match f with
  | some c => c.again.isSome
  | none => false

/-- The stream blocks that run: all, or those up to the first persistent failure (R109). -/
def blocksRun (fs : List CheckFail) : List Nat → List Nat
  | [] => []
  | b :: bs => if isPersistent (failOf fs b) then [b] else b :: blocksRun fs bs

/-- Errors that strike one attempt at a stream block. -/
def attempt (fs : List ArrayFault) (b : Nat) (again : Bool) : List ArrayErr :=
  (fs.filter fun f => f.block == b && f.again == again).map (·.err)

/-- The first pass in which a check finds one of some errors. -/
def failPass (found : List ArrayErr → ArrayErr → Option Nat) (es : List ArrayErr) : Option Nat := (es.filterMap (found es)).min?

/-- The failing check of a stream block: the pass it is found in, and that of a recomputation that fails too (R109). -/
def checkFail (found : List ArrayErr → ArrayErr → Option Nat) (fs : List ArrayFault) (b : Nat) : Option CheckFail :=
  (failPass found (attempt fs b false)).map fun p => ⟨b, p, failPass found (attempt fs b true)⟩

/-- Run an instruction of M rows and `p` passes a block under some errors (R98, R109, R125, R131). Rows of a block whose
recomputation fails, and of every later block, are not written. -/
def runArray (m : Memory) (core : Nat) (dy : Desc) (p : Nat) (faults : List ArrayFault)
    (found : List ArrayErr → ArrayErr → Option Nat) (f : List ArrayErr → Nat → Nat → Word) : ArrayRun :=
  let nb := ceilDiv (Tile.rows dy) 256
  let fs := if p = 0 then [] else (List.range nb).filterMap (checkFail found faults)
  let entry := fun i j => f (if p = 0 then [] else attempt faults (i / 256) (failOf fs (i / 256)).isSome) i j
  let run := blocksRun fs (List.range nb)
  let pers := run.any fun b => isPersistent (failOf fs b)
  let good := if pers then run.length - 1 else nb
  let rows := min (Tile.rows dy) (256 * good)
  let (m, nf) := putEntries m core dy rows entry
  { mem := m
    nonfinite := nf
    passes := (run.map fun b => blockPasses p (failOf fs b)).sum
    errors := (run.map fun b => match failOf fs b with
      | none => 0
      | some c => if c.again.isSome then 2 else 1).sum
    persistent := pers
    rows := rows
    blocks := run
    entry := entry }

/-- Entries of an output tile of some rows and columns stand in a bank; the others hold what they held. -/
def AccBank.put (b : AccBank) (rows cols : Nat) (f : Nat → Nat → Word × BitVec 16) : AccBank :=
  SMap.ofFn (0#32, 0#16) 32768 fun x =>
    if x / 128 < rows ∧ x % 128 < cols then f (x / 128) (x % 128) else SMap.get (0#32, 0#16) b x

/-- The registers of an array after a run of `p` passes a block: the cells of the last pass, which the shadow registers were
loaded with too, and the banks of the stream blocks in turn; a tile whose recomputation failed is discarded, and its bank holds
what it held (R98, R99, R109, R125; log entry 113). -/
def ArrayRegs.after (r : ArrayRegs) (dy : Desc) (p : Nat) (cells : Nat → Cells) (check : Nat → SMap Int) (run : ArrayRun)
    (hold : Nat → Nat → BitVec 16) : ArrayRegs :=
  if Tile.empty dy then r
  else
    let r := if p = 0 then r else { r with active := cells (p - 1), shadow := cells (p - 1), check := check (p - 1) }
    run.blocks.zipIdx.foldl (fun r b =>
      let bank := fun (old : AccBank) => if run.persistent && b.2 + 1 == run.blocks.length then old
        else old.put (min 256 (Tile.rows dy - 256 * b.1)) (Tile.cols dy) fun i j =>
          (run.entry (256 * b.1 + i) j, hold (256 * b.1 + i) j)
      if r.second then { r with bank1 := bank r.bank1, second := false } else { r with bank0 := bank r.bank0, second := true }) r

end Sys2Proof.Machine
end

