-- ==== Sys2Proof/Machine/MoveOps.lean ====
section
/-!
DEFINITION. What the Gather and Move Engines do to data, as functions of memory: gathers, expert routing, copies and
Furl (08 R217, R218, R220; 11 R283, R304 to R306).
-/

namespace Sys2Proof.Machine

/-- Cut byte ranges into pieces of at most `n` bytes, in ascending order (R299). -/
def cutRanges (n : Nat) (rs : List (Nat × Nat)) : List (Nat × Nat) :=
  rs.flatMap fun r => (List.range (ceilDiv r.2 n)).map fun k => (r.1 + n * k, min n (r.2 - n * k))

namespace Tile

/-- Byte ranges of a tile's element data without what a BLOCK tile leaves unread (R293). -/
def pieces (d : Desc) : List (Nat × Nat) :=
  if empty d then []
  else (List.range (lines d)).flatMap fun i =>
    if isBlock d then
      (List.range (ceilDiv (lineBytes d) 256)).map fun q => (byteAddr d i (256 * q), min 256 (lineBytes d - 256 * q))
    else [(byteAddr d i 0, lineBytes d)]

/-- Those of element data and Shift plane. -/
def exact (d : Desc) : List (Nat × Nat) :=
  pieces d ++ (if grouped d && !empty d then [(shiftAddr d, shiftBytes d)] else [])

end Tile

/-- Copy a tile from a source image to a destination image: elements, pairs and Shifts unchanged (R220). Padding
places of groups go with their groups. -/
def copyTile (ms md : Memory) (core : Nat) (ds dd : Desc) : Memory :=
  if Tile.empty ds then md
  else if Tile.grouped ds then
    let md := forTile (Tile.lines ds) (Tile.groups ds * Tile.gs ds) (fun m l o =>
      Tile.putCodeAt m core dd l o (Tile.codeAt ms core ds l o)) md
    forTile (Tile.lines ds) (Tile.groups ds) (fun m l g =>
      Tile.putShift m core dd l g (Tile.shiftAt ms core ds l g)) md
  else
    forTile (Tile.rows ds) (Tile.cols ds) (fun m i j =>
      if Tile.isPair ds then
        Tile.putPair m core dd i j (BitVec.ofNat 32 (Tile.code ms core ds i j), Tile.pairE ms core ds i j)
      else Tile.putCode m core dd i j (Tile.code ms core ds i j)) md

/-- One row of a gather: row `r` of TBL into row `i` of D, or padding (R217). -/
def gatherRow (ms md : Memory) (core : Nat) (dt dd : Desc) (i : Nat) (r : Option Nat) : Memory :=
  let n := if Tile.grouped dd then Tile.groups dd * Tile.gs dd else Tile.cols dd
  let md := forN n (fun m o =>
    Tile.putCodeAt m core dd i o (match r with
      | some k => Tile.codeAt ms core dt k o
      | none => 0)) md
  if Tile.grouped dd then
    forN (Tile.groups dd) (fun m g =>
      Tile.putShift m core dd i g (match r with
        | some k => Tile.shiftAt ms core dt k g
        | none => 15)) md
  else md

/-- Does row `k` of a table lie wholly outside reserved addresses (R283)? -/
def rowInMap (core : Nat) (dt : Desc) (k : Nat) : Bool :=
  (List.range (Tile.lineBytes dt)).all fun o => inMap (phys core (Tile.space dt) (Tile.byteAddr dt k o)) 1

/-- GATHER: the memory, and whether an index was out of range (R217, R283). -/
def runGather (m : Memory) (core : Nat) (di dt dd : Desc) : Memory × Bool :=
  forN (Tile.rows di) (fun (s : Memory × Bool) i =>
    let x := Tile.code m core di i 0
    if x = 0xFFFFFFFF then (gatherRow m s.1 core dt dd i none, s.2)
    else if x < Tile.rows dt && rowInMap core dt x then (gatherRow m s.1 core dt dd i (some x), s.2)
    else (gatherRow m s.1 core dt dd i none, true)) (m, false)

/-- The choices of EID in position order (R218). -/
def eidList (m : Memory) (core : Nat) (de : Desc) : List Nat :=
  (List.range (Tile.rows de)).flatMap fun i => (List.range (Tile.cols de)).map fun j => Tile.code m core de i j

/-- ROUTE: LIST and CNT, and whether a value was out of range (R218). -/
def runRoute (m : Memory) (core : Nat) (de dl dc : Desc) (nexp : Nat) : Memory × Bool :=
  let es := (eidList m core de).zipIdx
  let placed := (List.range nexp).flatMap fun e => (es.filter fun x => x.1 == e).map (·.2)
  let m1 := placed.zipIdx.foldl (fun mm x => Tile.putCode mm core dl x.2 0 x.1) m
  let m2 := forN nexp (fun mm e => Tile.putCode mm core dc e 0 (es.filter fun x => x.1 == e).length) m1
  (m2, es.any fun x => decide (nexp ≤ x.1) && x.1 != 0xFFFFFFFF)

/-- The bytes of a BYTE tile in tile order. -/
def byteAt (m : Memory) (core : Nat) (d : Desc) (k : Nat) : Byte :=
  BitVec.ofNat 8 (Tile.codeAt m core d (k / Tile.len d) (k % Tile.len d))

def putBytes (m : Memory) (core : Nat) (d : Desc) (k : Nat) : List Byte → Memory
  | [] => m
  | b :: bs => putBytes (Tile.putCodeAt m core d (k / Tile.len d) (k % Tile.len d) b.toNat) core d (k + 1) bs

/-- Element data of a grouped tile line by line, each group with its whole place (R304, R305). -/
def elementStream (m : Memory) (core : Nat) (d : Desc) : List Byte :=
  (List.range (Tile.lines d)).flatMap fun l =>
    (List.range (Tile.groups d * Tile.gs d)).map fun o => BitVec.ofNat 8 (Tile.codeAt m core d l o)

def isZeroCode (b : Byte) : Bool := b == 0#8 || b == 0x80#8

/-- The bitmap of a sparse chunk, bit j of the stream for element j. -/
def bitmapOf : List Byte → Nat → Nat
  | [], _ => 0
  | b :: bs, j => (if isZeroCode b then 0 else 2 ^ j) + bitmapOf bs (j + 1)

/-- The shortest encoding of one chunk; a tie goes to raw (R305). -/
def furlChunk (c : List Byte) : List Byte :=
  let m := c.length
  let nz := c.filter fun b => !isZeroCode b
  let n := nz.length
  let sparse := 2 + ceilDiv m 8 + n
  if n = 0 ∧ 2 < m then [0x80#8, 0x00#8]
  else if n ≠ 0 ∧ sparse < m then [0x80#8, 0x01#8] ++ natLe (ceilDiv m 8) (bitmapOf c 0) ++ nz
  else c.map fun b => if b == 0x80#8 then 0#8 else b

/-- Cut a list into pieces of `n`. -/
def chunksOf (n : Nat) (xs : List Byte) : List (List Byte) :=
  (List.range (ceilDiv xs.length n)).map fun k => (xs.drop (n * k)).take n

/-- Byte `k` of a Shift plane: with an odd number of groups, bits 7 to 4 of the last byte are 0 (R41). -/
def planeByte (d : Desc) (k : Nat) (b : Byte) : Byte :=
  if (Tile.lines d * Tile.groups d) % 2 = 1 ∧ k + 1 = Tile.shiftBytes d then b &&& 0x0F#8 else b

/-- Bytes of a Shift plane (R41). -/
def shiftPlane (m : Memory) (core : Nat) (d : Desc) : List Byte :=
  (List.range (Tile.shiftBytes d)).map fun k => planeByte d k (m.rd (phys core (Tile.space d) (Tile.shiftAddr d + k)))

/-- The 16-byte header of a Furl tile (R304). -/
def furlHeader (d : Desc) (slen : Nat) : List Byte :=
  [0x01#8, BitVec.ofNat 8 (Tile.fmt d * 16 + Tile.gsize d * 4 + (if Tile.gaxis d then 2 else 0)),
   BitVec.ofNat 8 (Tile.baseRaw d), 0#8]
  ++ natLe 2 (Tile.rows d) ++ natLe 2 (Tile.cols d) ++ natLe 4 slen ++ natLe 4 0

/-- The whole Furl tile of a G8 tile (R304, R305). -/
def furlBytes (m : Memory) (core : Nat) (d : Desc) : List Byte :=
  let s := (chunksOf 256 (elementStream m core d)).flatMap furlChunk
  furlHeader d s.length ++ s ++ shiftPlane m core d

/-- Expand a sparse chunk of `m` elements from its bitmap and data. -/
def expandSparse (bm : Nat) : Nat → List Byte → Option (List Byte × List Byte)
  | 0, xs => some ([], xs)
  | m + 1, xs =>
    if bm % 2 = 1 then
      match xs with
      | [] => none
      | x :: r => (expandSparse (bm / 2) m r).map fun y => (x :: y.1, y.2)
    else (expandSparse (bm / 2) m xs).map fun y => (0#8 :: y.1, y.2)

/-- Decode one chunk of `m` elements (R305); none on the errors of R306. -/
def unfurlChunk (m : Nat) (xs : List Byte) : Option (List Byte × List Byte) :=
  match xs with
  | [] => none
  | h :: t =>
    if h == 0x80#8 then
      match t with
      | [] => none
      | k :: r =>
        if k == 0#8 then some (List.replicate m 0#8, r)
        else if k == 1#8 then
          if r.length < ceilDiv m 8 then none
          else expandSparse (leNat (r.take (ceilDiv m 8))) m (r.drop (ceilDiv m 8))
        else none
    else if xs.length < m then none
    else some ((xs.take m).map fun b => if b == 0x80#8 then 0#8 else b, xs.drop m)

/-- Decode a chunk stream of `total` elements; it must end exactly (R306). `fuel` is the number of chunks. -/
def unfurlStream : Nat → Nat → List Byte → Option (List Byte)
  | 0, total, xs => if total = 0 ∧ xs = [] then some [] else none
  | fuel + 1, total, xs =>
    if total = 0 then (if xs = [] then some [] else none)
    else match unfurlChunk (min 256 total) xs with
      | none => none
      | some (c, r) => (unfurlStream fuel (total - min 256 total) r).map fun y => c ++ y

/-- Header fields of a Furl tile: VER, FMT, GSIZE, GAXIS, BASE, ROWS, COLS, SLEN (R304). -/
def furlField (h : List Byte) (k : Nat) : Nat :=
  let b := fun i => (h.getD i 0#8).toNat
  match k with
  | 0 => b 0
  | 1 => b 1 / 16
  | 2 => b 1 / 4 % 4
  | 3 => b 1 / 2 % 2
  | 4 => b 2
  | 5 => b 4 + 256 * b 5
  | 6 => b 6 + 256 * b 7
  | _ => leNat ((h.drop 8).take 4)

/-- Write decoded elements and the Shift plane of an expanded tile (R304, R306). -/
def putUnfurled (m : Memory) (core : Nat) (d : Desc) (els plane : List Byte) : Memory :=
  let w := Tile.groups d * Tile.gs d
  let m := (els.zipIdx).foldl (fun mm x => Tile.putCodeAt mm core d (x.2 / w) (x.2 % w) x.1.toNat) m
  (plane.zipIdx).foldl (fun mm x => mm.wr (phys core (Tile.space d) (Tile.shiftAddr d + x.2)) (planeByte d x.2 x.1)) m

end Sys2Proof.Machine
end

