-- ==== Sys2Proof/Machine/Ops.lean ====
section
/-!
DEFINITION. The named operations over State: parts of the machine, registers, the one path every write to memory takes
(11 R297, R302, R315; 16 R432, R442), Telltale posts, event records, tokens, holds and the Chanters' event bits.
-/

namespace Sys2Proof.Machine

/-- No epoch (R434). -/
def noEpoch : Word := 0xFFFFFFFF#32

namespace State

/-! Parts of the machine. -/

def core (s : State) (i : Nat) : Core := SMap.get Core.reset s.cores i
def setCore (s : State) (i : Nat) (c : Core) : State := { s with cores := SMap.set Core.reset s.cores i c }
def modCore (s : State) (i : Nat) (f : Core → Core) : State := s.setCore i (f (s.core i))
def cluster (s : State) (c : Nat) : Cluster := SMap.get Cluster.reset s.clusters c
def setCluster (s : State) (c : Nat) (x : Cluster) : State :=
  { s with clusters := SMap.set Cluster.reset s.clusters c x }
def modCluster (s : State) (c : Nat) (f : Cluster → Cluster) : State := s.setCluster c (f (s.cluster c))
def die (s : State) (d : Nat) : Die := SMap.get Die.reset s.dies d
def setDie (s : State) (d : Nat) (x : Die) : State := { s with dies := SMap.set Die.reset s.dies d x }
def modDie (s : State) (d : Nat) (f : Die → Die) : State := s.setDie d (f (s.die d))
def chn (s : State) (c : Nat) : Chanter := (s.cluster c).chn
def setChn (s : State) (c : Nat) (x : Chanter) : State := s.modCluster c fun y => { y with chn := x }
def modChn (s : State) (c : Nat) (f : Chanter → Chanter) : State := s.setChn c (f (s.chn c))
def kv (s : State) (c : Nat) : Halyard := (s.cluster c).kv
def setKv (s : State) (c : Nat) (x : Halyard) : State := s.modCluster c fun y => { y with kv := x }
def part (s : State) (p : Nat) : Part := SMap.get Part.reset s.parts p
def setPart (s : State) (p : Nat) (x : Part) : State := { s with parts := SMap.set Part.reset s.parts p x }
def modPart (s : State) (p : Nat) (f : Part → Part) : State := s.setPart p (f (s.part p))
def modKv (s : State) (c : Nat) (f : Halyard → Halyard) : State := s.setKv c (f (s.kv c))

/-! Registers. -/

/-- The stored value of instance `i` of a register. -/
def rd (s : State) (r : Reg) (i : Nat) : Word := SMap.get (r.resetAt i) s.regs (r.key i)
def wr (s : State) (r : Reg) (i : Nat) (v : Word) : State :=
  { s with regs := SMap.set (r.resetAt i) s.regs (r.key i) v }
/-- A field of a register, bits `hi` to `lo`. -/
def fld (s : State) (r : Reg) (i hi lo : Nat) : Nat := bits (s.rd r i) hi lo
def setFld (s : State) (r : Reg) (i hi lo v : Nat) : State := s.wr r i (setBits (s.rd r i) hi lo v)
/-- A status bit. -/
def flag (s : State) (r : Reg) (i b : Nat) : Bool := bit (s.rd r i) b
/-- The device sets a status bit. -/
def setFlag (s : State) (r : Reg) (i b : Nat) : State := s.wr r i (setBit (s.rd r i) b)
def clrFlag (s : State) (r : Reg) (i b : Nat) : State := s.setFld r i b b 0
/-- A 32-bit saturating counter rises by `n`. -/
def countSat (s : State) (r : Reg) (i n : Nat) : State := s.wr r i (BitVec.ofNat 32 (satAdd 32 (s.rd r i).toNat n))
/-- A 32-bit wrapping counter rises by `n`. -/
def countWrap (s : State) (r : Reg) (i n : Nat) : State := s.wr r i (s.rd r i + BitVec.ofNat 32 n)

/-! Where things are (R12). -/

end State

/-- The die whose memory holds an address of the device map (R282). -/
def addrDie (a : Nat) : Nat :=
  if a < hbmEnd then a / dieHbm
  else if a < 0x010100000000 then (a - 0x010000000000) / 0x1000000 / 8 % 4
  else (a - 0x010100000000) / 0x200000 / 64 % 4

def dieOfCore (core : Nat) : Nat := core / 64
def clOfCore (core : Nat) : Nat := core / 8
def dieOfCl (c : Nat) : Nat := c / 8

def Status.num (x : Status) : Nat := x.ctorIdx

/-- The order of R226, the earliest first; VERSION_MISMATCH, which only a refusal gives, ranks ahead. -/
def Status.rank : Status → Nat
  | .versionMismatch => 0
  | .authFail => 0
  | .slotBusy => 0
  | .faultAddress => 1
  | .hangReset => 2
  | .deadlock => 3
  | .timeout => 4
  | .peerLost => 5
  | .pageExhausted => 6
  | .restored => 7
  | .recomputed => 8
  | .stale => 9
  | .saturated => 10
  | .vanished => 11
  | .skippedStep => 12
  | .ok => 13

/-- The status of an instruction that met several (R226). -/
def worst (xs : List Status) : Status := xs.foldl (fun a b => if b.rank < a.rank then b else a) .ok

/-- The `MASK` of an event record (R227). -/
def statusMask (xs : List Status) : Nat := xs.eraseDups.foldl (fun a x => a + 2 ^ x.num) 0

namespace State

/-- `FAB_DEVID.DEVID`: this device's ID (R246). -/
def devId (s : State) : Nat := s.fld .FAB_DEVID 0 17 0

/-- The partition a cluster belongs to (R394). -/
def partOf (s : State) (c : Nat) : Nat :=
  ((List.range 8).find? fun p => bit (s.rd .PLC_PART_CLUSTERS p) c).getD 0

/-- Step number of the job of a cluster's partition. -/
def stepOf (s : State) (c : Nat) : Word := s.rd .PLC_STEP (s.partOf c)

/-- A context runs while `CHN_CTRL.RUN` is 1 (R272). -/
def running (s : State) (c : Nat) : Bool := s.flag .CHN_CTRL c 0

/-- State of a partition's job (R379). -/
def jobState (s : State) (p : Nat) : Nat := s.fld .PLC_JOB_STATE p 3 0

/-- Steps run in RUNNING and STOPPING (R379). -/
def stepping (s : State) (p : Nat) : Bool := s.jobState p == 4 || s.jobState p == 7

/-- Clusters of a die. -/
def dieMask (d : Nat) : Word := BitVec.ofNat 32 (0xFF * 2 ^ (8 * d))

/-- Clusters leave the healthy-cluster mask; jobs that run on them are to be planned again after a forced epoch (R450).
-/
def drainClusters (s : State) (m : Word) : State :=
  let s := { s with recov := { s.recov with drained := s.recov.drained ||| m } }
  (List.range 8).foldl (fun s p =>
    if s.stepping p ∧ s.rd .PLC_PART_CLUSTERS p &&& m ≠ 0 then s.modPart p fun x => { x with drainDue := true } else s) s

/-! Telltale. -/

/-- Post an event to a die's Telltale (R423). -/
def post (s : State) (d : Nat) (code : TCode) (subject value : Word) : State :=
  s.modDie d fun x => { x with events := x.events ++ [⟨code, subject, value, []⟩] }

/-- Post an event that carries more than its log record holds (R182, R188). -/
def postMore (s : State) (d : Nat) (code : TCode) (subject value : Word) (more : List Word) : State :=
  s.modDie d fun x => { x with events := x.events ++ [⟨code, subject, value, more⟩] }

/-! The path of every write to memory. -/

/-- The Table Region of a cluster, when Halyard has one: first address and address after the last (R314). -/
def tableRegion (s : State) (c : Nat) : Option (Nat × Nat) :=
  let size := (s.rd .KVP_TABLE_SIZE c).toNat * 4096
  let base := s.fld .KVP_TABLE_LO c 31 12 * 4096 + s.fld .KVP_TABLE_HI c 15 0 * 2 ^ 32
  if size = 0 then none else some (base, base + size)

/-- The bytes of `old` in `[lo, hi)` and those of `new` elsewhere. -/
def spliceRegion (lo hi : Nat) (old new : Memory) : Memory :=
  (new.filter fun x => decide (x.1 < lo)) ++ (old.filter fun x => decide (lo ≤ x.1) && decide (x.1 < hi))
    ++ (new.filter fun x => decide (hi ≤ x.1))

/-- Clusters whose Table Region a write of some byte ranges reaches (R315). -/
def rawHits (s : State) (rs : List (Nat × Nat)) : List Nat :=
  (List.range 32).filter fun c => match s.tableRegion c with
    | none => false
    | some (lo, hi) => rs.any fun r => rangesMeet r.1 r.2 lo (hi - lo)

/-- Keep the Table Regions as they were in `old` (R315). -/
def guardTables (s : State) (old m : Memory) : List Nat → Memory
  | [] => m
  | c :: cs => match s.tableRegion c with
    | none => s.guardTables old m cs
    | some (lo, hi) => s.guardTables old (spliceRegion lo hi old m) cs

/-- A write of some ranges makes `m` of `old`, but what it would write into Table Regions: it is not performed there, and each
region it reaches reports it (R315). The flag says that it reached one. -/
def keepTables (s : State) (old m : Memory) (rs : List (Nat × Nat)) : State × Memory × Bool :=
  let hits := s.rawHits rs
  (hits.foldl (fun t c => t.setFlag .KVP_STATUS c 29) s, if hits = [] then m else s.guardTables old m hits, hits ≠ [])

end State

/-- Map over the entries of a sparse map whose unlisted entries the function leaves as they are. -/
def SMap.mapVals {α : Type} [DecidableEq α] (d : α) (f : Nat → α → α) (m : SMap α) : SMap α :=
  let r : SMap α := m.map fun x => (x.1, f x.1 x.2)
  r.filter fun x => decide (SMap.get d r x.1 ≠ d)

/-- Do two lists of blocks meet? -/
def meets (xs ys : List Nat) : Bool := xs.any fun x => ys.contains x

/-- How many leading entries leave a log: up to the last entry marked to leave before which every entry has completed
(R442). -/
def leaveCount : List LogEntry → Nat
  | [] => 0
  | e :: es => if e.done then
      let n := leaveCount es
      if n ≠ 0 then n + 1 else if e.drop then 1 else 0
    else 0

def trimLog (l : List LogEntry) : List LogEntry := l.drop (leaveCount l)

/-- What a write of some blocks does to a log: an entry that read one leaves once it can, or loses its replay while
it has not completed (R442). -/
def logWrite (bs : List Nat) (l : List LogEntry) : List LogEntry :=
  trimLog (l.map fun e => if meets e.blocksIn bs then
    (if e.done then { e with drop := true } else { e with noReplay := true }) else e)

/-- Source Watch against a write of some blocks: the ranges it meets are marked and their tokens become STALE
(R302, R237). -/
def watchWrite (bs : List Nat) (c : Core) : Core :=
  c.watch.foldl (fun c x =>
    let w := x.2
    if w.armed && meets w.blocks bs then
      let k := 32 * w.eng + w.tok
      { c with watch := SMap.set WRange.reset c.watch x.1 { w with seen := true }
               tok := SMap.set Tok.reset c.tok k { SMap.get Tok.reset c.tok k with stale := true } }
    else c) c

/-- Data Cache lines of written blocks go invalid, and a miss that is outstanding to one is not to be installed (R297,
R298). -/
def cacheWrite (bs : List Nat) (c : Core) : Core :=
  { c with
    dcache := c.dcache.filter fun x => match x.2 with
      | some b => !bs.contains b
      | none => false
    miss := c.miss.map fun x => if bs.contains x.1 then (x.1, true) else x }

/-- What a write of some blocks does to one core. -/
def coreWrite (bs : List Nat) (c : Core) : Core :=
  let c := watchWrite bs (cacheWrite bs c)
  { c with q := SMap.mapVals EngQ.reset (fun _ q => { q with log := logWrite bs q.log }) c.q }

namespace State

/-- First address of the Replay Log of an engine of a core (R440). -/
def logBase (s : State) (core eng : Nat) : Nat :=
  cmemBase (clOfCore core) + s.fld .RES_LOG_CTRL 0 11 0 * 4096
    + (core % 8 * 6 + eng) * 2 ^ s.fld .RES_LOG_CTRL 0 19 16 * 64

/-- Address of the entry of an instruction in its log: the entries are used in turn. -/
def logAddr (s : State) (core eng seq : Nat) : Nat :=
  s.logBase core eng + seq % 2 ^ s.fld .RES_LOG_CTRL 0 19 16 * 64

end State

/-- Word 6 of a log entry (R440). -/
def LogEntry.word6 (e : LogEntry) : Word :=
  BitVec.ofNat 32 ((if e.done then 2 ^ 31 else 0) + (if e.noReplay then 2 ^ 30 else 0)
    + (if e.done then e.status.num else 0))

namespace State

/-- The words 6 of the entries whose `NOREPLAY` a write of some blocks sets, as addresses and values (R442). -/
def noReplayWords (s : State) (bs : List Nat) : List (Nat × Word) :=
  s.cores.flatMap fun c => c.2.q.flatMap fun q =>
    (q.2.log.filter fun e => !e.done && meets e.blocksIn bs).map fun e =>
      (s.logAddr c.1 q.1 e.seq + 24, { e with noReplay := true }.word6)

/-- Bytes of a snapshot state page (R429). -/
def pageBytes : Nat := 65536

/-- Where a state page of the epoch in progress lies in its Snapshot Slot: pages in rising order (R430, R431). -/
def slotPage (s : State) (pg : Nat) : Nat :=
  let x := s.part s.snap.part
  let base := match x.plan with
    | none => 0
    | some p => if s.snap.slot then p.slot1 else p.slot0
  base + pageBytes * x.pages.idxOf pg

/-- Protected pages that a write meets are first copied into the slot from the contents before it, and lose their
protection; the write is held for a time the spec leaves open (R432; log entry 84). Also the ranges the copies write. -/
def firstTouch (s : State) (m : Memory) (rs : List (Nat × Nat)) : State × Memory × List (Nat × Nat) :=
  let hit := s.snap.prot.filter fun pg => rs.any fun r => rangesMeet r.1 r.2 (pageBytes * pg) pageBytes
  if hit = [] then (s, m, [])
  else
    let ts := hit.map fun pg => (s.slotPage pg, pageBytes)
    let g := s.keepTables m (hit.foldl (fun m pg => m.copyInto s.mem (pageBytes * pg) (s.slotPage pg) pageBytes) m) ts
    let s := { g.1 with
      snap := { g.1.snap with prot := g.1.snap.prot.filter fun pg => !hit.contains pg, refused := g.1.snap.refused || g.2.2 }
      fresh := g.1.fresh + 1 }
    ((s.countSat .RES_TOUCH_COUNT 0 hit.length).countSat .RES_TOUCH_STALL 0 (Config.freeWord (s.fresh - 1)).toNat, g.2.1, ts)

/-- A new memory in which some byte ranges were written: the written blocks, the Snapshot Engine's and the Replay Logs' among
them, are compared with Data Caches, Source Watch ranges and Replay Logs (R297, R302, R442). -/
def applyMem (s : State) (m : Memory) (rs : List (Nat × Nat)) : State :=
  let f := s.firstTouch m rs
  let s := f.1
  let ws := s.noReplayWords (blocksOf (rs ++ f.2.2))
  let bs := blocksOf (rs ++ f.2.2 ++ ws.map fun x => (x.1, 4))
  let m := ws.foldl (fun m x => m.wr32 x.1 x.2) f.2.1
  { s with mem := m, cores := SMap.mapVals Core.reset (fun _ c => coreWrite bs c) s.cores }

/-- Every write to memory but Halyard's own ends here: Table Regions are kept as they were. The flag says that a write
reached one (R315). -/
def commitMem (s : State) (m : Memory) (rs : List (Nat × Nat)) : State × Bool :=
  let g := s.keepTables s.mem m rs
  (g.1.applyMem g.2.1 rs, g.2.2)

/-- A write for the epoch in progress: one that reaches a Table Region marks it, for its end with `FAULT_ADDRESS` (R315). -/
def snapCommit (s : State) (m : Memory) (rs : List (Nat × Nat)) : State :=
  let g := s.commitMem m rs
  { g.1 with snap := { g.1.snap with refused := g.1.snap.refused || g.2 } }

/-- A write of some bytes by the device. -/
def store (s : State) (a : Nat) (bs : List Byte) : State := (s.commitMem (s.mem.wrN a bs) [(a, bs.length)]).1

/-- Bytes of a Boundary Record area, at most (R461). -/
def recordBytes : Nat := 4224 * 1024

/-- A record of the Masthead in HBM takes the place of what `[base, base + len)` held. -/
def putArea (s : State) (base len : Nat) (x : Memory) : State :=
  (s.commitMem (spliceRegion base (base + len) x s.mem) [(base, len)]).1

/-- Does `[base, base + len)` hold a record as it was written, so that its device CRC is good (R285, R461)? -/
def areaHolds (s : State) (base len : Nat) (x : Memory) : Bool :=
  let here := fun (y : Nat × Byte) => decide (base ≤ y.1) && decide (y.1 < base + len)
  s.mem.filter here == x.filter here

/-! Event records (R227, R275). -/

/-- The eight words of an event record. -/
def eventWords (s : State) (core : Nat) (w : TWord) (refused : Bool) (stream : Bool) (met : List Status)
    (seq : Word) : List Word :=
  let st := worst met
  let w0 := st.num * 2 ^ 24 + bits w 119 117 * 2 ^ 21 + bits w 127 120 * 2 ^ 13 + core * 2 ^ 5 + (if refused then 16 else 0)
  let w1 := statusMask met * 2 ^ 16 + (if stream then 2 ^ 15 else 0)
  [BitVec.ofNat 32 w0, BitVec.ofNat 32 w1, seq, s.stepOf (clOfCore core),
   BitVec.ofNat 32 (bits w 31 0), BitVec.ofNat 32 (bits w 63 32), BitVec.ofNat 32 (bits w 95 64),
   BitVec.ofNat 32 (bits w 127 96)]

/-- Append a record to a cluster's Event Ring, or count it lost (R275); a written record raises EVR (R273). -/
def putEvent (s : State) (c : Nat) (ws : List Word) : State :=
  let log2n := s.fld .CHN_EVR_CTRL c 4 0
  let head := s.fld .CHN_EVR_HEAD c 15 0
  let off := s.fld .CHN_EVR_BASE c 23 5 * 32 + head * 32
  let next := (head + 1) % 2 ^ log2n
  if log2n = 0 ∨ next = s.fld .CHN_EVR_TAIL c 15 0 % 2 ^ log2n ∨ cmemSize < off + 32 then
    (s.countSat .CHN_EVR_LOST c 1).setFlag .CHN_STATUS c 29
  else
    let s := s.store (cmemBase c + off) (ws.flatMap fun w => natLe 4 w.toNat)
    (s.setFld .CHN_EVR_HEAD c 15 0 next).modChn c fun x => { x with mip := setBit x.mip 16 }

/-! Tokens (R231 to R238). -/

def tok (s : State) (core eng id : Nat) : Tok := SMap.get Tok.reset (s.core core).tok (32 * eng + id)
def modTok (s : State) (core eng id : Nat) (f : Tok → Tok) : State :=
  s.modCore core fun c => { c with tok := SMap.set Tok.reset c.tok (32 * eng + id) (f (SMap.get Tok.reset c.tok (32 * eng + id))) }

/-- The queue of an engine of a core. -/
def q (s : State) (core eng : Nat) : EngQ := SMap.get EngQ.reset (s.core core).q eng
def setQ (s : State) (core eng : Nat) (x : EngQ) : State :=
  s.modCore core fun c => { c with q := SMap.set EngQ.reset c.q eng x }
def modQ (s : State) (core eng : Nat) (f : EngQ → EngQ) : State := s.setQ core eng (f (s.q core eng))

/-- Consume one post of a token and disarm its oldest Source Watch binding (R234, R301). -/
def consumeTok (s : State) (core eng id : Nat) : State :=
  let s := s.modTok core eng id fun t => { t with count := t.count - 1, srcs := t.srcs.drop 1 }
  let ws := (s.core core).watch.filter fun x => x.2.armed && x.2.eng == eng && x.2.tok == id
  match ws.foldl (fun (a : Option (Nat × WRange)) x => match a with
      | none => some x
      | some y => if x.2.order < y.2.order then some x else some y) none with
  | none => s
  | some (k, _) => s.modCore core fun c => { c with watch := SMap.set WRange.reset c.watch k WRange.reset }

/-- Make a post of the logged instruction `src` (R440): `COUNT` rises, or at 15 the post is not performed (R233,
R236). The flag says that it was refused. -/
def postTok (s : State) (core eng id : Nat) (src : Word) : State × Bool :=
  let t := s.tok core eng id
  if 15 ≤ t.count then
    ((s.modTok core eng id fun t => { t with pend := t.pend - 1 }).setFlag .SHR_STATUS (clOfCore core) 27, true)
  else (s.modTok core eng id fun t => { t with pend := t.pend - 1, count := t.count + 1, srcs := t.srcs ++ [src] }, false)

/-! Context-level holds. -/

/-- A context-level fault of a core: none of its queues issues until the context is handled (R224, R460). The first
fault's cause stands. -/
def holdCore (s : State) (core : Nat) (cause eng : Nat) (st : Status) : State :=
  s.modCore core fun c => match c.hold with
    | some _ => c
    | none => { c with hold := some ⟨cause, eng, st⟩ }

/-- Cause code of a context-level fault by the status that brought it (R458). -/
def causeOf : Status → Nat
  | .timeout => 0x09
  | .peerLost => 0x0A
  | _ => 0x08

/-! HBM stacks and persistent errors (R284, R308). -/

/-- Interleave unit of a die (R284, R309). -/
def ilvUnit (s : State) (d : Nat) : Nat := if s.flag .MEM_CTRL (6 * d) 0 then 2 ^ 21 else 4096

/-- The stack of an HBM address, and the address within it (R284). -/
def stackOf (s : State) (a : Nat) : Nat × Nat :=
  let d := a / dieHbm
  let u := s.ilvUnit d
  let o := a % dieHbm
  (6 * d + o / u % 6, o / u / 6 * u + o % u)

/-! Stay registers and the state of the epoch in progress (R434, R435, R486). -/

def stay (s : State) (die k : Nat) : Word := SMap.get 0 (s.die die).stay k
/-- The bits of a Stay register that no rule reserves: Stay 0 reserves 18 to 8 (R487). -/
def stayMask (k : Nat) : Word := if k = 0 then 0xFFF800FF#32 else 0xFFFFFFFF#32
def setStay (s : State) (die k : Nat) (v : Word) : State :=
  s.modDie die fun d => { d with stay := SMap.set 0 d.stay k (v &&& stayMask k) }

/-- A register of the epoch record or the Reset Record is written on die 0 and then on die 2 (R434, R465). -/
def setEpochReg (s : State) (k : Nat) (v : Word) : State := (s.setStay 0 k v).setStay 2 k v

/-- The die whose copy of those registers is read: die 0 while it is readable, die 2 otherwise; a fenced die is not (R434; log
entry 134). -/
def recordDie (s : State) : Nat := if s.chip.fencedDies.getLsbD 0 then 2 else 0
/-- A register of the epoch record or the Reset Record as it is read. -/
def record (s : State) (k : Nat) : Word := s.stay s.recordDie k

def epochState (s : State) : Nat := s.fld .RES_SNAP_STATUS 0 2 0
def setEpochState (s : State) (k : Nat) : State := s.setFld .RES_SNAP_STATUS 0 2 0 k

/-- Does an address lie in a snapshot state page (R308)? -/
def inStatePage (s : State) (a : Nat) : Bool := s.parts.any fun p => p.2.pages.contains (a / 65536)

/-- The controller that reports an address: that of its stack, or of its die's first stack when it is not HBM. -/
def reporter (s : State) (a : Nat) : Nat := if a < hbmEnd then (s.stackOf a).1 else 6 * addrDie a

/-- An epoch in progress is discarded (R435); Stay 10 keeps what was prepared, for R436 to settle. A drain that asked for it still
asks (R437). -/
def discardEpoch (s : State) (st : Status) : State :=
  if s.epochState = 0 then s
  else
    let s := { s with snap := { s.snap with prot := [] } }.modPart s.snap.part fun x => { x with
      drainDue := x.drainDue || x.drainEp, drainEp := false }
    ((s.setEpochState 0).setFlag .RES_SNAP_STATUS 0 30).post 0 .epochDiscarded s.snap.epoch (BitVec.ofNat 32 st.num)

/-- A persistent detection at an address: recorded and posted (R308); in a page that is protected it discards the epoch in
progress (R437). -/
def memPersistent (s : State) (a : Nat) : State :=
  let s := if s.snap.prot.contains (a / 65536) then s.discardEpoch .restored else s
  let k := s.reporter a
  let st := if s.inStatePage a then 2 ^ 31 else 0
  let s := (s.setFlag .MEM_STATUS k 30).wr .MEM_ERR_ADDR k (BitVec.ofNat 32 a)
  let s := s.wr .MEM_ERR_ADDR_HI k (BitVec.ofNat 32 (st + a / 2 ^ 32 % 2 ^ 16))
  let s := { s with snap := { s.snap with bad := s.snap.bad ++ [a] } }
  s.post (addrDie a) .memPersistent (BitVec.ofNat 32 a) (BitVec.ofNat 32 (st + a / 2 ^ 32 % 2 ^ 16))

/-- Something goes out. -/
def emit (s : State) (o : OutMsg) : State := { s with out := o :: s.out }

/-- Draw a free value. -/
def drawWord (s : State) : State × Word := ({ s with fresh := s.fresh + 1 }, Config.freeWord s.fresh)

/-! A dispatch that the Chanter holds. -/

/-- Hold cycles count (R263, R276, R280). -/
def countHold (s : State) (c n : Nat) : State :=
  (s.countSat .CHN_HOLD_COUNT c n).modChn c fun h => { h with tholdcnt := h.tholdcnt + BitVec.ofNat 64 n }

/-- A halt ends a hold, whose cycles until then count; how many they were is open (R263, R272; log entry 119). -/
def endHold (s : State) (c : Nat) : State :=
  if (s.chn c).held.isSome then
    let r := s.drawWord
    r.1.countHold c r.2.toNat
  else s

end State

end Sys2Proof.Machine
end

