-- ==== Sys2Proof/Machine/Checks.lean ====
section
/-!
DEFINITION. The tensor instruction word and its issue checks: fields, opcode map, reserved bits, operand roles, and the
five orders of R223 with the checks each names (08 R192 to R223; 02 R57; 04 R96, R97; 05 R119, R120, R123; 11 R283,
R293, R296, R301, R306; 12 R315, R323, R326; 13 R364).
-/

namespace Sys2Proof.Machine

namespace TW

def opcode (w : TWord) : Nat := bits w 127 120
def engine (w : TWord) : Nat := bits w 119 117
def coreMask (w : TWord) : Nat := bits w 116 109
def waitA (w : TWord) : Option Nat := if bit w 108 then some (bits w 107 103) else none
def waitB (w : TWord) : Option Nat := if bit w 102 then some (bits w 101 97) else none
def post (w : TWord) : Option Nat := if bit w 96 then some (bits w 95 91) else none
def check (w : TWord) : Bool := bit w 90
def commit (w : TWord) : Bool := bit w 89
def last (w : TWord) : Bool := bit w 88
def pcons (w : TWord) : Nat := bits w 87 85

/-- The distinct tokens an instruction waits on (R196, R234). -/
def waits (w : TWord) : List Nat :=
  match waitA w, waitB w with
  | some a, some b => if a = b then [a] else [a, b]
  | some a, none => [a]
  | none, some b => [b]
  | none, none => []

/-- The engine an opcode belongs to (R206): none for a reserved opcode, 6 for any engine. -/
def opEngine (op : Nat) : Option Nat :=
  if op ≤ 0x05 then some 6
  else if op = 0x10 then some 0
  else if op = 0x20 then some 1
  else if (0x30 ≤ op ∧ op ≤ 0x3A) ∨ (0x40 ≤ op ∧ op ≤ 0x4A) ∨ (0x50 ≤ op ∧ op ≤ 0x52) ∨ (0x58 ≤ op ∧ op ≤ 0x61)
      ∨ op = 0x68 ∨ (0x6A ≤ op ∧ op ≤ 0x6C) then some 2
  else if 0x70 ≤ op ∧ op ≤ 0x72 then some 3
  else if op = 0x80 ∨ op = 0x82 ∨ op = 0x83 then some 4
  else if op = 0x90 ∨ op = 0x91 ∨ (0x94 ≤ op ∧ op ≤ 0x99 ∧ op ≠ 0x95) then some 5
  else none

def isElementwise (op : Nat) : Bool := decide (0x30 ≤ op ∧ op ≤ 0x61)
def isUnary (op : Nat) : Bool :=
  decide (op ∈ [0x38, 0x39, 0x3A, 0x40, 0x41, 0x42, 0x43, 0x44, 0x45, 0x46, 0x48, 0x49, 0x4A, 0x51, 0x52])
def bmode (w : TWord) : Nat := bits w 52 51
def cond (w : TWord) : Nat := bits w 50 48
def imm (w : TWord) : Nat := bits w 31 0

/-- Order 1 of R223. -/
def opcodeOk (w : TWord) : Bool :=
  match opEngine (opcode w) with
  | none => false
  | some e => decide (engine w ≤ 5) && (e == 6 || e == engine w)

/-- Are bits `hi` to `lo` all 0? -/
def zero (w : TWord) (hi lo : Nat) : Bool := bits w hi lo == 0

/-- Operand bits of an opcode that must be 0 and codes that are reserved (R193, R207 to R221). -/
def operandsOk (w : TWord) : Bool :=
  let op := opcode w
  if op = 0x00 ∨ op = 0x04 ∨ op = 0x05 then zero w 84 0
  else if op ≤ 0x03 then
    bits w 84 83 != 3 && (bits w 84 83 == 2 || zero w 72 53) && (op == 1 || !bit w 52) && zero w 51 32
  else if op = 0x10 then
    (bit w 36 || zero w 52 45) && (bit w 35 || zero w 68 53) && zero w 34 0
  else if op = 0x20 then (bit w 52 || zero w 68 61) && zero w 49 0
  else if op = 0x68 then zero w 84 53 && bmode w == 3 && zero w 50 32 && zero w 31 1
  else if isElementwise op then
    (if op = 0x35 ∨ op = 0x5C then decide (cond w ≤ 5) else cond w == 0)
    && zero w 47 32
    && (if isUnary op ∨ bmode w = 3 then zero w 68 61 else true)
    && (if op = 0x36 ∨ op = 0x37 then true else zero w 60 53)
    && (bmode w == 3 || zero w 31 0)
  else if op = 0x6A then zero w 44 0
  else if op = 0x6B then zero w 68 61 && zero w 44 0
  else if op = 0x6C then zero w 68 0
  else if op = 0x70 then zero w 68 0
  else if op = 0x71 then zero w 60 0
  else if op = 0x72 then zero w 33 0
  else if op = 0x80 then zero w 60 0
  else if op = 0x83 then zero w 49 0
  else if op = 0x82 then zero w 20 0
  else if op = 0x90 then zero w 55 0
  else if op = 0x91 then zero w 62 0
  else if op = 0x94 then zero w 42 0
  else if op = 0x96 ∨ op = 0x97 then zero w 68 0
  else zero w 41 0

/-- Order 2 of R223. -/
def reservedOk (w : TWord) : Bool :=
  (if bit w 96 then decide (pcons w ≤ 5) else pcons w == 0)
  && (!check w || decide (0x70 ≤ opcode w ∧ opcode w ≤ 0x72)) && operandsOk w

/-- Descriptor indices an instruction reads through. -/
def ins (w : TWord) : List Nat :=
  let op := opcode w
  let f := fun hi => bits w hi (hi - 7)
  if op = 0x10 then [f 84, f 76] ++ (if bit w 35 then [f 68, f 60] else []) ++ (if bit w 36 then [f 52] else [])
  else if op = 0x20 then [f 84, f 76] ++ (if bit w 52 then [f 68] else [])
  else if isElementwise op then
    [f 76] ++ (if isUnary op ∨ bmode w = 3 then [] else [f 68]) ++ (if op = 0x36 ∨ op = 0x37 then [f 60] else [])
  else if op = 0x6A then [f 84, f 76, f 68, f 60, f 52]
  else if op = 0x6B then [f 84, f 76, f 60, f 52]
  else if op = 0x6C then [f 84, f 76]
  else if 0x70 ≤ op ∧ op ≤ 0x72 then [f 84]
  else if op = 0x80 then [f 84, f 76]
  else if op = 0x83 then [f 84]
  else if op = 0x90 ∨ op = 0x91 ∨ op = 0x94 ∨ op = 0x96 ∨ op = 0x97 ∨ op = 0x98 then [f 84]
  else []

/-- Descriptor indices an instruction writes through. -/
def outs (w : TWord) : List Nat :=
  let op := opcode w
  let f := fun hi => bits w hi (hi - 7)
  if op = 0x10 then [f 44]
  else if op = 0x20 then [f 60]
  else if isElementwise op then [f 84]
  else if op = 0x6A then [f 84, f 76, f 68]
  else if op = 0x6B then [f 84, f 76]
  else if op = 0x6C then [f 84]
  else if op = 0x70 ∨ op = 0x90 ∨ op = 0x91 ∨ op = 0x96 ∨ op = 0x97 then [f 76]
  else if op = 0x71 ∨ op = 0x72 then [f 76, f 68]
  else if op = 0x80 then [f 68]
  else if op = 0x83 then [f 76, f 68]
  else if op = 0x82 ∨ op = 0x99 then [f 84]
  else []

end TW

namespace State

/-- Descriptor `i` of a core. -/
def desc (s : State) (core i : Nat) : Desc := SMap.get (0 : Desc) (s.core core).desc i
def setDesc (s : State) (core i : Nat) (d : Desc) : State :=
  s.modCore core fun c => { c with desc := SMap.set 0 c.desc i d }

/-- Has a logged instruction of a core issued with a descriptor (R441)? -/
def loggedDesc (s : State) (core i : Nat) : Bool :=
  (s.core core).q.any fun q => q.2.log.any fun e => (TW.ins e.word ++ TW.outs e.word).contains i

/-- Records of the Descriptor Journal that some log entry of the core is older than (R441). -/
def liveJournal (s : State) (core : Nat) : List JRec :=
  let c := s.core core
  c.journal.filter fun r => c.q.any fun q => q.2.log.any fun e => decide (e.dver < r.dver)

/-- The Descriptor Journal has no free record for contents that it would have to keep (R441). -/
def journalFull (s : State) (core i : Nat) : Bool := s.loggedDesc core i && decide (256 ≤ (s.liveJournal core).length)

/-- A write to the Descriptor Table: the version rises, and contents that a logged instruction issued with go into the
journal under it, which holds 256 records (R441; log entry 136 for a write that finds no free one and is performed). -/
def writeDesc (s : State) (core i : Nat) (d : Desc) : State :=
  let v := (s.core core).dver + 1
  let j := s.liveJournal core ++ (if s.loggedDesc core i && !s.journalFull core i then [⟨i, v, s.desc core i⟩] else [])
  (s.setDesc core i d).modCore core fun c => { c with dver := v, journal := j }

/-- Descriptor `i` as of a version (R441, R443). -/
def descAt (s : State) (core v i : Nat) : Desc :=
  match (s.core core).journal.find? fun r => r.entry == i && decide (v < r.dver) with
  | some r => r.old
  | none => s.desc core i

/-- The bits of a word of a Reef Table entry that R62 does not reserve. -/
def reefMask (k : Nat) : Word :=
  if k ≤ 23 then 0xFFFFFFFF#32 else if k = 24 then 0x000FFFFF#32 else if k = 25 then 0x00FFFFFF#32 else 0#32

/-- Word `k` of Reef Table entry `e` of a cluster (R62). Reserved bits take no value (R8). -/
def reefW (s : State) (c e k : Nat) : Word := SMap.get 0 (s.cluster c).reef (32 * e + k)
def setReefW (s : State) (c e k : Nat) (v : Word) : State :=
  s.modCluster c fun x => { x with reef := SMap.set 0 x.reef (32 * e + k) (v &&& reefMask k) }

/-- Fields of word 21 of an entry. -/
def reefValid (s : State) (c e : Nat) : Bool := bit (s.reefW c e 21) 31
def reefFmt (s : State) (c e : Nat) : Nat := bits (s.reefW c e 21) 25 24
def reefOut (s : State) (c e : Nat) : Bool := bit (s.reefW c e 21) 27

/-- Word `k` of entry `cid` of a die's Collective Table (R364). -/
def colW (s : State) (d cid k : Nat) : Word :=
  s.mem.rd32 (s.fld .COL_TABLE_LO d 31 0 + s.fld .COL_TABLE_HI d 15 0 * 2 ^ 32 + 32 * cid + 4 * k)

end State

/-- The descriptor bits that must be 0: those R201 reserves, `DEVID` outside PEER, and `SOFF` of a format that is not grouped
(R193, R201, R228; log entry 107). -/
def descReservedOk (d : Desc) : Bool :=
  bits d 58 48 == 0 && bits d 77 64 == 0 && bits d 135 128 == 0 && bits d 203 200 == 0 && bits d 246 224 == 0
  && (Tile.space d == 3 || Tile.devid d == 0) && (Tile.grouped d || Tile.soff d == 0)

/-- Order 3 of R223: R57 and the parts of R204 that give VERSION_MISMATCH. -/
def descCodesOk (d : Desc) : Bool :=
  Tile.valid d && decide (Tile.space d ≤ 4) && decide (Tile.layout d ≤ 2) && decide (Tile.fmt d ≤ 7)
  && decide (Tile.gsize d ≤ 2) && (Tile.grouped d || (Tile.gsize d == 0 && Tile.baseRaw d == 0))

/-- Same location, shape and format (R124). Every field that says where elements lie must be equal, also one that, in a tile of a
single line, moves none (log entry 108). -/
def coincide (a b : Desc) : Bool :=
  Tile.addr a == Tile.addr b && Tile.space a == Tile.space b && Tile.devid a == Tile.devid b
  && Tile.rows a == Tile.rows b && Tile.cols a == Tile.cols b && Tile.pitch a == Tile.pitch b
  && Tile.fmt a == Tile.fmt b && Tile.gsize a == Tile.gsize b && Tile.gaxis a == Tile.gaxis b
  && Tile.layout a == Tile.layout b && (!Tile.grouped a || Tile.soff a == Tile.soff b)

/-- Do two tiles of one space overlap (R204)? -/
def tilesOverlap (a b : Desc) : Bool :=
  Tile.space a == Tile.space b && (Tile.space a != 3 || Tile.devid a == Tile.devid b)
  && Tile.rangesOverlap (Tile.ranges a) (Tile.ranges b)

/-- Scratchpad banks a tile touches (R15, R291). -/
def banksOf (d : Desc) : List Nat :=
  if Tile.space d = 0 then
    ((Tile.ranges d).flatMap fun r => if r.2 = 0 then [] else
      (List.range ((r.1 + r.2 - 1) / 65536 - r.1 / 65536 + 1)).map fun k => r.1 / 65536 + k).eraseDups
  else []

/-- Host window of a HOST-space address, and the offset in it (R416). -/
def hostWinOf (a : Nat) : Nat × Nat := (a / 2 ^ 44 % 16, a % 2 ^ 44)

namespace State

def hostWin (s : State) (part win : Nat) : Option HostWin := SMap.get none s.hostWins (16 * part + win)

/-- Does a byte range of HOST space lie in a granted window that allows the direction (R416)? -/
def hostRangeOk (s : State) (part : Nat) (write : Bool) (a n : Nat) : Bool :=
  let (w, o) := hostWinOf a
  match s.hostWin part w with
  | none => false
  | some h => decide (o + n ≤ h.len) && (if write then h.wr else h.rd)

/-- A tile's layout fits its format and its extent lies inside its space (R202, R204, R283, R293). -/
def extentOk (s : State) (core : Nat) (write : Bool) (d : Desc) : Bool :=
  (!Tile.isPair d || Tile.fmt d == 5) && (!Tile.isBlock d || (Tile.addr d % 4096 == 0 && Tile.pitch d % 4096 == 0))
  && (Tile.ranges d).all fun r =>
    match Tile.space d with
    | 0 => decide (r.1 + r.2 ≤ spadSize)
    | 1 => decide (r.1 + r.2 ≤ cmemSize)
    | 2 => inMap r.1 r.2
    | 3 => inMap r.1 r.2
    | _ => s.hostRangeOk (s.partOf (clOfCore core)) write r.1 r.2

/-- A DEV range that an engine other than the Move Engine may reach: HBM of its die and Cluster Memory of its die
(R294, R295, R296). -/
def ownDieRange (core : Nat) (a n : Nat) : Bool :=
  let d := dieOfCore core
  (decide (d * dieHbm ≤ a) && decide (a + n ≤ (d + 1) * dieHbm))
  || (decide (cmemBase (8 * d) ≤ a) && decide (a + n ≤ cmemBase (8 * d + 8)))

/-- A DEV range that the Move Engine may reach: no Scratchpad of another die (R294). -/
def moveRange (core : Nat) (a n : Nat) : Bool :=
  let d := dieOfCore core
  decide (a < spadBase 0) || (decide (spadBase (64 * d) ≤ a) && decide (a + n ≤ spadBase (64 * d + 64)))

/-- Spaces an engine may name (R294, R296). -/
def spaceOk (core eng : Nat) (d : Desc) : Bool :=
  if eng = 5 then Tile.space d != 2 || (Tile.ranges d).all fun r => moveRange core r.1 r.2
  else match Tile.space d with
    | 0 => true
    | 1 => true
    | 2 => (Tile.ranges d).all fun r => ownDieRange core r.1 r.2
    | _ => false

/-- The stream of an instruction: that of its first descriptor (R223). -/
def streamOf (s : State) (core : Nat) (w : TWord) : Option Bool :=
  ((TW.ins w ++ TW.outs w).head?).map fun i => Tile.stream (s.desc core i)

/-- Does the Outlier Band of an FMM work: W names an entry with `OUT` 1 (R97)? -/
def bandOn (s : State) (core : Nat) (w : TWord) : Bool :=
  let wt := s.desc core (bits w 76 69)
  Tile.reefV wt && s.reefOut (clOfCore core) (Tile.reef wt)

/-- The descriptor indices an instruction reads through and that its checks hold to more than their own bits: an FMM whose band
idles ignores XB and WB, though it names them (R97, R207). -/
def usedIns (s : State) (core : Nat) (w : TWord) : List Nat :=
  if TW.opcode w = 0x10 ∧ !s.bandOn core w then
    [bits w 84 77, bits w 76 69] ++ (if bit w 36 then [bits w 52 45] else [])
  else TW.ins w

/-- Order 4 of R223. -/
def order4Ok (s : State) (core eng : Nat) (w : TWord) : Bool :=
  let ds := (s.usedIns core w ++ TW.outs w).map (s.desc core)
  let os := (TW.outs w).map (s.desc core)
  match s.streamOf core w with
  | none => true
  | some b =>
    ds.all (fun d => Tile.stream d == b)
    && (TW.waits w ++ (TW.post w).toList).all (fun t => decide (16 ≤ t) == b)
    && (eng != 0 || !b)
    && ds.all (fun d => (banksOf d).all fun k => decide (32 ≤ k) || bit (s.cluster (clOfCore core)).banks k == b)
    && ((s.q core eng).upass || os.all fun d =>
      Tile.space d == 3 || Tile.space d == 4 || !(Tile.rangesOverlap (Tile.physRanges core d) s.wcopies))

/-- Every Reef entry that a descriptor names is usable (R64). -/
def reefEntriesOk (s : State) (core : Nat) (ds : List Desc) : Bool :=
  ds.all fun d => !Tile.reefV d ||
    (s.reefValid (clOfCore core) (Tile.reef d) && s.reefFmt (clOfCore core) (Tile.reef d) != 3)

/-- R204 on outputs: the coincidences an opcode allows, and no overlap otherwise. -/
def overlapsOk (s : State) (core : Nat) (w : TWord) : Bool :=
  let op := TW.opcode w
  let is := s.usedIns core w
  let os := TW.outs w
  let self := decide (op = 0x6A ∨ op = 0x6B ∨ op = 0x6C)
  let elem := TW.isElementwise op && op != 0x51 && op != 0x52
  let array := decide (op = 0x10 ∨ op = 0x20)
  let iIdx := if op = 0x10 then bits w 52 45 else bits w 68 61
  let iv := if op = 0x10 then bit w 36 else bit w 52
  let d := s.desc core
  let outIn := (os.zipIdx).all fun o => (is.zipIdx).all fun i =>
    if self && o.2 == i.2 then true
    else if coincide (d o.1) (d i.1) && (elem || (array && iv && i.1 == iIdx && i.2 + 1 == is.length)) then true
    else !(tilesOverlap (d o.1) (d i.1))
  let outOut := (os.zipIdx).all fun o => (os.zipIdx).all fun p =>
    if o.2 < p.2 then !(tilesOverlap (d o.1) (d p.1)) else true
  outIn && outOut

def isFloatFmt (f : Nat) : Bool := decide (3 ≤ f ∧ f ≤ 5)

/-- The table of R56: the format codes that an engine reads, or writes. The arrays' FP32 operand is the partial sum I (R97,
R120); of the Gather and Move Engines any format is taken, and copied unchanged (R57). -/
def engineFormats (eng : Nat) (write : Bool) : List Nat :=
  match eng with
  | 0 => if write then [5] else [0, 3, 5]
  | 1 => if write then [5] else [1, 2, 3, 4, 5]
  | 2 => [3, 4, 5, 6]
  | 3 => [0, 1, 2, 3, 4, 5]
  | _ => [0, 1, 2, 3, 4, 5, 6, 7]

/-- Every operand of an instruction is of a format that its engine takes (R56, R57). -/
def formatsOk (s : State) (core eng : Nat) (w : TWord) : Bool :=
  (s.usedIns core w).all (fun i => (engineFormats eng false).contains (Tile.fmt (s.desc core i)))
  && (TW.outs w).all fun i => (engineFormats eng true).contains (Tile.fmt (s.desc core i))

/-- A descriptor's kind for the Vector Engine: 0 floating point, 1 U32, 2 PAIR, 3 not taken (R56, R203). -/
def vecKind (d : Desc) : Nat :=
  if Tile.isPair d then (if Tile.fmt d = 5 then 2 else 3)
  else if isFloatFmt (Tile.fmt d) then 0
  else if Tile.fmt d = 6 then 1 else 3

def shapeIs (d : Desc) (r c : Nat) : Bool := Tile.rows d == r && Tile.cols d == c

/-- FMM's formats and shapes (R96, R97, R207, R208). -/
def fmmOk (s : State) (core : Nat) (w : TWord) : Bool :=
  let d := fun hi => s.desc core (bits w hi (hi - 7))
  let x := d 84
  let wt := d 76
  let y := d 44
  let m := Tile.rows x
  let k := Tile.cols x
  let n := Tile.cols wt
  let wide := fun t => Tile.fmt t == 5 && !Tile.isPair t && shapeIs t m n
  let out := s.bandOn core w
  Tile.fmt x == 0 && Tile.fmt wt == 0 && Tile.gsize x == Tile.gsize wt && !Tile.gaxis x && Tile.gaxis wt
  && Tile.rows wt == k && decide (n ≤ 128) && wide y && (!bit w 36 || wide (d 52))
  && (!out || bit w 35)
  && (!out || (Tile.fmt (d 68) == 3 && shapeIs (d 68) m (4 * ceilDiv k 64)
      && Tile.fmt (d 60) == 3 && shapeIs (d 60) (4 * ceilDiv k 64) n))
  && ((s.usedIns core w).zipIdx.all fun i =>
    (bit w 36 && i.2 + 1 == (s.usedIns core w).length) || decide (Tile.space (s.desc core i.1) ≤ 1))

/-- BMM's formats and shapes (R119, R120, R123, R203, R44). -/
def bmmOk (s : State) (core : Nat) (w : TWord) : Bool :=
  let d := fun hi => s.desc core (bits w hi (hi - 7))
  let a := d 84
  let b := d 76
  let ta := bit w 51
  let tb := bit w 50
  let m := if ta then Tile.cols a else Tile.rows a
  let k := if ta then Tile.rows a else Tile.cols a
  let kb := if tb then Tile.cols b else Tile.rows b
  let n := if tb then Tile.rows b else Tile.cols b
  let taken := fun t => decide (1 ≤ Tile.fmt t ∧ Tile.fmt t ≤ 4)
  let wide := fun t => Tile.fmt t == 5 && !Tile.isPair t && shapeIs t m n
  taken a && taken b && k == kb && decide (n ≤ 128) && wide (d 60) && (!bit w 52 || wide (d 68))
  && (!Tile.grouped a || Tile.gaxis a == ta) && (!Tile.grouped b || Tile.gaxis b == !tb)
  && (!(Tile.grouped a && Tile.grouped b) || Tile.gsize a == Tile.gsize b)
  && (Tile.isBlock a || Tile.gaxis a == ta)
  && decide (Tile.space a ≤ 1) && decide (Tile.space b ≤ 1)

/-- The elementwise, pair and reduction opcodes (R209, R210, R146, R153, R154). An FP32 D of RSUM may be LINE or BLOCK (log
entry 37). -/
def vecOk (s : State) (core : Nat) (w : TWord) : Bool :=
  let op := TW.opcode w
  let d := fun hi => s.desc core (bits w hi (hi - 7))
  let dd := d 84
  let a := d 76
  let hasB := !TW.isUnary op && TW.bmode w != 3
  let b := d 68
  let hasC := decide (op = 0x36 ∨ op = 0x37)
  let c := d 60
  let k := vecKind
  let kinds :=
    if 0x58 ≤ op then k dd == 1 && k a == 1 && (!hasB || k b == 1)
    else if op = 0x35 then k dd == 1 && k a == 0 && (!hasB || k b == 0)
    else if op = 0x37 then
      k a == 1 && k dd != 3 && Tile.fmt b == Tile.fmt c && Tile.fmt c == Tile.fmt dd
      && Tile.gsize b == Tile.gsize c && Tile.gsize c == Tile.gsize dd
      && Tile.layout b == Tile.layout c && Tile.layout c == Tile.layout dd
    else if op = 0x50 then k dd == 2 && k a == 2 && k b == 2
    else if op = 0x51 then k a == 0 && (k dd == 2 || (k dd == 0 && Tile.fmt dd == 5))
    else k dd == 0 && k a == 0 && (!hasB || k b == 0) && (!hasC || k c == 0)
  let shapes :=
    if op = 0x51 ∨ op = 0x52 then shapeIs dd (Tile.rows a) 1
    else shapeIs dd (Tile.rows a) (Tile.cols a) && (!hasC || shapeIs c (Tile.rows a) (Tile.cols a))
  let bShape := !hasB || (match TW.bmode w with
    | 1 => shapeIs b (Tile.rows a) 1
    | 2 => shapeIs b 1 (Tile.cols a)
    | _ => shapeIs b (Tile.rows a) (Tile.cols a))
  !((op == 0x50 || op == 0x37) && TW.bmode w == 3) && kinds && shapes && bShape

def fp32Line (d : Desc) : Bool := Tile.fmt d == 5 && Tile.layout d == 0

/-- The optimizer opcodes (R211, R212). -/
def optOk (s : State) (core : Nat) (w : TWord) : Bool :=
  let op := TW.opcode w
  let d := fun hi => s.desc core (bits w hi (hi - 7))
  if op = 0x6C then
    fp32Line (d 84) && shapeIs (d 84) 1 16 && Tile.fmt (d 76) == 5 && !Tile.isPair (d 76) && Tile.rows (d 76) == 1
    && Tile.cols (d 76) != 0
    && !(Tile.space (d 84) != 0 && decide (1 < ((List.range 8).filter fun i => bit w (109 + i)).length))
  else
    let same := fun t => fp32Line t && shapeIs t (Tile.rows (d 84)) (Tile.cols (d 84))
    same (d 84) && same (d 76) && same (d 60) && (op != 0x6A || same (d 68))
    && fp32Line (d 52) && shapeIs (d 52) 1 16

/-- A grouped destination of the Convert Engine names its entry, of its format (R65, R204). -/
def groupedDestOk (s : State) (core : Nat) (d : Desc) : Bool :=
  !Tile.grouped d || (Tile.reefV d && s.reefFmt (clOfCore core) (Tile.reef d) == Tile.fmt d)

/-- The Convert Engine's opcodes (R52, R213 to R215). -/
def cvtOk (s : State) (core : Nat) (w : TWord) : Bool :=
  let op := TW.opcode w
  let d := fun hi => s.desc core (bits w hi (hi - 7))
  let src := d 84
  let d1 := d 76
  let d2 := d 68
  let shape := fun t => shapeIs t (Tile.rows src) (Tile.cols src)
  let num := fun t => decide (Tile.fmt t ≤ 5)
  if op = 0x70 then num src && num d1 && shape d1 && s.groupedDestOk core d1
  else if op = 0x71 then
    num src && Tile.grouped d1 && Tile.grouped d2 && shape d1 && shape d2 && Tile.fmt d1 == Tile.fmt d2
    && Tile.gsize d1 == Tile.gsize d2 && Tile.reef d1 == Tile.reef d2 && Tile.gaxis d1 != Tile.gaxis d2
    && s.groupedDestOk core d1 && s.groupedDestOk core d2
  else
    let e := bits w 60 51
    let c := clOfCore core
    let ch := 4 * ceilDiv (Tile.len d1) 64
    isFloatFmt (Tile.fmt src) && Tile.fmt d1 == 0 && shape d1 && s.groupedDestOk core d1
    && Tile.fmt d2 == 3 && (if Tile.gaxis d1 then shapeIs d2 ch (Tile.cols d1) else shapeIs d2 (Tile.rows d1) ch)
    && s.reefValid c e && s.reefFmt c e != 3 && s.reefOut c e && bits w 49 34 % 64 == 0

/-! Sequence Table and page lists, as a walk resolves them (R314 to R318). -/

/-- Is generation `a` newer than `g`: not below 2^31 behind or equal to it (R318)? -/
def genNewer (a g : Word) : Bool := decide (2 ^ 31 ≤ (g - a).toNat)

def kvTableBase (s : State) (c : Nat) : Nat :=
  s.fld .KVP_TABLE_LO c 31 12 * 4096 + s.fld .KVP_TABLE_HI c 15 0 * 2 ^ 32
def kvSeqCount (s : State) (c : Nat) : Nat :=
  let l := s.fld .KVP_CTRL c 20 16
  if l = 0 then 0 else 2 ^ l
/-- Word `k` of half `h` of a sequence's entry. -/
def seqW (s : State) (c seq h k : Nat) : Word := s.mem.rd32 (s.kvTableBase c + 64 * seq + 32 * h + 4 * k)
/-- The half a walk of start generation `g` takes (R316, R318). -/
def seqHalf (s : State) (c seq : Nat) (g : Word) : Nat :=
  let cur := if genNewer (s.seqW c seq 1 0) (s.seqW c seq 0 0) then 1 else 0
  if genNewer (s.seqW c seq cur 0) g then 1 - cur else cur

/-- Fields of a half. -/
def seqState (w1 : Word) : Nat := bits w1 31 30
def seqGsize (w1 : Word) : Nat := bits w1 29 28
def seqOwned (w1 : Word) : Bool := bit w1 27
def seqOwner (w1 : Word) : Nat := bits w1 26 24
def seqRank (w1 : Word) : Nat := bits w1 10 0

/-- A sequence at the current generation: word 1 of its half, and its live `ALEN`. -/
def seqNow (s : State) (c seq : Nat) : Word := s.seqW c seq (s.seqHalf c seq (s.kv c).gen) 1
def seqAlen (s : State) (c seq : Nat) : Nat := SMap.get 0 (s.kv c).alen seq
def seqLen (s : State) (c seq : Nat) : Nat := bits (s.seqW c seq (s.seqHalf c seq (s.kv c).gen) 2) 22 0
def seqList (s : State) (c seq : Nat) : Nat := (s.seqW c seq (s.seqHalf c seq (s.kv c).gen) 4).toNat
def seqCap (s : State) (c seq : Nat) : Nat := bits (s.seqW c seq (s.seqHalf c seq (s.kv c).gen) 5) 14 0

/-- KVAPPEND's walk (R323, R338). -/
def kvAppendOk (s : State) (core : Nat) (w : TWord) : Bool :=
  let c := clOfCore core
  let d := s.desc core (bits w 84 77)
  let seq := bits w 76 59
  let n := bits w 58 43
  let w1 := s.seqNow c seq
  let a := s.seqAlen c seq
  s.flag .KVP_CTRL c 31 && decide (seq < s.kvSeqCount c) && seqState w1 == 1
  && Tile.fmt d == 1 && Tile.gsize d == seqGsize w1 && !Tile.gaxis d && Tile.cols d == seqRank w1 && Tile.rows d == n
  && decide (a + n ≤ 4194304) && decide (a + n ≤ 256 * s.seqCap c seq)
  && (!seqOwned w1 || seqOwner w1 == core % 8)

/-- KVREAD's checks at issue (R326, R338). -/
def kvReadOk (s : State) (core : Nat) (w : TWord) : Bool :=
  let c := clOfCore core
  let d := s.desc core (bits w 84 77)
  let seq := bits w 76 59
  let w1 := s.seqNow c seq
  s.flag .KVP_CTRL c 31 && decide (seq < s.kvSeqCount c)
  && Tile.fmt d == 1 && Tile.gsize d == seqGsize w1 && Tile.cols d == seqRank w1 && Tile.rows d == bits w 36 21
  && ((Tile.layout d == 0 && !Tile.gaxis d) || Tile.isBlock d)

/-- The Gather Engine's opcodes (R216 to R218, R300). The index list lies in the Scratchpad (R300; log entry 110); an `NEXP` outside
its range is refused (log entry 109). -/
def gthOk (s : State) (core : Nat) (w : TWord) : Bool :=
  let op := TW.opcode w
  let d := fun hi => s.desc core (bits w hi (hi - 7))
  if op = 0x80 then
    let x := d 84
    let t := d 76
    let o := d 68
    Tile.fmt x == 6 && Tile.cols x == 1 && Tile.space x == 0 && Tile.layout t == 0 && !Tile.gaxis t && !Tile.isPair o && !Tile.gaxis o
    && Tile.rows o == Tile.rows x && Tile.cols o == Tile.cols t && Tile.fmt o == Tile.fmt t
    && Tile.gsize o == Tile.gsize t
  else if op = 0x83 then
    let e := d 84
    let n := bits w 60 50
    Tile.fmt e == 6 && Tile.fmt (d 76) == 6 && Tile.cols (d 76) == 1
    && decide (Tile.rows e * Tile.cols e ≤ Tile.rows (d 76)) && decide (1 ≤ n ∧ n ≤ 1024)
    && Tile.fmt (d 68) == 6 && shapeIs (d 68) n 1
  else s.kvReadOk core w

/-- Two tiles that COPY and PREFETCH may join (R220). -/
def copyShapeOk (a b : Desc) : Bool :=
  Tile.fmt a == Tile.fmt b && Tile.gsize a == Tile.gsize b && shapeIs b (Tile.rows a) (Tile.cols a)
  && Tile.isPair a == Tile.isPair b && (!Tile.grouped a || Tile.gaxis a == Tile.gaxis b)

/-- The header bytes of a Furl tile; those of a tile outside this device come first in `ext`. -/
def furlHeaderOf (s : State) (core : Nat) (d : Desc) (ext : List Byte) : List Byte :=
  if Tile.space d ≤ 2 then (List.range 16).map fun k => byteAt s.mem core d k else ext.take 16

/-- Worst case of a Furl tile (R304, R305). -/
def furlWorst (d : Desc) : Nat := 16 + Tile.lines d * Tile.groups d * Tile.gs d + Tile.shiftBytes d

/-- First block of chunk `c` of a collective of `nb` blocks and `n` chunks (R366). -/
def chunkStart (nb n c : Nat) : Nat := c * nb / n

/-- CSEND's and CRECV's entry and tile (R364, R367). -/
def colOk (s : State) (core : Nat) (w : TWord) : Bool :=
  let die := dieOfCore core
  let d := s.desc core (bits w 84 77)
  let cid := bits w 76 65
  let w0 := s.colW die cid 0
  let op := bits w0 30 28
  let p := bits (s.colW die cid 1) 31 14 + 1
  let ch := bits (s.colW die cid 1) 13 0 + 1
  let n := (s.colW die cid 2).toNat
  let nb := ceilDiv n 512
  let rs := bit w0 25
  let node := bits w 59 42
  let send := TW.opcode w == 0x98
  let lo := 512 * chunkStart nb ch node
  let hi := min n (512 * chunkStart nb ch (node + 1))
  let want := if send then n else if 4 ≤ op then p * n else if rs then hi - lo else n
  bit w0 31 && decide (op ≤ 5)
  && (if 4 ≤ op then true
      else if bit w0 24 then Tile.fmt d == 6 && op != 0
      else Tile.fmt d == 5 && op != 3 && (op == 0 || !Tile.isPair d))
  && (send || 4 ≤ op || !rs || (ch == p && decide (node < ch)))
  && (Tile.empty d || Tile.rows d * Tile.cols d == want)

/-- The Move Engine's opcodes (R220, R301, R304, R306, R323, R364). -/
def xfrOk (s : State) (core : Nat) (w : TWord) (ext : List Byte) : Bool :=
  let op := TW.opcode w
  let d := fun hi => s.desc core (bits w hi (hi - 7))
  let a := d 84
  let b := d 76
  if op = 0x90 then copyShapeOk a b
  else if op = 0x91 then
    copyShapeOk a b && (TW.post w).isSome && decide (Tile.space a = 1 ∨ Tile.space a = 2) && Tile.space b == 0
    && !(SMap.get WRange.reset (s.core core).watch (bits w 68 63)).armed
  else if op = 0x94 then s.kvAppendOk core w
  else if op = 0x96 then
    decide (Tile.fmt a = 1 ∨ Tile.fmt a = 2) && Tile.fmt b == 7
    && (Tile.empty a || decide (furlWorst a ≤ Tile.rows b * Tile.cols b))
  else if op = 0x97 then
    let h := s.furlHeaderOf core a ext
    Tile.fmt a == 7 && decide (Tile.fmt b = 1 ∨ Tile.fmt b = 2)
    && (Tile.empty b || (decide (16 ≤ Tile.rows a * Tile.cols a) && furlField h 1 == Tile.fmt b
        && furlField h 2 == Tile.gsize b && (furlField h 3 == 1) == Tile.gaxis b && furlField h 5 == Tile.rows b
        && furlField h 6 == Tile.cols b))
  else s.colOk core w

/-! Shroud's checks at issue (R221, R242, R248). -/

/-- The die flag range of a cluster (R253). -/
def inDflagRange (s : State) (c flag : Nat) : Bool :=
  decide (s.fld .SHR_DFLAG_RANGE c 9 0 ≤ flag) && decide (flag ≤ s.fld .SHR_DFLAG_RANGE c 25 16)

/-- Setter group `g` of a cluster flag or a die flag (R247). -/
def group (s : State) (c : Nat) (dieFlag : Bool) (flag g : Nat) : Word :=
  if dieFlag then SMap.get 0 (s.die (dieOfCl c)).dregs (2 * flag + g) else SMap.get 0 (s.cluster c).regs (2 * flag + g)

def registered (s : State) (c : Nat) (dieFlag : Bool) (flag : Nat) : Bool :=
  bit (s.group c dieFlag flag 0) 31 || bit (s.group c dieFlag flag 1) 31

/-- Does a local group of a flag name a queue (R247)? `c` is the flag's cluster, or any of its die. -/
def groupNames (g : Word) (c : Nat) (dieFlag : Bool) (core eng : Nat) : Bool :=
  bit g 31 && !bit g 30
  && (if dieFlag then clOfCore core == dieOfCl c * 8 + bits g 29 27 else clOfCore core == c)
  && bit g (19 + core % 8) && bit g (13 + eng)

/-- May a queue of this die update a flag by its registration (R248)? -/
def localSetterOk (s : State) (c : Nat) (dieFlag : Bool) (flag core eng : Nat) : Bool :=
  !s.registered c dieFlag flag || groupNames (s.group c dieFlag flag 0) c dieFlag core eng
  || groupNames (s.group c dieFlag flag 1) c dieFlag core eng

/-- Where a SETF, ADDF or WAITF points, with its own die resolved (R246): 0 cluster flag, 1 own die, 2 another die
of this device, 3 another device. -/
def flagScope (s : State) (core : Nat) (w : TWord) : Nat :=
  match bits w 84 83 with
  | 0 => 0
  | 1 => 1
  | _ => if bits w 72 55 = s.devId then (if bits w 54 53 = dieOfCore core then 1 else 2) else 3

/-- Issue checks of the flag instructions. -/
def flagOk (s : State) (core eng : Nat) (w : TWord) : Bool :=
  let c := clOfCore core
  let f := bits w 82 73
  let wait := TW.opcode w == 1
  if wait && bits w 84 83 == 2 then false
  else match s.flagScope core w with
    | 0 => decide (f ≤ 63) && (wait || s.localSetterOk c false f core eng)
    | 1 => s.inDflagRange c f && (wait || s.localSetterOk c true f core eng)
    | _ => true

/-- The opcode's own checks and the formats an engine takes: the rest of order 5. -/
def opcodeChecks (s : State) (core eng : Nat) (w : TWord) (ext : List Byte) : Bool :=
  let op := TW.opcode w
  if op = 0x10 then s.fmmOk core w
  else if op = 0x20 then s.bmmOk core w
  else if TW.isElementwise op then s.vecOk core w
  else if 0x6A ≤ op ∧ op ≤ 0x6C then s.optOk core w
  else if 0x70 ≤ op ∧ op ≤ 0x72 then s.cvtOk core w
  else if 0x80 ≤ op ∧ op ≤ 0x83 then s.gthOk core w
  else if 0x90 ≤ op then s.xfrOk core w ext
  else if 1 ≤ op ∧ op ≤ 3 then s.flagOk core eng w
  else true

/-- Order 5 of R223. -/
def order5Ok (s : State) (core eng : Nat) (w : TWord) (ext : List Byte) : Bool :=
  let is := (s.usedIns core w).map (s.desc core)
  let os := (TW.outs w).map (s.desc core)
  is.all (s.extentOk core false) && os.all (s.extentOk core true) && (is ++ os).all (spaceOk core eng)
  && os.all (fun d => Tile.space d == 3 || Tile.space d == 4 || s.rawHits (Tile.physRanges core d) == [])
  && s.formatsOk core eng w && s.reefEntriesOk core (is ++ os) && s.overlapsOk core w && s.opcodeChecks core eng w ext

/-- The status with which an instruction at the head of queue `eng` is refused, if it is (R223, R306). -/
def refusal (s : State) (core eng : Nat) (w : TWord) (ext : List Byte) : Option Status :=
  let ds := (s.usedIns core w ++ TW.outs w).map (s.desc core)
  if !(TW.opcodeOk w && TW.engine w == eng) then some .versionMismatch
  else if !(TW.reservedOk w && ds.all descReservedOk) then some .versionMismatch
  else if !ds.all descCodesOk then some .versionMismatch
  else if !s.order4Ok core eng w then some .faultAddress
  else if TW.opcode w == 0x97 && !Tile.empty (s.desc core (bits w 76 69))
      && furlField (s.furlHeaderOf core (s.desc core (bits w 84 77)) ext) 0 != 1 then some .versionMismatch
  else if !s.order5Ok core eng w ext then some .faultAddress
  else none

end State

end Sys2Proof.Machine
end

