-- ==== Sys2Proof/Machine/Detect.lean ====
section
/-!
DEFINITION. What the memory hierarchy does while an instruction reads: Data Caches, miss registers and transfer tags, and
the answers to what the detection hardware finds (11_memory_hierarchy.md R289, R290, R296 to R308; 16 R440, R444).
-/

namespace Sys2Proof.Machine

/-! Data Caches (R296). -/

/-- One node of a replacement tree is set to `b`. -/
def plruSet (t : Nat) (x : Nat × Nat) : Nat := t - 2 ^ x.1 * (t / 2 ^ x.1 % 2) + 2 ^ x.1 * x.2

/-- An access to one of 2^lv ways makes each node on its path point away from it: pseudo-LRU as a binary tree, the nodes of
depth d at bits 2^d - 1 onward (log entry 115). -/
def plruTouch (lv t way : Nat) : Nat :=
  ((List.range lv).map fun d => (2 ^ d - 1 + way / 2 ^ (lv - d), 1 - way / 2 ^ (lv - 1 - d) % 2)).foldl plruSet t

/-- The way that the tree points to. -/
def plruVictim (lv t : Nat) : Nat :=
  (List.range lv).foldl (fun p d => 2 * p + t / 2 ^ (2 ^ d - 1 + p) % 2) 0

namespace Core

/-- The set of a block: address bits 14 to 8. -/
def setOf (block : Nat) : Nat := block % 128

/-- The line of a set's way. -/
def line (c : Core) (set way : Nat) : Option Nat := SMap.get none c.dcache (8 * set + way)

/-- The way that holds a block. -/
def wayOf (c : Core) (block : Nat) : Option Nat := (List.range 8).find? fun k => c.line (setOf block) k == some block

/-- A way of a block's set is used. -/
def useWay (c : Core) (block way : Nat) : Core :=
  { c with plru := SMap.set 0 c.plru (setOf block) (plruTouch 3 (SMap.get 0 c.plru (setOf block)) way) }

/-- A block fills a line: a way that holds none, or else the one the replacement bits choose. -/
def fill (c : Core) (block : Nat) : Core :=
  let set := setOf block
  let way := ((List.range 8).find? fun k => (c.line set k).isNone).getD (plruVictim 3 (SMap.get 0 c.plru set))
  ({ c with dcache := SMap.set none c.dcache (8 * set + way) (some block) } : Core).useWay block way

/-- An engine reads a block through the Data Cache; a miss allocates a line unless the reader is the Gather Engine (R296,
R300). -/
def readBlock (alloc : Bool) (c : Core) (block : Nat) : Core :=
  match c.wayOf block with
  | some way => c.useWay block way
  | none => if alloc then c.fill block else c

end Core

/-- Blocks of the HBM of a core's own die. -/
def ownHbm (core : Nat) (bs : List Nat) : List Nat :=
  bs.filter fun b => decide (256 * b < hbmEnd) && 256 * b / dieHbm == dieOfCore core

namespace State

/-- The reads of an instruction go through its core's Data Cache; those of the Move Engine do not (R296, R299). -/
def cacheReads (s : State) (core eng : Nat) (bs : List Nat) : State :=
  if eng = 5 ∨ ownHbm core bs = [] then s
  else s.modCore core fun c => (ownHbm core bs).foldl (Core.readBlock (decide (eng ≤ 3))) c

/-! Miss registers and transfer tags (R289, R290). -/

/-- Segments and frames that the flights of an engine wait for, each under a transfer tag; a SETF or an ADDF moves no segment,
and its frame takes none (R289). -/
def tagsWanted (s : State) (core eng : Nat) : Nat :=
  (((SMap.get EngQ.reset (s.core core).q eng).flight.filter fun f => decide (0x10 ≤ TW.opcode f.word)).map fun f =>
    f.segs.length + f.waits.length).sum

/-- Transfer tags that the Gather Engine and the Move Engine hold: 64 in all, and while one engine waits for a tag at most 48 of
the other, once what it held beyond them has been answered (R289). A Gather Engine's instruction runs in one step, so its rows'
tags are free again when it ends (log entry 116). -/
def tagsHeld (s : State) (core : Nat) : Nat × Nat := (0, min (s.tagsWanted core 5) ((s.core core).gthWait.getD 64))

/-- Transfer tags that an instruction asks for: one for each 4 KiB of a row of a Gather Engine's instruction, and of a
transfer (R289, R300). -/
def tagsAsked (s : State) (core : Nat) (w : TWord) : Nat :=
  let d := fun hi => s.desc core (bits w hi (hi - 7))
  let op := TW.opcode w
  if op = 0x80 then Tile.rows (d 84) * ceilDiv (Tile.lineBytes (d 76)) 4096
  else if op = 0x82 then bits w 36 21
  else if op = 0x83 then Tile.rows (d 84) * ceilDiv (Tile.lineBytes (d 84)) 4096
  else if op = 0x90 ∨ op = 0x91 ∨ op = 0x96 ∨ op = 0x97 then (cutRanges 4096 (Tile.exact (d 84))).length
  else 0

/-- Blocks whose reads take miss registers: Data Cache misses, and reads of Cluster Memory, which no cache holds (R289). One that a
register already tracks joins it. -/
def missAsked (s : State) (core : Nat) (reads : List Nat) : List Nat :=
  (reads.filter fun b =>
    ((ownHbm core [b] != [] && ((s.core core).wayOf b).isNone)
      || (decide (cmemBase (clOfCore core) ≤ 256 * b) && decide (256 * b < cmemBase (clOfCore core) + cmemSize)))
    && !((s.core core).miss.any fun x => x.1 == b)).eraseDups

/-- Does an instruction find no free miss register or transfer tag (R290)? -/
def tagsShort (s : State) (core eng : Nat) (w : TWord) (reads : List Nat) : Bool :=
  if 4 ≤ eng then
    let h := s.tagsHeld core
    decide (64 - h.1 - h.2 < s.tagsAsked core w)
  else
    decide (64 - (s.core core).miss.length < (s.missAsked core reads).length)

/-- The head of a queue finds no transfer tag, or no miss register, free at all: it stalls until one frees (R290). The Move Engine's
segments wait one by one after issue. -/
def tagsOut (s : State) (core eng : Nat) (w : TWord) : Bool :=
  if eng = 5 then false
  else if eng = 4 then decide (0 < s.tagsAsked core w) && decide (64 ≤ (s.tagsHeld core).2)
  else decide (64 ≤ (s.core core).miss.length)
    && decide (s.missAsked core (blocksOf (((s.usedIns core w).map (s.desc core)).flatMap fun d =>
      if Tile.space d ≤ 2 then Tile.physRanges core d else [])) ≠ [])

/-- A queue's head stalls for want of a tag or miss register for some cycles; while the Gather Engine waits, the Move Engine takes
no tag beyond 48 (R289, R290). -/
def tagWait (s : State) (core eng cycles : Nat) : State :=
  let s := s.countSat .XFR_TAG_HOLD core cycles
  if eng = 4 then s.modCore core fun c => { c with gthWait := some (c.gthWait.getD 64) } else s

/-- A transfer tag of the Move Engine has its response: the tag goes to the Gather Engine where that waits (R289). -/
def tagFreed (s : State) (core eng : Nat) : State :=
  if eng = 5 then s.modCore core fun c => { c with gthWait := c.gthWait.map fun k => max 48 (k - 1) } else s

/-- Cycles in which an engine stalled for want of a miss register or tag (R290). -/
def tagStall (s : State) (core eng : Nat) (w : TWord) (reads : List Nat) (cycles : Nat) : State :=
  if s.tagsShort core eng w reads then s.countSat .XFR_TAG_HOLD core cycles else s

/-! Recomputation (R307, R444). -/

/-- The newest logged instruction that wrote a block: core, engine and entry. -/
def producerOf (s : State) (block : Nat) : Option (Nat × Nat × LogEntry) :=
  (s.cores.flatMap fun c => c.2.q.flatMap fun q => (q.2.log.filter fun e => e.done && e.blocksOut.contains block).map
    fun e => (c.1, q.1, e)).foldl (fun best x => match best with
      | none => some x
      | some y => if y.2.2.order < x.2.2.order then some x else some y) none

/-- A block is written again by a recomputation: Data Caches, Source Watch and the Snapshot Engine see the write, Replay Logs do
not (R297, R302, R432, R442). The bytes are those that stand: the inputs of a logged entry are intact, so its re-execution
gives what it gave (R442, R444; log entry 156). -/
def rewriteBlock (s : State) (block : Nat) : State :=
  let f := s.firstTouch (s.mem.wrN (256 * block) (s.mem.rdN (256 * block) 256)) [(256 * block, 256)]
  { f.1 with mem := f.2.1, cores := SMap.mapVals Core.reset (fun _ c => watchWrite [block] (cacheWrite [block] c)) f.1.cores }

/-- A failing word is written again by its producer: the replay's effects beyond the failing block are none (R308, R444). -/
def recompute (s : State) (block : Nat) : State × Bool :=
  match s.producerOf block with
  | none => (s, false)
  | some (core, _, e) =>
    if e.noReplay then
      ((s.setFlag .RES_LOG_STATUS 0 30).modPart (s.partOf (clOfCore core)) fun x => { x with restoreDue := true }, false)
    else (((s.rewriteBlock block).countSat .RES_RECOMP_COUNT 0 1).post (dieOfCore core) .detectedRecomputed
      (BitVec.ofNat 32 (256 * block)) 0, true)

/-! Detections (R307, R308). -/

/-- A detection that a re-read, a resend or a refetch answers goes to Telltale (R423). -/
def detected (s : State) (core : Nat) : State := s.post (dieOfCore core) .detectedRecomputed (BitVec.ofNat 32 core) 0

/-- A detection that only a restore answers: the address is recorded and posted (R307, R308). -/
def restoreFor (s : State) (core a : Nat) : State :=
  (s.memPersistent a).modPart (s.partOf (clOfCore core)) fun p => { p with restoreDue := true }

/-- A parity error of a core's Scratchpad or Data Cache counts (R311). -/
def parityMet (s : State) (core : Nat) : State := (s.countSat .XFR_PARITY_COUNT core 1).setFlag .XFR_STATUS core 30

/-- A failing word is written again by its logged producer, or a restore is due. The flag says that the data are good. -/
def rewriteOr (s : State) (core a : Nat) : State × Bool :=
  let r := s.recompute (a / 256)
  if r.2 then r else (r.1.restoreFor core a, false)

/-- Device CRC mismatches of one block, re-reads included: each counts; after both re-reads its producer writes it
again, or the address is persistent and a restore is due (R307, R308, R310). -/
def crcFailures (s : State) (core block fails : Nat) : State × Bool :=
  if fails = 0 then (s, true)
  else
    let k := (s.stackOf (256 * block)).1
    let s := (s.countSat .MEM_CRC_COUNT k fails).setFlag .MEM_STATUS k 31
    if fails ≤ 2 then (s.post (dieOfCore core) .detectedRecomputed (BitVec.ofNat 32 (256 * block)) 0, true)
    else s.rewriteOr core (256 * block)

/-- A transfer segment whose CRC-32C failed in some of its four sendings (R307). -/
def segmentFailures (s : State) (core addr fails : Nat) : State × Bool :=
  if fails = 0 then (s, true)
  else
    let s := s.setFlag .XFR_STATUS core 29
    if fails ≤ 3 then (s.detected core, true) else (s.restoreFor core addr, false)

/-- Does an address lie in a Replay Log (R307)? -/
def inLog (s : State) (a : Nat) : Bool :=
  (List.range 32).any fun c =>
    let lo := cmemBase c + s.fld .RES_LOG_CTRL 0 11 0 * 4096
    decide (lo ≤ a) && decide (a < lo + 48 * 2 ^ s.fld .RES_LOG_CTRL 0 19 16 * 64)

/-- The armed Source Watch range, of whichever core, whose destination holds an address: core, number and range (R307). -/
def rangeOver (s : State) (a : Nat) : Option (Nat × Nat × WRange) :=
  (s.cores.flatMap fun c => (c.2.watch.filter fun x => x.2.armed && (Tile.physRanges c.1 x.2.dst).any fun r =>
    rangesMeet r.1 r.2 a 1).map fun x => (c.1, x)).head?

/-- The core whose Scratchpad holds an address of the device map. -/
def spadOwner (a : Nat) : Option Nat := (List.range 256).find? fun k => decide (spadBase k ≤ a) && decide (a < spadBase k + spadSize)

/-- A range is copied again from its source (R303). -/
def copyRange (s : State) (core : Nat) (r : WRange) : State :=
  (s.commitMem (copyTile s.mem s.mem core r.src r.dst)
    ((Tile.exact r.dst).map fun x => (phys core (Tile.space r.dst) x.1, x.2))).1

/-- A refetch begins for some ranges of a core: it counts once, each range has seen no write and takes its part in it, and a
binding's sixteenth refetch in a row is reported (R303). -/
def refetchRanges (s : State) (core : Nat) (due : List (Nat × WRange)) : State :=
  if due = [] then s
  else
    due.foldl (fun s x =>
      let r : WRange := { x.2 with seen := false, busy := true, refetches := x.2.refetches + 1 }
      let s := s.modCore core fun c => { c with watch := SMap.set WRange.reset c.watch x.1 r }
      if x.2.refetches = 15 then (s.setFlag .XFR_STATUS core 28).post (dieOfCore core) .prefetchLivelock (BitVec.ofNat 32 core)
        (BitVec.ofNat 32 x.1) else s)
      ((s.countSat .XFR_STALE_COUNT core 1).setFlag .XFR_STATUS core 31)

/-- A word of a Scratchpad or of Cluster Memory, its own core's or one that its reader sees by a window, failed its parity: a range is refetched, the word's producer writes it again,
or a restore is due (R307). -/
def sramParity (s : State) (core a : Nat) : State × Bool :=
  let s := match spadOwner a with
    | some k => s.parityMet k
    | none => s
  if s.inLog a then (s.restoreFor core a, false)
  else match s.rangeOver a with
    | some (k, x) =>
      let t := (s.refetchRanges k [x]).copyRange k x.2
      let calm := fun (i : Nat) (r : WRange) => if i = x.1 then { r with busy := false } else r
      ((t.modCore k fun c => { c with watch := SMap.mapVals WRange.reset calm c.watch }).detected core, true)
    | none => s.rewriteOr core a

/-- What the device does about a detection; the flag says that good data came in the end (R307, R308). -/
def answerOne (s : State) (core : Nat) : Detection → State × Bool
  | .cacheParity b => (((s.parityMet core).modCore core fun c => { c with dcache := c.dcache.filter fun x => x.2 != some b }).detected
      core, true)
  | .sramParity a => s.sramParity core a
  | .segment a fails => s.segmentFailures core a fails
  | .device b fails => s.crcFailures core b fails
  | .furl none => (s.detected core, true)
  | .furl (some a) => s.rewriteOr core a

/-- A detection that had no failure in it. -/
def nothingMet : Detection → Bool
  | .segment _ fails => fails == 0
  | .device _ fails => fails == 0
  | _ => false

/-- Answer the detections that an instruction meets: the state, its statuses, and whether every datum is good. -/
def answerAll (s : State) (core : Nat) : List Detection → State × List Status × Bool
  | [] => (s, [], true)
  | x :: xs =>
    let r := s.answerOne core x
    let t := r.1.answerAll core xs
    (t.1, (if nothingMet x then [] else if r.2 then [.recomputed] else [.restored]) ++ t.2.1, r.2 && t.2.2)

end State

/-- Opcodes whose instructions read data, and may complete with a detected-error status (R225). -/
def readsData (op : Nat) : Bool := decide (0x10 ≤ op) && op != 0x68 && op != 0x94

/-- A status that R225 lists for an opcode: collectives do not list `DETECTED_ERROR_RESTORED`. -/
def statusListed (op : Nat) (st : Status) : Bool := !((op == 0x98 || op == 0x99) && st == .restored)

/-- Opcodes for which R225 lists `STALE`: array, Vector, Convert and Gather Engine instructions, VMODE apart. -/
def staleListed (op : Nat) : Bool := decide (0x10 ≤ op) && decide (op < 0x90) && op != 0x68

/-- The statuses of a KVAPPEND, for which R225 lists neither `PEER_LOST` nor `TIMEOUT`: rows that a peer does not deliver end it with
FAULT_ADDRESS (log entry 155). -/
def listedMet (op : Nat) (met : List Status) : List Status :=
  if op = 0x94 then met.map fun st => if st = .peerLost ∨ st = .timeout then .faultAddress else st else met

end Sys2Proof.Machine
end

