-- ==== Sys2Proof/Machine/Issue.lean ====
section
/-!
DEFINITION. The life of a tensor instruction: when the head of a queue issues, what issue does, refusal, the Replay
Log, and completion in queue order (08 R196 to R200, R222 to R227; 09 R231 to R237; 16 R440, R442).
-/

namespace Sys2Proof.Machine

/-- What executing an instruction did: the state, the statuses it met other than OK, what it still waits for (frames; segments
that have not landed, with their bytes), and the 256-byte blocks it read and wrote. -/
structure Run where
  st : State
  met : List Status
  waits : List (Nat × Nat)
  segs : List (Nat × Nat)
  img : Memory
  col : Option (Nat × Nat)
  /-- Work remains to be done when the last wait is answered. -/
  due : Bool
  stuck : Bool
  reads : List Nat
  writes : List Nat

/-- What an engine does with an instruction that has passed its checks. -/
abbrev Body := State → Nat → Nat → TWord → Env → Run

/-- An instruction that is done with its work. -/
def Run.of (st : State) (met : List Status) (reads writes : List Nat) : Run :=
  ⟨st, met, [], [], [], none, false, false, reads, writes⟩

/-- An 8-bit descriptor field of an instruction, named by its high bit. -/
def dfield (w : TWord) (hi : Nat) : Nat := bits w hi (hi - 7)

/-- Keep `x` when `b`. -/
def keepIf {α : Type} (b : Bool) (x : List α) : List α := if b then x else []

namespace State

/-- Blocks of the device's own memory that an instruction's descriptors name. -/
def descBlocks (s : State) (core : Nat) (is : List Nat) : List Nat :=
  blocksOf ((is.map (s.desc core)).flatMap fun d => if Tile.space d ≤ 2 then Tile.physRanges core d else [])

/-- An instruction that has done its work through its descriptors alone. -/
def ran (s : State) (core : Nat) (w : TWord) (st : State) (met : List Status) : Run :=
  Run.of st met (s.descBlocks core (s.usedIns core w)) (s.descBlocks core (TW.outs w))

/-- Word `b` of the Outlier Map of a Reef entry, where the cluster's die can reach it (R85, R296). -/
def omapWord (s : State) (core e b : Nat) : Option Word :=
  let c := clOfCore core
  let a := (s.reefW c e 23).toNat + bits (s.reefW c e 24) 15 0 * 2 ^ 32 + 4 * b
  if ownDieRange core a 4 then some (s.mem.rd32 a) else none

/-- The map words of some blocks, 0 where a word cannot be read, and whether one could not (R85). -/
def omapWords (s : State) (core e : Nat) (bs : List Nat) : List Word × Bool :=
  let ws := bs.map fun b => s.omapWord core e b
  (ws.map fun w => w.getD 0, ws.any (·.isNone))

/-- Set a status bit when `b`. -/
def flagIf (s : State) (b : Bool) (r : Reg) (i k : Nat) : State := if b then s.setFlag r i k else s

/-! Issue. -/

/-- The queue that a word's `ENGINE` routes it to (R195). -/
def routeOf (w : TWord) : Nat := if TW.engine w ≤ 5 then TW.engine w else 2

/-- The stream bit of an event record. -/
def streamBit (s : State) (core : Nat) (w : TWord) : Bool := (s.streamOf core w).getD false

/-- Is a log full (R442)? -/
def logFull (s : State) (core eng : Nat) : Bool :=
  decide (2 ^ s.fld .RES_LOG_CTRL 0 19 16 ≤ (s.q core eng).log.length)

/-- Is an array stopped by a persistent check failure (R109, R131)? -/
def arrayStopped (s : State) (core eng : Nat) : Bool :=
  (eng == 0 && s.flag .FWD_STATUS core 3) || (eng == 1 && s.flag .BWD_STATUS core 3)

/-- The engine can accept its head (R109, R222, R244, R374, R442). -/
def engineAccepts (s : State) (core eng : Nat) (w : TWord) : Bool :=
  let q := s.q core eng
  let op := TW.opcode w
  let ordered := fun x => decide (TW.opcode x = 2 ∨ TW.opcode x = 3) || (TW.opcode x == 0x90 && bit x 68)
  !s.arrayStopped core eng && !(q.flight.any fun f => f.stuck)
  && !(ordered w && q.flight ≠ []) && !(q.flight.any fun f => ordered f.word)
  && !((op == 0x98 || op == 0x99) && !s.flag .COL_CTRL (dieOfCore core) 31)
  && !(op == 4 && (s.part (s.partOf (clOfCore core))).verdict.isNone)
  && !(s.logFull core eng && (q.log.head?.any fun e => !e.done))

/-- Every wait of an instruction is satisfied (R234). -/
def waitsMet (s : State) (core eng : Nat) (w : TWord) : Bool :=
  (TW.waits w).all fun t => decide (1 ≤ (s.tok core eng t).count)

/-- It waits on a STALE token (R237). -/
def waitsStale (s : State) (core eng : Nat) (w : TWord) : Bool := (TW.waits w).any fun t => (s.tok core eng t).stale

/-- The head of a queue. -/
def headOf (s : State) (core eng : Nat) : Option TWord := (s.q core eng).items.head?

/-- Between two steps of its job, from the ready point to the start of the next step, a partition issues nothing (R24,
R76, R389, R428, R461). -/
def stepHeld (s : State) (p : Nat) : Bool :=
  let x := s.part p
  x.ready.isSome || x.inputHold || x.firstEpoch

/-- Between the verdict and order 7 of R76 a conversion outside the update pass belongs to the next step, so it waits
(R76). -/
def convHeld (s : State) (core eng : Nat) (w : TWord) : Bool :=
  let x := s.part (s.partOf (clOfCore core))
  (TW.opcode w == 0x70 || TW.opcode w == 0x71 || TW.opcode w == 0x72) && x.verdict.isSome && !x.reefDone
    && !(s.q core eng).upass

/-- Gradient accumulation in a cluster met an infinity or NaN (R22, R76). -/
def gradNonfinite (s : State) (c : Nat) (b : Bool) : State :=
  if b then s.modPart (s.partOf c) fun x => { x with gradNf := true } else s

/-- May the head `w` of a queue issue now (R24, R76, R198, R224, R237)? -/
def mayIssue (s : State) (core eng : Nat) (w : TWord) : Bool :=
  (s.core core).hold.isNone && !s.stepHeld (s.partOf (clOfCore core)) && !(s.q core eng).refetching && s.waitsMet core eng w && !s.waitsStale core eng w
  && s.engineAccepts core eng w && !s.convHeld core eng w

/-- The input version of a wait: the logged instruction whose post satisfies it (R440). -/
def srcOf (s : State) (core eng : Nat) (t : Option Nat) : Word :=
  match t with
  | none => 0
  | some t => ((s.tok core eng t).srcs.head?).getD 0

/-- The head leaves its queue: its tokens are consumed, it counts, and PEND_OWN falls (R198, R227, R232, R234). -/
def takeHead (s : State) (core eng : Nat) (w : TWord) : State :=
  let s := (TW.waits w).foldl (fun s t => s.consumeTok core eng t) s
  let s := if eng = 4 then s.modCore core fun c => { c with gthWait := none } else s
  let s := s.modQ core eng fun q =>
    { q with items := q.items.drop 1, seq := q.seq + 1, restale := false, waiting := false }
  match TW.post w with
  | some id => if TW.pcons w = TW.engine w then s.modTok core (TW.pcons w) id fun t => { t with pendOwn := t.pendOwn - 1 } else s
  | none => s

/-- PEND of an instruction's post token falls without a post (R232). -/
def dropPend (s : State) (core : Nat) (w : TWord) : State :=
  match TW.post w with
  | some id => s.modTok core (TW.pcons w) id fun t => { t with pend := t.pend - 1 }
  | none => s

/-- Do the descriptors of an instruction name both streams (R14)? -/
def streamsMix (s : State) (core : Nat) (w : TWord) : Bool :=
  (TW.ins w ++ TW.outs w).any fun i => some (Tile.stream (s.desc core i)) != s.streamOf core w

/-- The STREAM bit of a refused instruction's record: an open value where its descriptors are of both streams
(log entry 20). -/
def refusedStream (s : State) (core : Nat) (w : TWord) : State × Bool :=
  if s.streamsMix core w then
    let x := s.drawWord
    (x.1, bit x.2 0)
  else (s, s.streamBit core w)

/-- A refusal: nothing executes, an event record, and the core's queues stop (R224, R227). -/
def refuse (s : State) (core eng : Nat) (w : TWord) (st : Status) : State :=
  let x := s.refusedStream core w
  let s := x.1.dropPend core w
  let s := s.putEvent (clOfCore core)
    (s.eventWords core w true x.2 [st] (s.q core eng).seq)
  s.holdCore core 0x08 eng st

/-! The Replay Log. -/

/-- The sixteen words of a log entry (R440). -/
def logWords (e : LogEntry) : List Word :=
  [BitVec.ofNat 32 (bits e.word 31 0), BitVec.ofNat 32 (bits e.word 63 32), BitVec.ofNat 32 (bits e.word 95 64),
   BitVec.ofNat 32 (bits e.word 127 96), BitVec.ofNat 32 e.seq, BitVec.ofNat 32 e.dver, e.word6, e.srcA, e.srcB,
   0, 0, 0, 0, 0, 0, 0]

/-- Write an entry's image. -/
def logImage (s : State) (core eng : Nat) (e : LogEntry) : State :=
  s.store (s.logAddr core eng e.seq) ((logWords e).flatMap fun w => natLe 4 w.toNat)

/-- An instruction enters its log at issue; a full log drops its oldest entry, which has completed (R440, R442). -/
def logEnter (s : State) (core eng : Nat) (w : TWord) (srcA srcB : Word) : State :=
  let e : LogEntry :=
    { word := w, seq := (s.q core eng).seq.toNat, dver := (s.core core).dver, done := false, noReplay := false
      status := .ok, srcA := srcA, srcB := srcB, blocksIn := [], blocksOut := [], aux := 0, drop := false, order := 0 }
  let s := if s.logFull core eng then
      (s.modQ core eng fun q => { q with log := q.log.drop 1 }).setFlag .RES_LOG_STATUS 0 31
    else s
  (s.modQ core eng fun q => { q with log := q.log ++ [e] }).logImage core eng e

/-- Change the log entry of an instruction. -/
def logMod (s : State) (core eng seq : Nat) (f : LogEntry → LogEntry) : State :=
  s.modQ core eng fun q => { q with log := q.log.map fun e => if e.seq = seq then f e else e }

/-- A completed instruction's entry: DONE, STATUS, and whether it lets the log drop up to it (R197, R442). -/
def logDone (s : State) (core eng seq : Nat) (w : TWord) (st : Status) : State :=
  let k := s.logOrder
  let s := { s with logOrder := k + 1 }.logMod core eng seq fun e =>
    { e with done := true, status := st, order := k, drop := e.drop || TW.commit w || meets e.blocksIn e.blocksOut }
  let s := match (s.q core eng).log.find? fun e => e.seq == seq with
    | some e => s.logImage core eng e
    | none => s
  s.modQ core eng fun q => { q with log := trimLog q.log }

/-! Completion. -/

/-- The version word of a logged instruction's post (R440). -/
def srcWord (eng seq : Nat) : Word := BitVec.ofNat 32 (eng * 2 ^ 29 + seq % 2 ^ 29)

/-- Statuses that are faults handled at context level (R217, R224, R236, R241, R250 to R252, R458). -/
def isContextFault (st : Status) : Bool :=
  decide (st = .faultAddress ∨ st = .deadlock ∨ st = .timeout ∨ st = .peerLost)

/-- A KVAPPEND that found both staging pages full: it ends without completing, so that a fault replay can carry it out
again (R329, R458). -/
def stagingFull (s : State) (core : Nat) (w : TWord) (met : List Status) : Bool :=
  TW.opcode w == 0x94 && met.contains .faultAddress && (s.core core).hold.any fun h => h.cause == 0x10

/-- An instruction completes: it posts, writes its event record unless OK, its log entry is done, and a fault stops
its core's queues (R200, R224, R226, R227, R236). -/
def finish (s : State) (core eng : Nat) (w : TWord) (seq : Nat) (stream : Bool) (met : List Status) : State :=
  let met := listedMet (TW.opcode w) met
  if s.stagingFull core w met then
    s.putEvent (clOfCore core) (s.eventWords core w false stream met (BitVec.ofNat 32 seq))
  else
  let (s, met) : State × List Status := match TW.post w with
    | none => ((s, met) : State × List Status)
    | some id =>
      let r := s.postTok core (TW.pcons w) id (srcWord eng seq)
      (r.1, if r.2 then met ++ [Status.faultAddress] else met)
  let st := worst met
  let s := if st = .ok then s
    else s.putEvent (clOfCore core) (s.eventWords core w false stream met (BitVec.ofNat 32 seq))
  let s := s.logDone core eng seq w st
  if isContextFault st then s.holdCore core (causeOf st) eng st else s

/-- Complete the instructions at the front of a queue's flight that wait for nothing more, in queue order (R200). -/
def drain (s : State) (core eng : Nat) : Nat → State
  | 0 => s
  | n + 1 =>
    match (s.q core eng).flight with
    | [] => s
    | f :: fs =>
      if f.done then
        ((s.modQ core eng fun q => { q with flight := fs }).finish core eng f.word f.seq
          ((f.descs.head?.map Tile.stream).getD false) f.met).drain core eng n
      else s

def drainAll (s : State) (core eng : Nat) : State := s.drain core eng (s.q core eng).flight.length

/-- The descriptors of an instruction, in the order of its fields. -/
def descsOf (s : State) (core : Nat) (w : TWord) : List Desc := (TW.ins w ++ TW.outs w).map (s.desc core)

/-- A pending shadow sample whose descriptor an instruction writes again is discarded (R183). -/
def shadowRewritten (s : State) (core : Nat) (outs : List Nat) : State :=
  match (s.core core).shadow with
  | none => s
  | some sh => if sh.n.isNone && outs.contains sh.desc then
      (s.modCore core fun c => { c with shadow := none }).countSat .TTL_SHADOW_LOST 0 1
    else s

/-- An instruction of the update pass after an overflow verdict (R222). -/
def skipped (s : State) (core eng : Nat) (w : TWord) : Bool :=
  (s.q core eng).upass && TW.opcode w != 5 && (s.part (s.partOf (clOfCore core))).verdict == some true

/-- The work of an instruction: nothing in a skipped update pass, and no writes of an instruction of which some datum failed its
checks for good (R222, R308; log entry 117). Its reads go through the Data Cache before what it writes invalidates lines there
(R297). -/
def work (s : State) (core eng : Nat) (w : TWord) (env : Env) (body : Body) : Run :=
  if s.skipped core eng w then Run.of s [.skippedStep] [] []
  else
    let hits := if readsData (TW.opcode w) then env.hits else []
    let a := s.answerAll core hits
    let met := a.2.1.filter (statusListed (TW.opcode w))
    if a.2.2 then
      let s := a.1.shadowRewritten core (TW.outs w)
      let reads := (body s core eng w env).reads
      let run := body ((s.tagStall core eng w reads env.hold).cacheReads core eng reads) core eng w env
      { run with met := run.met ++ met }
    else Run.of a.1 met [] []

/-- Carry out an instruction that has issued and is in its log: run it, and complete it, or keep it in flight.
`extra` are statuses from outside the run: STALE of a refetched head, or a replay's. -/
def carry (s : State) (core eng : Nat) (w : TWord) (seq : Nat) (env : Env) (extra : List Status) (body : Body) : State :=
  let stream := s.streamBit core w
  let descs := s.descsOf core w
  let ftz := s.flag .VEC_MODE core 0
  let run := s.work core eng w env body
  let met := run.met ++ extra
  let s := run.st.logMod core eng seq fun e => { e with blocksIn := run.reads, blocksOut := run.writes }
  let idle := run.waits == [] && run.segs == [] && run.col.isNone && !run.stuck
  if idle && (s.q core eng).flight == [] then s.finish core eng w seq stream met
  else s.modQ core eng fun q =>
    { q with flight := q.flight ++
      [⟨w, seq, met, descs, run.waits, run.segs, run.img, run.col, run.due, run.stuck, idle, ftz⟩] }

/-- An update-pass instruction issues after a clean verdict: the step can no longer be replayed (R462). -/
def markUpdate (s : State) (core eng : Nat) (w : TWord) : State :=
  let p := s.partOf (clOfCore core)
  if (s.q core eng).upass && TW.opcode w != 5 && (s.part p).verdict == some false then
    s.modPart p fun x => { x with updated := true }
  else s

/-- Cycles in which the token waits of the Vector queue's head were not satisfied (R169). -/
def waitStall (s : State) (core eng n : Nat) : State := if eng = 2 then s.countSat .VEC_STALL_COUNT core n else s

/-- `STALE` of a head that was held for a refetch, where R225 lists it (R237). -/
def staleMet (restale : Bool) (w : TWord) : List Status := keepIf (restale && staleListed (TW.opcode w)) [Status.stale]

/-- A head whose token waits are not satisfied leaves its queue without issuing: the cycles it stalled, an open number, count
(R169; log entry 157). -/
def headDropped (s : State) (core eng : Nat) : State :=
  match s.headOf core eng with
  | some w => if eng = 2 && !s.waitsMet core eng w then
      let r := s.drawWord
      r.1.waitStall core eng r.2.toNat
    else s
  | none => s

/-- Issue the head `w` of a queue: its checks in the order of R223, then its work (R198, R222 to R224). -/
def issue (s : State) (core eng : Nat) (w : TWord) (env : Env) (body : Body) : State :=
  let a := s.srcOf core eng (TW.waitA w)
  let b := s.srcOf core eng (TW.waitB w)
  let stale := (s.q core eng).restale
  let s := (s.waitStall core eng env.stall).takeHead core eng w
  match s.refusal core eng w env.ext with
  | some st => s.refuse core eng w st
  | none =>
    let s := (s.markUpdate core eng w).logEnter core eng w a b
    s.carry core eng w (s.q core eng).seq.toNat env (staleMet stale w) body

/-- The row of one opcode: the head of the queue issues if it is of that opcode, or if it fails order 1 of R223; with no tag or miss
register free it stalls (R290). -/
def runHead (s : State) (core eng op : Nat) (env : Env) (body : Body) : State :=
  match s.headOf core eng with
  | none => s
  | some w =>
    if s.mayIssue core eng w && !(s.q core eng).waiting
        && (TW.opcode w == op || !(TW.opcodeOk w && TW.engine w == eng)) then
      if s.tagsOut core eng w then s.tagWait core eng env.hold else s.issue core eng w env body
    else s

end State

end Sys2Proof.Machine
end

