-- ==== Sys2Proof/Machine/Fabric.lean ====
section
/-!
DEFINITION. The fabric's transport and links as operations: routes, framing, flows, acknowledgements, and the answer
that ends a waiting instruction (13_fabric_collectives.md R344 to R361; 09 R246).
-/

namespace Sys2Proof.Machine

/-- One step of CRC-32C on a reflected register. -/
def crcBits : Nat → Nat → Nat
  | 0, c => c
  | n + 1, c => crcBits n (if c % 2 = 1 then (c / 2) ^^^ 0x82F63B78 else c / 2)

/-- CRC-32C of some bytes. -/
def crc32c (bs : List Byte) : Nat :=
  (bs.foldl (fun c b => crcBits 8 (c ^^^ b.toNat)) 0xFFFFFFFF) ^^^ 0xFFFFFFFF

/-- The class of a frame type: 0 request, 1 response (R346). -/
def frameClass (typ : Nat) : Nat := if typ = 2 ∨ typ = 5 ∨ typ = 6 then 1 else 0

/-- Fields of a Transport Header (R345, R346). -/
def hVer (h : BitVec 256) : Nat := bits h 31 28
def hType (h : BitVec 256) : Nat := bits h 27 24
def hAckV (h : BitVec 256) : Bool := bit h 23
def hNotify (h : BitVec 256) : Bool := bit h 22
def hEce (h : BitVec 256) : Bool := bit h 21
def hSdie (h : BitVec 256) : Nat := bits h 19 18
def hSrc (h : BitVec 256) : Nat := bits h 17 0
def hDdie (h : BitVec 256) : Nat := bits h 51 50
def hDst (h : BitVec 256) : Nat := bits h 49 32
def hSinc (h : BitVec 256) : Nat := bits h 95 80
def hDinc (h : BitVec 256) : Nat := bits h 79 64
def hPsn (h : BitVec 256) : Nat := bits h 127 96
def hApsn (h : BitVec 256) : Nat := bits h 159 128
/-- Operand words 5 to 7. -/
def hOp (h : BitVec 256) (hi lo : Nat) : Nat := bits h (160 + hi) (160 + lo)

/-- Payload bytes of a frame: the data in 4-byte units and one CRC for each 256 bytes (R345, R348). -/
def payloadBytes (data : List Byte) : Nat := 4 * ceilDiv data.length 4 + 4 * ceilDiv data.length 256

/-- Bytes of a Direct frame on the wire (R349). -/
def directBytes (data : List Byte) : Nat := 44 + payloadBytes data

/-- A flow's key. -/
def flowKey (die dev ddie : Nat) : Nat := die * 2 ^ 20 + dev * 4 + ddie
def keyDev (k : Nat) : Nat := k / 4 % 2 ^ 18
def keyDie (k : Nat) : Nat := k / 2 ^ 20
def keyDdie (k : Nat) : Nat := k % 4

/-- What a flight that has work left does when it has its last answer or segment: the new state, statuses met, and the frames
it then waits for. -/
abbrev Land := State → Nat → Nat → Flight → State × List Status × List (Nat × Nat)

namespace State

def setFab (s : State) (f : Fab) : State := { s with fab := f }
def modFab (s : State) (f : Fab → Fab) : State := { s with fab := f s.fab }
def port (s : State) (p : Nat) : Port := SMap.get Port.reset s.fab.ports p
def modPort (s : State) (p : Nat) (f : Port → Port) : State :=
  s.modFab fun x => { x with ports := SMap.set Port.reset x.ports p (f (SMap.get Port.reset x.ports p)) }
def flow (s : State) (k : Nat) : Flow := SMap.get Flow.reset s.fab.flows k
def modFlow (s : State) (k : Nat) (f : Flow → Flow) : State :=
  s.modFab fun x => { x with flows := SMap.set Flow.reset x.flows k (f (SMap.get Flow.reset x.flows k)) }

/-- This device's incarnation, in Stay register 1 (R344, R486). -/
def ownInc (s : State) : Nat := bits (SMap.get 0 (s.die 0).stay 1) 15 0

def ethernet (s : State) : Bool := s.flag .FAB_CTRL 0 31
def portUp (s : State) (p : Nat) : Bool := s.flag .FAB_PORT_STATUS p 31
def portsUp (s : State) : List Nat := (List.range 24).filter s.portUp

/-- Candidate output ports toward a device: from the Route Table, or in Ethernet framing the up ports of the sending
die, or all up ports when it has none (R350, R353). -/
def candidates (s : State) (die dst : Nat) : List Nat :=
  if s.ethernet then
    let own := s.portsUp.filter fun p => p / 6 == die
    if own = [] then s.portsUp else own
  else
    let e := SMap.get (0 : Word) s.fab.route dst
    if bit e 31 then s.portsUp.filter fun p => bit e p else []

/-- Has a peer been reported lost (R357, R361)? -/
def isLost (s : State) (dev : Nat) : Bool := s.fab.lost.any fun x => x.1 == dev

/-- Can a peer be reached (R246, R358)? -/
def reachable (s : State) (die dev : Nat) : Bool :=
  s.flag .FAB_DEVID 0 31 && !s.isLost dev && s.candidates die dev != []

/-- The path hash of R350. -/
def pathHash (src dst cls : Nat) : Nat := crc32c (Config.pathKey src dst cls)

/-- The output port of a frame (R350). -/
def pickPort (s : State) (die src dst cls : Nat) : Option Nat :=
  let cs := s.candidates die dst
  if cs = [] then none else cs[pathHash src dst cls % cs.length]?

/-! Links in Direct framing (R349 to R352). -/

/-- Credits of 256 bytes that an output virtual channel has. -/
def credit (s : State) (p vc : Nat) : Nat := SMap.get 256 (s.port p).credit vc

/-- Credits that a frame takes. -/
def frameCredits (data : List Byte) : Nat := ceilDiv (directBytes data) 256

/-- Do the far end's buffer and the window of 64 KiB take a frame now (R351, R352)? -/
def linkRoom (s : State) (p vc : Nat) (data : List Byte) : Bool :=
  let x := s.port p
  x.held == [] && decide (frameCredits data ≤ s.credit p vc)
    && decide ((x.tx.map fun g => directBytes g.data).sum + directBytes data ≤ 65536)

/-- An input buffer's place is free again: its credits go back to the sender (R351). -/
def creditBack (s : State) (b : Option (Nat × Nat × Nat)) : State :=
  match b with
  | some (q, vc, n) => if s.portUp q then s.emit (.control q 1 0 (vc % 4 * 1024 + n % 1024)) else s
  | none => s

/-- Put a frame on the wire when the far end has room for it; otherwise it waits, and so does the input buffer that it came
from. -/
def linkSend (s : State) (p : Nat) (f : LinkFrame) : State :=
  if s.linkRoom p f.vc f.data then
    let x := s.port p
    let g := { f with lseq := x.txSeq, back := none }
    ((s.modPort p fun x => { x with
        txSeq := (x.txSeq + 1) % 65536
        tx := x.tx ++ [g]
        credit := SMap.set 256 x.credit f.vc (s.credit p f.vc - frameCredits f.data) }).emit
      (.direct p f.vc f.ttl g.lseq f.hdr f.data false)).creditBack f.back
  else s.modPort p fun x => { x with held := x.held ++ [f] }

/-- Send what waits at a port, in order, as far as credits allow. -/
def linkRelease (s : State) (p : Nat) : State :=
  let waiting := (s.port p).held
  waiting.foldl (fun s f => s.linkSend p f) (s.modPort p fun x => { x with held := [] })

/-! Flows. -/

/-- The Transport Header of a frame on a flow (R345). -/
def header (s : State) (key typ psn : Nat) (ops : BitVec 96) (len : Nat) (notify ece : Bool) : BitVec 256 :=
  let f := s.flow key
  BitVec.ofNat 256 (
    2 ^ 28 + typ * 2 ^ 24 + 2 ^ 23 + (if notify then 2 ^ 22 else 0) + (if ece then 2 ^ 21 else 0)
    + keyDie key * 2 ^ 18 + s.devId
    + (len / 4 * 2 ^ 20 + keyDdie key * 2 ^ 18 + keyDev key) * 2 ^ 32
    + (s.ownInc * 2 ^ 16 + f.inc.getD 0) * 2 ^ 64 + psn % 2 ^ 32 * 2 ^ 96 + f.expect % 2 ^ 32 * 2 ^ 128
    + ops.toNat * 2 ^ 160)

/-- The IPv6 address of a device (R344). -/
def addrOf (s : State) (dev : Nat) : BitVec 128 :=
  (((s.rd .FAB_V6_PREFIX0 0 ++ s.rd .FAB_V6_PREFIX1 0) ++ s.rd .FAB_V6_PREFIX2 0) ++ BitVec.ofNat 32 dev).cast (by decide)

/-- A port's MAC addresses from its two registers. -/
def macOf (s : State) (lo hi : Reg) (p : Nat) : BitVec 48 := BitVec.ofNat 48 ((s.rd lo p).toNat + s.fld hi p 15 0 * 2 ^ 32)

/-- The head of an Ethernet frame to a device, by the hash of its path (R353). -/
def ethHead (s : State) (p dev cls h : Nat) : EthHead :=
  let e := s.rd .FAB_ETH 0
  { dmac := s.macOf .FAB_PORT_GW_LO .FAB_PORT_GW_HI p
    smac := s.macOf .FAB_PORT_MAC_LO .FAB_PORT_MAC_HI p
    pcp := if s.flag .FAB_PORT_CTRL p 30 then some (if cls = 0 then bits e 25 23 else bits e 22 20) else none
    dscp := bits e 31 26
    ecn := 2
    label := h % 2 ^ 20
    src := s.addrOf s.devId
    dst := s.addrOf dev
    sport := 0xC000 + h % 2 ^ 14
    dport := bits e 15 0 }

/-- Hand a frame to its port; a frame with no port is not sent, and resends follow (R350, R353). -/
def transmit (s : State) (key typ : Nat) (hdr : BitVec 256) (data : List Byte) : State :=
  let cls := frameClass typ
  match s.pickPort (keyDie key) s.devId (keyDev key) cls with
  | none => s
  | some p =>
    if s.ethernet then
      s.emit (.ether p (s.ethHead p (keyDev key) cls (pathHash s.devId (keyDev key) cls)) hdr data)
    else s.linkSend p { lseq := 0, vc := 2 * cls, ttl := 15, hdr := hdr, data := data, resends := 0 }

/-- Send a frame of a flow. -/
def sendFrame (s : State) (key : Nat) (f : TxFrame) : State :=
  s.transmit key f.typ (s.header key f.typ f.psn f.ops (payloadBytes f.data) f.notify false) f.data

/-- An ACK, which takes no PSN of its own; without a recorded incarnation it is a probe with `DINC` 0 (R355, R357). -/
def sendAck (s : State) (key : Nat) (ece : Bool) : State :=
  s.transmit key 5 (s.header key 5 (s.flow key).next 0 0 false ece) []

/-- A NACK of status FAULT_ADDRESS for a PSN (R356). -/
def sendNack (s : State) (key psn : Nat) : State :=
  s.transmit key 6 (s.header key 6 (s.flow key).next
    (BitVec.ofNat 96 (Status.faultAddress.num + psn % 2 ^ 32 * 2 ^ 32)) 0 false false) []

/-- Send the frames that waited for the window, or for the peer's incarnation, as far as they may go (R355, R357). -/
def openWindow (s : State) (key : Nat) : State :=
  let f := s.flow key
  if f.inc.isNone then s
  else
    let n := 256 - f.unacked.length
    let go := f.backlog.take n
    let s := s.modFlow key fun f => { f with unacked := f.unacked ++ go, backlog := f.backlog.drop n }
    go.foldl (fun s x => s.sendFrame key x) s

/-- Queue a frame on a flow, and its place: the flow and its PSN (R355, R357). -/
def queueFrame (s : State) (key typ : Nat) (ops : BitVec 96) (data : List Byte) (notify : Bool)
    (owner : Option (Nat × Nat × Nat)) : State × (Nat × Nat) :=
  let f := s.flow key
  let x : TxFrame := ⟨f.next, typ, ops, data, notify, owner⟩
  let s := s.modFlow key fun f => { f with next := f.next + 1, backlog := f.backlog ++ [x] }
  let s := if f.inc.isNone then s.sendAck key false else s
  (s.openWindow key, (key, x.psn))

/-! Answers to waiting instructions. -/

/-- Put a flight's new form in its place. -/
def setFlight (s : State) (core eng : Nat) (g : Flight) : State :=
  s.modQ core eng fun q => { q with flight := q.flight.map fun x => if x.seq = g.seq then g else x }

/-- A flight that waits for nothing more does the work it has left, and completes unless that work waits again. -/
def settle (s : State) (land : Land) (core eng : Nat) (f : Flight) : State :=
  if f.waits == [] && f.segs == [] && f.col.isNone && !f.stuck && !f.done then
    let r := if f.due then land s core eng f else (s, [], [])
    let g := { f with due := false, met := f.met ++ r.2.1, waits := r.2.2, done := r.2.2 == [] }
    (r.1.setFlight core eng g).drainAll core eng
  else s.setFlight core eng f

/-- A frame of an instruction is answered, with a status when the answer is a failure: the flight waits for one frame
less. -/
def answer (s : State) (land : Land) (owner : Nat × Nat × Nat) (fr : Nat × Nat) (st : Option Status) : State :=
  let (core, eng, seq) := owner
  match (s.q core eng).flight.find? fun f => f.seq == seq with
  | none => s
  | some f => (s.tagFreed core eng).settle land core eng { f with waits := f.waits.filter fun x => x != fr, met := f.met ++ st.toList }

/-- End a flight at once with a status, whatever it waits for (R358, R361). -/
def endFlight (s : State) (core eng seq : Nat) (st : Status) : State :=
  (s.modQ core eng fun q => { q with flight := q.flight.map fun f =>
    if f.seq = seq ∧ !f.done then { f with waits := [], segs := [], col := none, met := f.met ++ [st], done := true } else f }).drainAll
      core eng

/-- Every flight of the device: core, engine and flight. -/
def flights (s : State) : List (Nat × Nat × Flight) :=
  s.cores.flatMap fun c => c.2.q.flatMap fun q => q.2.flight.map fun f => (c.1, q.1, f)

/-- A cumulative acknowledgement: every frame below the PSN leaves the flow; its instruction is answered, but for a
READ_REQ, which its READ_DATA answers (R355, R356). -/
def ackUpTo (s : State) (land : Land) (key apsn : Nat) : State :=
  let done := (s.flow key).unacked.filter fun x => decide (x.psn < apsn)
  let s := s.modFlow key fun f => { f with unacked := f.unacked.filter fun x => !decide (x.psn < apsn) }
  let s := done.foldl (fun s x => match x.owner with
    | some o => if x.typ = 1 then s else s.answer land o (key, x.psn) none
    | none => s) s
  s.openWindow key

end State

end Sys2Proof.Machine
end

