-- ==== Sys2Proof/Machine/Shroud.lean ====
section
/-!
DEFINITION. Shroud flags: reading, updates from this die and from elsewhere, the wait-for graph, and how a WAITF ends
other than by its condition (09_ordering_tokens_barriers.md R242 to R252).
-/

namespace Sys2Proof.Machine

/-- Does a remote group name a die of a device (R247)? -/
def remoteNames (g : Word) (dev die : Nat) : Bool :=
  bit g 31 && bit g 30 && bits g 29 12 == dev && bits g 11 10 == die

namespace State

/-- A cluster flag of a cluster, or a die flag of its die. -/
def flagVal (s : State) (c : Nat) (dieFlag : Bool) (f : Nat) : Word :=
  if dieFlag then SMap.get 0 (s.die (dieOfCl c)).dflags f else SMap.get 0 (s.cluster c).flags f

def setFlagVal (s : State) (c : Nat) (dieFlag : Bool) (f : Nat) (v : Word) : State :=
  if dieFlag then s.modDie (dieOfCl c) fun d => { d with dflags := SMap.set 0 d.dflags f v }
  else s.modCluster c fun x => { x with flags := SMap.set 0 x.flags f v }

/-- Apply SETF's or ADDF's update to a flag (R243). -/
def updateFlag (s : State) (c : Nat) (dieFlag : Bool) (f : Nat) (add : Bool) (v : Word) : State :=
  s.setFlagVal c dieFlag f (if add then s.flagVal c dieFlag f + v else v)

/-- Clusters of a die whose `SHR_DFLAG_RANGE` holds a flag. -/
def rangeHolders (s : State) (die f : Nat) : List Nat :=
  ((List.range 8).map fun k => 8 * die + k).filter fun c => s.inDflagRange c f

/-- A remote update may be applied: some cluster's range holds the flag, and a registered flag names the source in a
remote group (R242, R248). -/
def remoteOk (s : State) (die f dev sdie : Nat) : Bool :=
  s.rangeHolders die f != []
  && (!s.registered (8 * die) true f || remoteNames (s.group (8 * die) true f 0) dev sdie
    || remoteNames (s.group (8 * die) true f 1) dev sdie)

/-- `SETTER_REFUSED` where R248 sets it. -/
def setterRefused (s : State) (die f : Nat) : State :=
  let cs := if s.rangeHolders die f = [] then (List.range 8).map fun k => 8 * die + k else s.rangeHolders die f
  cs.foldl (fun s c => s.setFlag .SHR_STATUS c 26) s

/-- An update from another die or device; the flag says that the target applied it (R242, R243, R248). -/
def remoteUpdate (s : State) (die f dev sdie : Nat) (add : Bool) (v : Word) : State × Bool :=
  if s.remoteOk die f dev sdie then (s.updateFlag (8 * die) true f add v, true)
  else (s.setterRefused die f, false)

/-! Waiting. -/

/-- The condition of a WAITF (R221, R245). -/
def waitHolds (s : State) (core : Nat) (w : TWord) : Bool :=
  let v := s.flagVal (clOfCore core) (bits w 84 83 == 1) (bits w 82 73)
  let x := BitVec.ofNat 32 (bits w 31 0)
  if bit w 52 then decide ((v - x).toNat < 2 ^ 31) else v == x

/-- Is the flag of a WAITF closed (R249)? -/
def flagClosed (s : State) (core : Nat) (w : TWord) : Bool :=
  let c := clOfCore core
  let d := bits w 84 83 == 1
  let f := bits w 82 73
  let remote := fun g : Word => bit g 31 && bit g 30
  s.registered c d f && !remote (s.group c d f 0) && !remote (s.group c d f 1)

/-- The WAITF at the head of a queue whose waits are satisfied, whose checks pass and whose condition is false. -/
def blockedWait (s : State) (core eng : Nat) : Option TWord :=
  match s.headOf core eng with
  | none => none
  | some w =>
    if TW.opcode w == 1 && s.waitsMet core eng w && (s.refusal core eng w []).isNone && !s.waitHolds core w
    then some w else none

/-- `SHR_STATUS.BLOCKED` (R254). -/
def blockedCount (s : State) (c : Nat) : Nat :=
  ((List.range 48).filter fun k => (s.blockedWait (8 * c + k / 6) (k % 6)).isSome).length

/-- A WAITF at the head of its queue completes with a status other than OK, changing no flag (R250 to R252). -/
def endWait (s : State) (core eng : Nat) (w : TWord) (st : Status) : State :=
  let a := s.srcOf core eng (TW.waitA w)
  let b := s.srcOf core eng (TW.waitB w)
  let s := (s.takeHead core eng w).logEnter core eng w a b
  s.finish core eng w (s.q core eng).seq.toNat false [st]

/-! The wait-for graph (R249). -/

/-- Queues of a die, as core and engine. -/
def queuesOf (die : Nat) : List (Nat × Nat) :=
  (List.range 64).flatMap fun k => (List.range 6).map fun e => (64 * die + k, e)

/-- Nodes of a die's graph: queue and WAITF. A queue that still runs an instruction is none. -/
def graphNodes (s : State) (die : Nat) : List (Nat × Nat × TWord) :=
  (queuesOf die).filterMap fun x => match s.blockedWait x.1 x.2 with
    | some w => if s.flagClosed x.1 w && (s.q x.1 x.2).flight == [] then some (x.1, x.2, w) else none
    | none => none

/-- Queues that the local groups of a node's flag name. -/
def graphEdges (s : State) (die : Nat) (n : Nat × Nat × TWord) : List (Nat × Nat) :=
  let c := clOfCore n.1
  let d := bits n.2.2 84 83 == 1
  let f := bits n.2.2 82 73
  (queuesOf die).filter fun x => groupNames (s.group c d f 0) c d x.1 x.2 || groupNames (s.group c d f 1) c d x.1 x.2

/-- Take away, round by round, every node with an edge to a queue outside the set: what stays is the union of all
sets with no edge leading out. -/
def closedSet (s : State) (die : Nat) : Nat → List (Nat × Nat × TWord) → List (Nat × Nat × TWord)
  | 0, ns => ns
  | k + 1, ns =>
    let keep := ns.filter fun n => (s.graphEdges die n).all fun e => ns.any fun m => m.1 == e.1 && m.2.1 == e.2
    if keep.length = ns.length then ns else s.closedSet die k keep

/-- The WAITFs that R249 proves dead on a die. -/
def deadWaits (s : State) (die : Nat) : List (Nat × Nat × TWord) :=
  let ns := s.graphNodes die
  s.closedSet die ns.length ns

/-- Does a flag have a remote group naming a device (R252)? -/
def fedBy (s : State) (core : Nat) (w : TWord) (dev : Nat) : Bool :=
  let c := clOfCore core
  let d := bits w 84 83 == 1
  let f := bits w 82 73
  let r := fun g : Word => bit g 31 && bit g 30 && bits g 29 12 == dev
  r (s.group c d f 0) || r (s.group c d f 1)

/-- A device is lost: the WAITF at the head of a queue, on a flag it feeds, completes with PEER_LOST (R252). -/
def waitPeerLost (s : State) (dev : Nat) (x : Nat × Nat) : State :=
  match s.blockedWait x.1 x.2 with
  | some w => if s.fedBy x.1 w dev then (s.endWait x.1 x.2 w .peerLost).setFlag .SHR_STATUS (clOfCore x.1) 28 else s
  | none => s

end State

end Sys2Proof.Machine
end

