-- ==== Sys2Proof/Machine/ExecArray.lean ====
section
/-!
DEFINITION. The array instructions FMM and BMM (04_forward_array.md R96 to R116; 05_backward_array.md R119 to R142),
with their checks, status registers and the capture of shadow samples (07 R180).
-/

namespace Sys2Proof.Machine

namespace State

/-- The first array instruction that names a sampled descriptor as its stream operand, without I, gives the sample its
rows of Y and its reference weight (R180). -/
def shadowCapture (s : State) (core idx : Nat) (hasI : Bool) (dy dw : Desc) (wtrans : Bool) : State :=
  match (s.core core).shadow with
  | none => s
  | some sh =>
    let wref := if Tile.fmt dw != 0 then some dw
      else if Tile.spV dw then some (s.desc core (Tile.sp dw)) else none
    match wref with
    | none => s
    | some wr =>
      if sh.desc == idx && sh.n.isNone && !hasI then
        let y := (List.range (min 8 (Tile.rows dy))).map fun i => (List.range (Tile.cols dy)).map fun j =>
          BitVec.ofNat 32 (Tile.code s.mem core dy i j)
        let sh' : Shadow := { sh with n := some (Tile.cols dy), y := y, wref := wr, wtrans := wtrans }
        s.modCore core fun c => { c with shadow := some sh' }
      else s

/-- An ARRAY_CHECK_PERSISTENT of a cluster: the second within the window drains it (R451). -/
def persistentCheck (s : State) (c : Nat) : State :=
  let now := (s.stepOf c).toNat
  let near := match SMap.get none s.recov.acp c with
    | some k => decide (now - k + (k - now) ≤ (s.rd .RES_FENCE_CTRL 0).toNat)
    | none => false
  let s := { s with recov := { s.recov with acp := SMap.set none s.recov.acp c (some now) } }
  if near then s.drainClusters (BitVec.ofNat 32 (2 ^ c)) else s

/-- Telltale posts of an array's checks (R109, R131). -/
def postChecks (s : State) (core eng : Nat) (r : ArrayRun) : State :=
  let d := dieOfCore core
  let n := r.errors - (if r.persistent then 1 else 0)
  let s := (List.range n).foldl (fun s _ => s.post d .detectedRecomputed (BitVec.ofNat 32 core) 0) s
  if r.persistent then
    (s.post d .arrayCheckPersistent (BitVec.ofNat 32 core) (BitVec.ofNat 32 eng)).persistentCheck (clOfCore core)
  else s

end State

/-- Statuses of an array run. -/
def ArrayRun.met (r : ArrayRun) : List Status := keepIf (r.errors ≠ 0 && !r.persistent) [Status.recomputed]

namespace State

/-- What both arrays do with a run: its entry names what it reads before Y is written, so that rows written over I take its
replay from it (R109, R442); then the rows that passed their checks are written. -/
def drainArray (s : State) (core eng : Nat) (w : TWord) (y : Desc) (r : ArrayRun) : State :=
  let s := s.logMod core eng (s.q core eng).seq.toNat fun e => { e with blocksIn := s.descBlocks core (s.usedIns core w) }
  (s.commitMem r.mem (Tile.physRanges core (if r.rows = Tile.rows y then y else Tile.withRows y r.rows))).1

end State

/-- FMM: Y = I + X × W with the Outlier Band (R96 to R109, R115, R116). -/
def bodyFmm : Body := fun s core eng w env =>
  let d := fun hi => s.desc core (dfield w hi)
  let x := d 84
  let wt := d 76
  let y := d 44
  let c := clOfCore core
  let e := Tile.reef wt
  let k := Tile.cols x
  let live := !Tile.empty y && k != 0
  let out := Tile.reefV wt && s.reefOut c e && bit w 35 && live
  let map := if out then s.omapWords core e (List.range (k / 64 + (if 8 ≤ k % 64 then 1 else 0))) else ([], false)
  let band := if out then some (⟨d 68, d 60, map.1⟩ : Band) else none
  let di := if bit w 36 then some (d 52) else none
  let p := if Tile.empty y then 0 else ceilDiv k 64
  let m := s.mem
  let r := runArray m core y p env.faults (fmmFound m core x wt band) (fmmEntry m core x wt band di)
  let s := (s.drainArray core eng w y r).modCore core fun c => { c with
    fwd := c.fwd.after y p (fmmCells m core x wt band) (fun q => (fmmCells m core x wt band q).checkCol) r (fmmHold m core x wt) }
  let s := s.countSat .FWD_CHECK_COUNT core r.errors
  let s := s.countWrap .FWD_PASS_COUNT core r.passes
  let s := s.countSat .FWD_STALL_COUNT core env.stall
  let s := s.flagIf (r.errors ≠ 0) .FWD_STATUS core 31
  let s := s.flagIf r.nonfinite .FWD_STATUS core 29
  let s := (s.flagIf r.persistent .FWD_STATUS core 30).flagIf r.persistent .FWD_STATUS core 3
  let s := s.postChecks core eng r
  let s := if r.persistent && r.rows == 0 then s else s.shadowCapture core (dfield w 84) (bit w 36) y wt false
  let run := s.ran core w s (r.met ++ keepIf map.2 [Status.faultAddress])
  { run with stuck := r.persistent }

/-- BMM: Y = I + op_A(A) × op_B(B) (R119 to R131, R135, R141, R142). With TA 1 in the B-stream it is the weight-gradient
product, whose non-finite result the overflow verdict finds (R76, R129, R136; log entry 106). -/
def bodyBmm : Body := fun s core eng w env =>
  let d := fun hi => s.desc core (dfield w hi)
  let a := d 84
  let b := d 76
  let y := d 60
  let ta := bit w 51
  let tb := bit w 50
  let di := if bit w 52 then some (d 68) else none
  let p := if Tile.empty y then 0 else ceilDiv (opCols a ta) 128
  let m := s.mem
  let r := runArray m core y p env.faults (bmmFound m core a b ta tb) (bmmEntry m core a b ta tb di)
  let fstream := !Tile.stream a
  let s := (s.drainArray core eng w y r).modCore core fun c => { c with
    bwd := c.bwd.after y p (bmmCells m core b tb) (fun q => SMap.ofFn 0 128 fun k => ((checkCell m core b tb q k).1 : Int)) r
      fun _ _ => 0 }
  let s := s.countSat .BWD_CHECK_COUNT core r.errors
  let s := s.countWrap .BWD_PASS_COUNT core r.passes
  let s := if fstream then s.countWrap .BWD_FPASS_COUNT core r.passes else s
  let s := s.countSat .BWD_STALL_COUNT core env.stall
  let s := s.flagIf (r.errors ≠ 0) .BWD_STATUS core 31
  let s := (s.flagIf r.nonfinite .BWD_STATUS core 29).gradNonfinite (clOfCore core) (r.nonfinite && ta && !fstream)
  let s := (s.flagIf r.persistent .BWD_STATUS core 30).flagIf r.persistent .BWD_STATUS core 3
  let s := s.postChecks core eng r
  let s := if (r.persistent && r.rows == 0) || ta then s else s.shadowCapture core (dfield w 84) (bit w 52) y b tb
  let run := s.ran core w s r.met
  { run with stuck := r.persistent }

def execFmm (core : CoreId) (env : Env) (s : State) : Host.Outcome State Fault Refusal :=
  .next (s.runHead core 0 0x10 env bodyFmm)

def execBmm (core : CoreId) (env : Env) (s : State) : Host.Outcome State Fault Refusal :=
  .next (s.runHead core 1 0x20 env bodyBmm)

end Sys2Proof.Machine
end

