-- ==== Sys2Proof/Machine/RegFile.lean ====
section
/-!
DEFINITION. Access to setup registers: the two copies of the select registers, who reaches which block in which state of
the device, and data windows whose selection advances (03 R94; 18 R485, R491; 21 R555 to R557).
-/

namespace Sys2Proof.Machine

/-- A Masthead's access (R556). -/
def fromMasthead : Req → Bool
  | .masthead _ => true
  | .host _ => false

/-- What a write leaves in a register by the access codes of its fields; reserved fields stay as they are (R7, R8). -/
def Reg.write (r : Reg) (old v : Word) : Word :=
  r.fields.foldl (fun w f =>
    match f.acc with
    | .rw => setBits w f.hi f.lo (bits v f.hi f.lo)
    | .w1c => setBits w f.hi f.lo (bits (w &&& ~~~v) f.hi f.lo)
    | .w1s => setBits w f.hi f.lo (bits (w ||| v) f.hi f.lo)
    | _ => w) old

namespace State

/-- Die of the acting primary Masthead (R467, R474). -/
def primary (s : State) : Nat := s.fld .MGT_STATUS 0 3 2

/-- Some Chanter context runs. -/
def anyRunning (s : State) : Bool := (List.range 32).any s.running

/-- A select register, in the requester's copy (R556). -/
def sel (s : State) (req : Req) (r : Reg) (i : Nat) : Word :=
  if fromMasthead req then SMap.get (r.resetAt i) s.regsM (r.key i) else s.rd r i

def setSel (s : State) (req : Req) (r : Reg) (i : Nat) (v : Word) : State :=
  if fromMasthead req then { s with regsM := SMap.set (r.resetAt i) s.regsM (r.key i) v } else s.wr r i v

/-- The device runs in Minimal Recovery Mode (R487, R491). -/
def inMrm (s : State) : Bool := bit (SMap.get 0 (s.die 0).stay 0) 23 && s.chip.start == .none

/-- Start complete (R483). -/
def isReady (s : State) : Bool := s.flag .HIF_STATUS 0 0

/-- A recovery above level 1 is asked for or runs, up to the end of its replay or rejoin (R465, R474). -/
def recovering (s : State) : Bool :=
  (s.recov.faults.any fun f => decide (2 ≤ f.level))
    || (decide (2 ≤ bits (s.record 12) 31 28) && decide (bits (s.record 12) 11 8 ≠ 0))

/-- Clusters that a fence, a fenced die or Minimal Recovery Mode holds in reset (R482, R491). -/
def clusterHeld (s : State) (c : Nat) : Bool :=
  s.inMrm || bit (s.rd .RES_FENCED 0) c || s.chip.fencedDies.getLsbD (dieOfCl c)

/-- Ports of a fenced die do not start, and none in Minimal Recovery Mode (R482, R483, R491). -/
def portHeld (s : State) (p : Nat) : Bool := s.inMrm || s.chip.fencedDies.getLsbD (p / 6)

/-- Functions that the device presents (R391, R396, R482, R491): PF0, and the virtual functions that `PCIECAP` lets it offer. -/
def fnPresent (s : State) (fn : Nat) : Bool :=
  decide (fn = 0) || (!s.inMrm && decide (s.chip.pcieCap / 256 % 2 = 1) && decide (fn ≤ s.chip.pcieCap / 512 % 8))

/-- The start has reached phase 7, from which BAR0 answers (R485): Moasozil or the recovery loop runs. -/
def served (s : State) : Bool := s.isReady || s.inMrm || s.chip.fw.isSome

/-- The die of a block's instance. -/
def blockDie (b : Block) (i : Nat) : Nat :=
  match b with
  | .COL => i
  | .MEM => i / 6
  | .CHN | .SHR | .KVP | .CVT => dieOfCl i
  | .FWD | .BWD | .VEC | .GTH | .XFR => dieOfCore i
  | _ => 0

/-- Does an access reach instance `i` of a block (R485, R491, R555, R557)? `off` is the offset in the block. -/
def reaches (s : State) (req : Req) (b : Block) (i off : Nat) : Bool :=
  let alive := match b with
    | .CHN | .SHR | .KVP | .CVT => !s.clusterHeld i
    | .FWD | .BWD | .VEC | .GTH | .XFR => !s.clusterHeld (clOfCore i)
    | .COL | .MEM => !s.inMrm && !s.chip.fencedDies.getLsbD (blockDie b i)
    | _ => true
  alive && match req with
    | .masthead d => if s.inMrm then decide (d.val = 0) else s.chip.fw.isSome && (s.die d).mast.running
    | .host fn =>
      let own := match b with
        | .FN => decide (fn.val = 0 ∨ i = fn.val)
        | .RP => decide (fn.val = 0) ||
            (decide (s.fld .HIF_FN_RINGS fn.val 7 0 ≤ i)
              && decide (i < s.fld .HIF_FN_RINGS fn.val 7 0 + s.fld .HIF_FN_RINGS fn.val 24 16))
        | _ => decide (fn.val = 0)
      let open_ := match b with
        | .HIF => s.served && (!s.inMrm || decide (off ≤ 0x0C))
        | .CKR => s.served
        | .FN | .RP => s.served && !s.inMrm
        | .MGT => s.isReady || (s.inMrm && decide (0x40 ≤ off))
        | _ => s.isReady && !s.inMrm
      own && open_ && s.fnPresent fn.val

/-- Some requester reaches instance `i` of a block: a Masthead, or the host through a function that the device presents. A
row that names no requester is such an access (R485, R491, R555, R557). -/
def reached (s : State) (b : Block) (i off : Nat) : Bool :=
  (List.finRange 8).any (fun fn => s.reaches (.host fn) b i off) || (List.finRange 4).any fun d => s.reaches (.masthead d) b i off

/-- A register-write row's effect, or nothing where the write is discarded (R555). -/
def atBlock (s : State) (b : Block) (i off : Nat) (f : State → State) : State := if s.reached b i off then f s else s

/-- A row of a function that the device does not present has no effect (R391, R396, R482, R491). -/
def atFn (s : State) (fn : Nat) (f : State → State) : State := if s.fnPresent fn then f s else s

/-- Advance the word field `[hi:lo]` of a select register modulo `n` when its `AINC` bit is set. -/
def advance (s : State) (req : Req) (r : Reg) (i ainc hi lo n step : Nat) : State :=
  let v := s.sel req r i
  if bit v ainc then s.setSel req r i (setBits v hi lo ((bits v hi lo + step) % n)) else s

end State

end Sys2Proof.Machine
end

