-- ==== Sys2Proof/Machine/Rv.lean ====
section
/-!
DEFINITION. The Chanter's processor: compressed expansion, the address map, CSRs, arithmetic, and one RV64IMAC
instruction with the broadcast-issue extension (10_chanter.md R257 to R276). The base instruction set is the RISC-V
standard's, PRESUMED (assumption 11).
-/

namespace Sys2Proof.Machine

namespace Rv

/-! Encoders, by which compressed instructions expand to 32-bit ones. -/

def encR (f7 rs2 rs1 f3 rd op : Nat) : Nat := f7 * 2 ^ 25 + rs2 * 2 ^ 20 + rs1 * 2 ^ 15 + f3 * 2 ^ 12 + rd * 2 ^ 7 + op
/-- I-type; `imm` as 12 bits. -/
def encI (imm rs1 f3 rd op : Nat) : Nat := imm % 4096 * 2 ^ 20 + rs1 * 2 ^ 15 + f3 * 2 ^ 12 + rd * 2 ^ 7 + op
def encS (imm rs2 rs1 f3 op : Nat) : Nat :=
  imm / 32 % 128 * 2 ^ 25 + rs2 * 2 ^ 20 + rs1 * 2 ^ 15 + f3 * 2 ^ 12 + imm % 32 * 2 ^ 7 + op
def encB (imm rs2 rs1 f3 : Nat) : Nat :=
  imm / 4096 % 2 * 2 ^ 31 + imm / 32 % 64 * 2 ^ 25 + rs2 * 2 ^ 20 + rs1 * 2 ^ 15 + f3 * 2 ^ 12
    + imm / 2 % 16 * 2 ^ 8 + imm / 2048 % 2 * 2 ^ 7 + 0x63
def encJ (imm rd : Nat) : Nat :=
  imm / 2 ^ 20 % 2 * 2 ^ 31 + imm / 2 % 1024 * 2 ^ 21 + imm / 2048 % 2 * 2 ^ 20 + imm / 4096 % 256 * 2 ^ 12
    + rd * 2 ^ 7 + 0x6F

/-- A compressed instruction as its 32-bit form; none when it is illegal or reserved. -/
def expand (h : BitVec 16) : Option Nat :=
  let b := fun hi lo => bits h hi lo
  let rd := b 11 7
  let rs2 := b 6 2
  let rd' := b 4 2 + 8
  let rs1' := b 9 7 + 8
  /- A 6-bit signed immediate as 12 and as 20 bits. -/
  let i6 := b 6 2 + b 12 12 * 0xFE0
  let u6 := b 6 2 + b 12 12 * 0xFFFE0
  let sh := b 6 2 + b 12 12 * 32
  let jImm := b 12 12 * 0x1FF800 + b 8 8 * 2 ^ 10 + b 10 9 * 2 ^ 8 + b 6 6 * 2 ^ 7 + b 7 7 * 2 ^ 6 + b 2 2 * 2 ^ 5
    + b 11 11 * 2 ^ 4 + b 5 3 * 2
  let bImm := b 12 12 * 0x1F00 + b 6 5 * 2 ^ 6 + b 2 2 * 2 ^ 5 + b 11 10 * 2 ^ 3 + b 4 3 * 2
  let wImm := b 12 10 * 8 + b 6 6 * 4 + b 5 5 * 64
  let dImm := b 12 10 * 8 + b 6 5 * 64
  match b 1 0, b 15 13 with
  | 0, 0 =>
    let imm := b 12 11 * 16 + b 10 7 * 64 + b 6 6 * 4 + b 5 5 * 8
    if imm = 0 then none else some (encI imm 2 0 rd' 0x13)
  | 0, 2 => some (encI wImm rs1' 2 rd' 0x03)
  | 0, 3 => some (encI dImm rs1' 3 rd' 0x03)
  | 0, 6 => some (encS wImm rd' rs1' 2 0x23)
  | 0, 7 => some (encS dImm rd' rs1' 3 0x23)
  | 1, 0 => some (encI i6 rd 0 rd 0x13)
  | 1, 1 => if rd = 0 then none else some (encI i6 rd 0 rd 0x1B)
  | 1, 2 => some (encI i6 0 0 rd 0x13)
  | 1, 3 =>
    if rd = 2 then
      let imm := b 12 12 * 0xE00 + b 6 6 * 16 + b 5 5 * 64 + b 4 3 * 128 + b 2 2 * 32
      if imm = 0 then none else some (encI imm 2 0 2 0x13)
    else if u6 = 0 then none
    else some (u6 * 2 ^ 12 + rd * 2 ^ 7 + 0x37)
  | 1, 4 =>
    match b 11 10 with
    | 0 => some (encI sh rs1' 5 rs1' 0x13)
    | 1 => some (encI (sh + 0x400) rs1' 5 rs1' 0x13)
    | 2 => some (encI i6 rs1' 7 rs1' 0x13)
    | _ =>
      match b 12 12, b 6 5 with
      | 0, 0 => some (encR 0x20 rd' rs1' 0 rs1' 0x33)
      | 0, 1 => some (encR 0 rd' rs1' 4 rs1' 0x33)
      | 0, 2 => some (encR 0 rd' rs1' 6 rs1' 0x33)
      | 0, 3 => some (encR 0 rd' rs1' 7 rs1' 0x33)
      | 1, 0 => some (encR 0x20 rd' rs1' 0 rs1' 0x3B)
      | 1, 1 => some (encR 0 rd' rs1' 0 rs1' 0x3B)
      | _, _ => none
  | 1, 5 => some (encJ jImm 0)
  | 1, 6 => some (encB bImm 0 rs1' 0)
  | 1, 7 => some (encB bImm 0 rs1' 1)
  | 2, 0 => some (encI sh rd 1 rd 0x13)
  | 2, 2 => if rd = 0 then none else some (encI (b 12 12 * 32 + b 6 4 * 4 + b 3 2 * 64) 2 2 rd 0x03)
  | 2, 3 => if rd = 0 then none else some (encI (b 12 12 * 32 + b 6 5 * 8 + b 4 2 * 64) 2 3 rd 0x03)
  | 2, 4 =>
    if b 12 12 = 0 then
      (if rs2 = 0 then (if rd = 0 then none else some (encI 0 rd 0 0 0x67)) else some (encR 0 rs2 0 0 rd 0x33))
    else if rs2 = 0 then (if rd = 0 then some 0x00100073 else some (encI 0 rd 0 1 0x67))
    else some (encR 0 rs2 rd 0 rd 0x33)
  | 2, 6 => some (encS (b 12 9 * 4 + b 8 7 * 64) rs2 2 2 0x23)
  | 2, 7 => some (encS (b 12 10 * 8 + b 9 7 * 64) rs2 2 3 0x23)
  | _, _ => none

/-! Arithmetic. -/

/-- Sign-extend the low 32 bits. -/
def sx32 (x : DWord) : DWord := (x.truncate 32).signExtend 64

/-- The integer operations of OP (`f7`, `f3`) on 64 bits; none for a reserved code. -/
def alu (f7 f3 : Nat) (a b : DWord) : Option DWord :=
  let sh := b.toNat % 64
  match f7, f3 with
  | 0, 0 => some (a + b)
  | 0x20, 0 => some (a - b)
  | 0, 1 => some (a <<< sh)
  | 0, 2 => some (if a.slt b then 1 else 0)
  | 0, 3 => some (if a.ult b then 1 else 0)
  | 0, 4 => some (a ^^^ b)
  | 0, 5 => some (a >>> sh)
  | 0x20, 5 => some (a.sshiftRight sh)
  | 0, 6 => some (a ||| b)
  | 0, 7 => some (a &&& b)
  | 1, 0 => some (a * b)
  | 1, 1 => some (BitVec.ofInt 64 (a.toInt * b.toInt / 2 ^ 64))
  | 1, 2 => some (BitVec.ofInt 64 (a.toInt * (b.toNat : Int) / 2 ^ 64))
  | 1, 3 => some (BitVec.ofNat 64 (a.toNat * b.toNat / 2 ^ 64))
  | 1, 4 => some (if b = 0 then BitVec.allOnes 64 else BitVec.ofInt 64 (a.toInt.tdiv b.toInt))
  | 1, 5 => some (if b = 0 then BitVec.allOnes 64 else BitVec.ofNat 64 (a.toNat / b.toNat))
  | 1, 6 => some (if b = 0 then a else BitVec.ofInt 64 (a.toInt.tmod b.toInt))
  | 1, 7 => some (if b = 0 then a else BitVec.ofNat 64 (a.toNat % b.toNat))
  | _, _ => none

/-- Those of OP-32 on 32 bits. -/
def alu32 (f7 f3 : Nat) (x y : DWord) : Option DWord :=
  let a : Word := x.truncate 32
  let b : Word := y.truncate 32
  let sh := y.toNat % 32
  let r : Option Word :=
    match f7, f3 with
    | 0, 0 => some (a + b)
    | 0x20, 0 => some (a - b)
    | 0, 1 => some (a <<< sh)
    | 0, 5 => some (a >>> sh)
    | 0x20, 5 => some (a.sshiftRight sh)
    | 1, 0 => some (a * b)
    | 1, 4 => some (if b = 0 then BitVec.allOnes 32 else BitVec.ofInt 32 (a.toInt.tdiv b.toInt))
    | 1, 5 => some (if b = 0 then BitVec.allOnes 32 else BitVec.ofNat 32 (a.toNat / b.toNat))
    | 1, 6 => some (if b = 0 then a else BitVec.ofInt 32 (a.toInt.tmod b.toInt))
    | 1, 7 => some (if b = 0 then a else BitVec.ofNat 32 (a.toNat % b.toNat))
    | _, _ => none
  r.map fun v => v.signExtend 64

/-- What an AMO stores, by funct5, on operands of its width. -/
def amoOp {n : Nat} (f5 : Nat) (old v : BitVec n) : Option (BitVec n) :=
  match f5 with
  | 0x01 => some v
  | 0x00 => some (old + v)
  | 0x04 => some (old ^^^ v)
  | 0x0C => some (old &&& v)
  | 0x08 => some (old ||| v)
  | 0x10 => some (if old.slt v then old else v)
  | 0x14 => some (if v.slt old then old else v)
  | 0x18 => some (if old.ult v then old else v)
  | 0x1C => some (if v.ult old then old else v)
  | _ => none

/-- Is a branch taken? None for a reserved funct3. -/
def branch (f3 : Nat) (a b : DWord) : Option Bool :=
  match f3 with
  | 0 => some (a == b)
  | 1 => some (a != b)
  | 4 => some (a.slt b)
  | 5 => some (!a.slt b)
  | 6 => some (a.ult b)
  | 7 => some (!a.ult b)
  | _ => none

/-! The address map (R258). -/

inductive Region where
  | slot | dm | setAlias | clrAlias | cmem
  deriving DecidableEq, Repr

/-- Region of an access of `n` bytes, and the offset in it. -/
def region (a n : Nat) : Option (Region × Nat) :=
  if a + n ≤ 0x20000 then some (.slot, a)
  else if 0x100000 ≤ a ∧ a + n ≤ 0x140000 then some (.dm, a - 0x100000)
  else if 0x140000 ≤ a ∧ a + n ≤ 0x180000 then some (.setAlias, a - 0x140000)
  else if 0x180000 ≤ a ∧ a + n ≤ 0x1C0000 then some (.clrAlias, a - 0x180000)
  else if 0x1000000 ≤ a ∧ a + n ≤ 0x2000000 then some (.cmem, a - 0x1000000)
  else none

/-- An exception: cause, another cause that the rules allow in its place (else the same), `mtval`, and whether the
architecture lets `mtval` be 0 instead (R274). -/
structure Trap where
  cause : Nat
  alt : Nat
  tval : DWord
  open_ : Bool
  deriving DecidableEq, Repr

def trap (cause : Nat) (tval : DWord) : Trap := ⟨cause, cause, tval, false⟩
def illegal (w : Nat) : Trap := ⟨2, 2, BitVec.ofNat 64 w, true⟩

/-- The exception of an access of `n` bytes at `a`, by its causes when it is misaligned (`mis`) and when it is outside its
place (`out`); where it is both, R258 and R260 leave open which comes. -/
def addrTrap (a n mis out : Nat) (outside : Bool) : Option Trap :=
  if a % n ≠ 0 then some ⟨mis, if outside then out else mis, BitVec.ofNat 64 a, false⟩
  else if outside then some (trap out (BitVec.ofNat 64 a))
  else none

/-- Fields of an instruction. -/
def rdOf (w : Nat) : Nat := w / 2 ^ 7 % 32
def rs1Of (w : Nat) : Nat := w / 2 ^ 15 % 32
def rs2Of (w : Nat) : Nat := w / 2 ^ 20 % 32
def f3Of (w : Nat) : Nat := w / 2 ^ 12 % 8
def f7Of (w : Nat) : Nat := w / 2 ^ 25 % 128
def opOf (w : Nat) : Nat := w % 128
def immI (w : Nat) : DWord := BitVec.ofInt 64 (sext 12 (w / 2 ^ 20))
def immS (w : Nat) : DWord := BitVec.ofInt 64 (sext 12 (w / 2 ^ 25 % 128 * 32 + w / 2 ^ 7 % 32))
def immB (w : Nat) : DWord :=
  BitVec.ofInt 64 (sext 13 (w / 2 ^ 31 % 2 * 4096 + w / 2 ^ 7 % 2 * 2048 + w / 2 ^ 25 % 64 * 32 + w / 2 ^ 8 % 16 * 2))
def immU (w : Nat) : DWord := BitVec.ofInt 64 (sext 32 (w / 4096 * 4096))
def immJ (w : Nat) : DWord :=
  BitVec.ofInt 64 (sext 21 (w / 2 ^ 31 % 2 * 2 ^ 20 + w / 2 ^ 12 % 256 * 2 ^ 12 + w / 2 ^ 20 % 2 * 2 ^ 11
    + w / 2 ^ 21 % 1024 * 2))

end Rv

/-- General register of a Chanter. -/
def Chanter.reg (h : Chanter) (r : Nat) : DWord := if r = 0 then 0 else SMap.get 0 h.x r
def Chanter.setReg (h : Chanter) (r : Nat) (v : DWord) : Chanter := if r = 0 then h else { h with x := SMap.set 0 h.x r v }
/-- The active Instruction Memory slot. -/
def Chanter.slot (h : Chanter) : Memory := if h.active then h.imB else h.imA

namespace State

/-! Interrupts (R273). -/

/-- `time` (R259). -/
def chnTime (s : State) (c : Nat) : DWord := (s.chn c).time

/-- `mip`: stored bits, the timer's level and the mailbox's level. -/
def chnMip (s : State) (c : Nat) : DWord :=
  let h := s.chn c
  let t : DWord := if h.tmtimecmp.toNat ≤ (s.chnTime c).toNat then 0x80#64 else 0
  let m : DWord := if s.rd .CHN_MBOX c = 0 then 0 else 0x20000#64
  h.mip ||| t ||| m

/-! CSRs (R257, R259, R276). -/

/-- `tident`. -/
def tident (s : State) (c : Nat) : DWord :=
  let h := s.chn c
  BitVec.ofNat 64 ((if h.armed then 2 ^ 17 else 0) + (if h.active then 2 ^ 16 else 0)
    + s.fld .CHN_CORE_EN c 7 0 * 2 ^ 8 + c)

/-- Value of a CSR; none when it does not exist. -/
def csrRead (s : State) (c n : Nat) : Option DWord :=
  let h := s.chn c
  if n = 0x300 then some h.mstatus
  else if n = 0x301 then some 0x8000000000801105#64
  else if n = 0x304 then some h.mie
  else if n = 0x305 then some h.mtvec
  else if n = 0x320 then some h.mcountinhibit
  else if 0x323 ≤ n ∧ n ≤ 0x33F then some 0
  else if n = 0x340 then some h.mscratch
  else if n = 0x341 then some h.mepc
  else if n = 0x342 then some h.mcause
  else if n = 0x343 then some h.mtval
  else if n = 0x344 then some (s.chnMip c)
  else if n = 0xB00 ∨ n = 0xC00 then some h.mcycle
  else if n = 0xB02 ∨ n = 0xC02 then some h.minstret
  else if 0xB03 ≤ n ∧ n ≤ 0xB1F then some 0
  else if n = 0xC01 then some (s.chnTime c)
  else if n = 0xF11 ∨ n = 0xF12 ∨ n = 0xF13 ∨ n = 0xF15 then some 0
  else if n = 0xF14 then some (BitVec.ofNat 64 c)
  else if n = 0x7C0 then some h.tmtimecmp
  else if n = 0x7C1 then some ((s.rd .CHN_MBOX c).setWidth 64)
  else if n = 0x7C2 then some ((s.rd .CHN_MBOX_OUT c).setWidth 64)
  else if n = 0xFC0 then some (s.tident c)
  else if n = 0xFC1 then some h.tdispcnt
  else if n = 0xFC2 then some h.tholdcnt
  else none

/-- Write a CSR that can be written. -/
def csrWrite (s : State) (c n : Nat) (v : DWord) : State :=
  let m := fun f => s.modChn c f
  if n = 0x300 then m fun h => { h with mstatus := (v &&& 0x88#64) ||| 0x1800#64 }
  else if n = 0x304 then m fun h => { h with mie := v &&& 0x1F0080#64 }
  else if n = 0x305 then m fun h => { h with mtvec := v &&& ~~~2#64 }
  else if n = 0x320 then m fun h => { h with mcountinhibit := v &&& 5#64 }
  else if n = 0x340 then m fun h => { h with mscratch := v }
  else if n = 0x341 then m fun h => { h with mepc := v &&& ~~~1#64 }
  else if n = 0x342 then m fun h => { h with mcause := v }
  else if n = 0x343 then m fun h => { h with mtval := v }
  else if n = 0x344 then m fun h => { h with mip := h.mip &&& v }
  else if n = 0xB00 then m fun h => { h with mcycle := v }
  else if n = 0xB02 then m fun h => { h with minstret := v }
  else if n = 0x7C0 then m fun h => { h with tmtimecmp := v }
  else if n = 0x7C1 then s.wr .CHN_MBOX c (s.rd .CHN_MBOX c &&& ~~~(v.truncate 32))
  else if n = 0x7C2 then s.wr .CHN_MBOX_OUT c (s.rd .CHN_MBOX_OUT c ||| v.truncate 32)
  else s

/-! Memory accesses (R258, R269, R270). -/

/-- Load `n` bytes as a number. -/
def chnLoad (s : State) (c a n : Nat) : Except Rv.Trap Nat :=
  match Rv.addrTrap a n 4 5 (Rv.region a n).isNone with
  | some t => .error t
  | none => match Rv.region a n with
    | none => .ok 0
    | some (.slot, o) => .ok (leNat ((s.chn c).slot.rdN o n))
    | some (.cmem, o) => .ok (leNat (s.mem.rdN (cmemBase c + o) n))
    | some (_, o) => .ok (leNat ((s.chn c).dm.rdN o n))

/-- Store `n` bytes: plainly, or through an alias, each byte OR the value or AND NOT the value. -/
def chnStore (s : State) (c a n v : Nat) : Except Rv.Trap State :=
  match Rv.addrTrap a n 6 7 (match Rv.region a n with
    | none | some (.slot, _) => true
    | some _ => false) with
  | some t => .error t
  | none =>
    let bs := natLe n v
    let put := fun o (f : Byte → Byte → Byte) => s.modChn c fun h =>
      { h with dm := h.dm.wrN o (List.zipWith f (h.dm.rdN o n) bs) }
    match Rv.region a n with
    | none | some (.slot, _) => .ok s
    | some (.dm, o) => .ok (put o fun _ b => b)
    | some (.setAlias, o) => .ok (put o fun x b => x ||| b)
    | some (.clrAlias, o) => .ok (put o fun x b => x &&& ~~~b)
    | some (.cmem, o) => .ok (s.store (cmemBase c + o) bs)

/-! Dispatch (R195, R232, R261). -/

/-- Place a word in the queue of one core, and count its post (R195, R232). -/
def enqueue (s : State) (core : Nat) (w : TWord) : State :=
  let s := s.modQ core (routeOf w) fun q => { q with items := q.items ++ [w] }
  match TW.post w with
  | none => s
  | some id => s.modTok core (TW.pcons w) id fun t =>
      { t with pend := t.pend + 1, pendOwn := t.pendOwn + (if TW.engine w = TW.pcons w then 1 else 0) }

/-- Core indices that a word selects. -/
def selected (w : TWord) : List Nat := (List.range 8).filter fun i => bit w (109 + i)

/-- Has every selected queue a free entry (R195)? -/
def hasRoom (s : State) (c : Nat) (w : TWord) : Bool :=
  (selected w).all fun i => decide ((s.q (8 * c + i) (routeOf w)).items.length < 64)

/-- Dispatch a word: it enters its queues and counts; a word with `LAST` takes an armed switch. The next pc is returned
(R195, R261, R268). -/
def dispatch (s : State) (c : Nat) (w : TWord) (next : DWord) : State × DWord :=
  let s := (selected w).foldl (fun s i => s.enqueue (8 * c + i) w) s
  let s := s.modChn c fun h => { h with tdispcnt := h.tdispcnt + 1 }
  if TW.last w && (s.chn c).armed then
    let s := s.modChn c fun h => { h with active := !h.active, armed := false, mip := setBit h.mip 18 }
    (s.setFlag .CHN_STATUS c 25, BitVec.ofNat 64 (s.fld .CHN_SLOT_CTRL c 16 2 * 4))
  else (s, next)

end State

/-- What one instruction of a Chanter did: it went on to a pc, trapped, or stalls. -/
inductive ChnRes where
  | next (s : State) (pc : DWord)
  | trap (s : State) (t : Rv.Trap)
  | stall (s : State)

namespace State

/-- Cores of a mask that `CHN_CORE_EN` disables (R265). -/
def disabledOf (s : State) (c mask : Nat) : Nat := mask - (mask &&& s.fld .CHN_CORE_EN c 7 0)

/-- TDISP and TDISPM with their word (R263, R265). -/
def execDispatch (s : State) (c : Nat) (w : TWord) (pc : DWord) (len : Nat) : ChnRes :=
  let off := s.disabledOf c (TW.coreMask w)
  if off ≠ 0 then .trap (s.setFlag .CHN_STATUS c 28) (Rv.trap 24 (BitVec.ofNat 64 off))
  else if s.hasRoom c w then
    let r := s.dispatch c w (pc + BitVec.ofNat 64 len)
    .next r.1 r.2
  else .stall (s.modChn c fun h => { h with held := some ⟨w, pc, len⟩ })

/-- The exception of an address of the broadcast unit, which reads `n` aligned bytes of Data Memory (R260). -/
def dmTrap (a n : Nat) : Option Rv.Trap :=
  Rv.addrTrap a n 4 5 (!(decide (0x100000 ≤ a) && decide (a + n ≤ 0x140000)))

/-- Instructions of a core's queues, dispatched and not issued, that name a descriptor (R199). -/
def namesDesc (s : State) (core i : Nat) : Bool :=
  (s.core core).q.any fun q => q.2.items.any fun w => (TW.ins w ++ TW.outs w).contains i

/-- TDESC in one core: the write, or its refusal, for an instruction that waits or for a full journal (R199, R264, R183, R441). -/
def tdescCore (s : State) (core i : Nat) (d : Desc) : State × Bool :=
  if s.namesDesc core i then (s, true)
  else if s.journalFull core i then (s.setFlag .RES_LOG_STATUS 0 29, true)
  else ((s.shadowRewritten core [i]).writeDesc core i d, false)

/-- TDESC (R264, R265); of a bad source address and a mask that names a disabled core the address comes first, the model's
choice (log entry 133). -/
def execTdesc (s : State) (c a v rd : Nat) (next : DWord) : ChnRes :=
  let mask := v / 256
  match dmTrap a 32 with
  | some t => .trap s t
  | none =>
    let off := s.disabledOf c mask
    if off ≠ 0 then .trap (s.setFlag .CHN_STATUS c 28) (Rv.trap 24 (BitVec.ofNat 64 off))
    else
      let d : Desc := BitVec.ofNat 256 (leNat ((s.chn c).dm.rdN (a - 0x100000) 32))
      let r := ((List.range 8).filter fun i => mask / 2 ^ i % 2 == 1).foldl (fun (x : State × Nat) i =>
        let y := x.1.tdescCore (8 * c + i) (v % 256) d
        (y.1, if y.2 then x.2 + 2 ^ i else x.2)) (s, 0)
      let s := if r.2 = 0 then r.1 else r.1.setFlag .CHN_STATUS c 30
      .next (s.modChn c fun h => h.setReg rd (BitVec.ofNat 64 r.2)) next

/-- Have the named queues nothing left that this Chanter dispatched (R260)? Disabled cores are ignored (R265). -/
def drained (s : State) (c v : Nat) : Bool :=
  (List.range 8).all fun i => (List.range 6).all fun e =>
    !(v / 2 ^ i % 2 == 1 && v / 2 ^ (8 + e) % 2 == 1 && s.flag .CHN_CORE_EN c i)
      || ((s.q (8 * c + i) e).items == [] && (s.q (8 * c + i) e).flight == [])

/-- The broadcast-issue extension (R260). -/
def execCustom (s : State) (c w : Nat) (pc : DWord) (len : Nat) : ChnRes :=
  let h := s.chn c
  let a := h.reg (Rv.rs1Of w)
  let b := h.reg (Rv.rs2Of w)
  let bad := ChnRes.trap s (Rv.illegal w)
  let next := pc + BitVec.ofNat 64 len
  match Rv.f3Of w with
  | 0 => if Rv.f7Of w ≠ 0 ∨ Rv.rdOf w ≠ 0 then bad else s.execDispatch c (BitVec.ofNat 128 (a.toNat + b.toNat * 2 ^ 64)) pc len
  | 1 =>
    if Rv.rdOf w ≠ 0 then bad
    else
      let x := (a + Rv.immI w).toNat
      match dmTrap x 16 with
      | some t => .trap s t
      | none => s.execDispatch c (BitVec.ofNat 128 (leNat (h.dm.rdN (x - 0x100000) 16))) pc len
  | 2 => if Rv.f7Of w ≠ 0 ∨ 65536 ≤ b.toNat then bad else s.execTdesc c a.toNat b.toNat (Rv.rdOf w) next
  | 3 =>
    if Rv.f7Of w ≠ 0 ∨ Rv.rdOf w ≠ 0 ∨ Rv.rs2Of w ≠ 0 ∨ 16384 ≤ a.toNat then bad
    else if s.drained c a.toNat then .next s next else .stall s
  | _ => bad

/-! CSR instructions. -/

def execCsr (s : State) (c w : Nat) (next : DWord) : ChnRes :=
  let h := s.chn c
  let n := w / 2 ^ 20 % 4096
  let f3 := Rv.f3Of w
  let src := Rv.rs1Of w
  let v := if 4 ≤ f3 then BitVec.ofNat 64 src else h.reg src
  let writes := f3 % 4 == 1 || src != 0
  match s.csrRead c n with
  | none => .trap s (Rv.illegal w)
  | some old =>
    if writes && n / 1024 == 3 then .trap s (Rv.illegal w)
    else
      let new := match f3 % 4 with
        | 1 => v
        | 2 => old ||| v
        | _ => old &&& ~~~v
      let s := if writes then s.csrWrite c n new else s
      .next (s.modChn c fun h => h.setReg (Rv.rdOf w) old) next

/-! Atomics (R258, R271). -/

def execAmo (s : State) (c w : Nat) (next : DWord) : ChnRes :=
  let h := s.chn c
  let n := if Rv.f3Of w = 2 then 4 else 8
  let f5 := Rv.f7Of w / 4
  let a := (h.reg (Rv.rs1Of w)).toNat
  let v := h.reg (Rv.rs2Of w)
  let lr := f5 == 2
  let ext := fun (x : Nat) => if n = 4 then Rv.sx32 (BitVec.ofNat 64 x) else BitVec.ofNat 64 x
  if !(Rv.f3Of w == 2 || Rv.f3Of w == 3) || (lr && Rv.rs2Of w != 0) then .trap s (Rv.illegal w)
  else if !(f5 == 2 || f5 == 3 || (Rv.amoOp f5 (0 : Word) 0).isSome) then .trap s (Rv.illegal w)
  else match Rv.addrTrap a n (if lr then 4 else 6) (if lr then 5 else 7) (match Rv.region a n with
    | some (.dm, _) => false
    | _ => true) with
  | some t => .trap s t
  | none => match Rv.region a n with
    | some (.dm, o) =>
      let old := leNat (h.dm.rdN o n)
      if lr then
        .next (s.modChn c fun h => { h with resv := some (a, n) }.setReg (Rv.rdOf w) (ext old)) next
      else if f5 = 3 then
        let ok := h.resv == some (a, n)
        .next (s.modChn c fun h =>
          let h := if ok then { h with dm := h.dm.wrN o (natLe n v.toNat) } else h
          { h with resv := none }.setReg (Rv.rdOf w) (if ok then 0 else 1)) next
      else
        let new := if n = 4 then ((Rv.amoOp f5 (BitVec.ofNat 32 old) (v.truncate 32)).map (·.toNat)).getD 0
          else ((Rv.amoOp f5 (BitVec.ofNat 64 old) v).map (·.toNat)).getD 0
        .next (s.modChn c fun h => { h with dm := h.dm.wrN o (natLe n new) }.setReg (Rv.rdOf w) (ext old)) next
    | _ => .next s next

/-- A load, by funct3; none for a reserved one. -/
def loadOf (f3 : Nat) : Option (Nat × Bool) :=
  match f3 with
  | 0 => some (1, true)
  | 1 => some (2, true)
  | 2 => some (4, true)
  | 3 => some (8, true)
  | 4 => some (1, false)
  | 5 => some (2, false)
  | 6 => some (4, false)
  | _ => none

/-- Does any enabled interrupt pend? -/
def chnPending (s : State) (c : Nat) : Bool := s.chnMip c &&& (s.chn c).mie != 0

/-- SYSTEM without a CSR: ECALL, EBREAK, MRET and WFI. -/
def execSystem (s : State) (c w : Nat) (pc next : DWord) : ChnRes :=
  if w = 0x00000073 then .trap s (Rv.trap 11 0)
  else if w = 0x00100073 then .trap s ⟨3, 3, pc, true⟩
  else if w = 0x30200073 then
    let h := s.chn c
    let st := (h.mstatus &&& ~~~8#64) ||| (if bit h.mstatus 7 then 8#64 else 0) ||| 0x80#64
    .next (s.modChn c fun h => { h with mstatus := st }) h.mepc
  else if w = 0x10500073 then
    .next (if s.chnPending c then s else s.modChn c fun h => { h with wfi := true }) next
  else .trap s (Rv.illegal w)

/-- One 32-bit instruction, or the 32-bit form of a compressed one, at `pc`. -/
def execRv (s : State) (c w : Nat) (pc : DWord) (len : Nat) : ChnRes :=
  let h := s.chn c
  let rd := Rv.rdOf w
  let a := h.reg (Rv.rs1Of w)
  let b := h.reg (Rv.rs2Of w)
  let f3 := Rv.f3Of w
  let f7 := Rv.f7Of w
  let next := pc + BitVec.ofNat 64 len
  let set := fun (v : DWord) => ChnRes.next (s.modChn c fun h => h.setReg rd v) next
  let opt := fun (v : Option DWord) => match v with
    | some x => set x
    | none => ChnRes.trap s (Rv.illegal w)
  match Rv.opOf w with
  | 0x37 => set (Rv.immU w)
  | 0x17 => set (pc + Rv.immU w)
  | 0x6F => .next (s.modChn c fun h => h.setReg rd next) (pc + Rv.immJ w)
  | 0x67 => if f3 ≠ 0 then .trap s (Rv.illegal w)
      else .next (s.modChn c fun h => h.setReg rd next) ((a + Rv.immI w) &&& ~~~1#64)
  | 0x63 => match Rv.branch f3 a b with
      | none => .trap s (Rv.illegal w)
      | some t => .next s (if t then pc + Rv.immB w else next)
  | 0x03 => match loadOf f3 with
      | none => .trap s (Rv.illegal w)
      | some (n, sg) => match s.chnLoad c (a + Rv.immI w).toNat n with
          | .error t => .trap s t
          | .ok v => set (if sg then BitVec.ofInt 64 (sext (8 * n) v) else BitVec.ofNat 64 v)
  | 0x23 => if 4 ≤ f3 then .trap s (Rv.illegal w)
      else match s.chnStore c (a + Rv.immS w).toNat (2 ^ f3) b.toNat with
        | .error t => .trap s t
        | .ok s => .next s next
  | 0x13 =>
    let imm := Rv.immI w
    match f3 with
    | 1 => if f7 / 2 = 0 then opt (Rv.alu 0 1 a (BitVec.ofNat 64 (w / 2 ^ 20 % 64))) else .trap s (Rv.illegal w)
    | 5 => if f7 / 2 = 0 then opt (Rv.alu 0 5 a (BitVec.ofNat 64 (w / 2 ^ 20 % 64)))
        else if f7 / 2 = 0x10 then opt (Rv.alu 0x20 5 a (BitVec.ofNat 64 (w / 2 ^ 20 % 64)))
        else .trap s (Rv.illegal w)
    | _ => opt (Rv.alu 0 f3 a imm)
  | 0x1B =>
    match f3 with
    | 0 => opt (Rv.alu32 0 0 a (Rv.immI w))
    | 1 => if f7 = 0 then opt (Rv.alu32 0 1 a (BitVec.ofNat 64 (Rv.rs2Of w))) else .trap s (Rv.illegal w)
    | 5 => if f7 = 0 ∨ f7 = 0x20 then opt (Rv.alu32 f7 5 a (BitVec.ofNat 64 (Rv.rs2Of w))) else .trap s (Rv.illegal w)
    | _ => .trap s (Rv.illegal w)
  | 0x33 => opt (Rv.alu f7 f3 a b)
  | 0x3B => opt (Rv.alu32 f7 f3 a b)
  | 0x0F => if f3 ≤ 1 then .next s next else .trap s (Rv.illegal w)
  | 0x2F => s.execAmo c w next
  | 0x73 => if f3 = 0 then s.execSystem c w pc next
      else if f3 = 4 then .trap s (Rv.illegal w)
      else s.execCsr c w next
  | 0x0B => s.execCustom c w pc len
  | _ => .trap s (Rv.illegal w)

/-- Fetch at the pc: the instruction's 32-bit form, its length, and its own bits (R258). -/
def chnFetch (s : State) (c : Nat) : Except Rv.Trap (Nat × Nat) :=
  let h := s.chn c
  let p := h.pc.toNat
  if 0x20000 < p + 2 then .error (Rv.trap 1 h.pc)
  else
    let lo : BitVec 16 := BitVec.ofNat 16 (leNat (h.slot.rdN p 2))
    if bits lo 1 0 ≠ 3 then
      match Rv.expand lo with
      | some w => .ok (w, 2)
      | none => .error (Rv.illegal lo.toNat)
    else if 0x20000 < p + 4 then .error (Rv.trap 1 (h.pc + 2))
    else .ok (leNat (h.slot.rdN p 4), 4)

/-- An exception is taken (R274): the pc and cause are saved, interrupts go off, and a reservation is lost (R271). -/
def chnTrap (s : State) (c : Nat) (t : Rv.Trap) : State :=
  let r := if t.open_ || t.alt != t.cause then s.drawWord else (s, 1#32)
  r.1.modChn c fun h =>
    { h with
      mepc := h.pc
      mcause := BitVec.ofNat 64 (if bit r.2 0 then t.cause else t.alt)
      mtval := if bit r.2 0 || !t.open_ then t.tval else 0
      mstatus := (if bit h.mstatus 3 then 0x80#64 else 0) ||| 0x1800#64
      pc := h.mtvec &&& ~~~3#64
      resv := none }

/-- A 64-bit counter rises by `n` and holds its largest value (R6). -/
def count64 (x : DWord) (n : Nat) : DWord := BitVec.ofNat 64 (satAdd 64 x.toNat n)

/-- An instruction retires at the pc it leads to; `minstret` counts it unless it wrote the counter itself (R6, R259). -/
def chnRetire (s : State) (c : Nat) (pc : DWord) (wroteInstret : Bool) : State :=
  s.modChn c fun h =>
    { h with pc := pc, minstret := if bit h.mcountinhibit 2 || wroteInstret then h.minstret else count64 h.minstret 1 }

/-- The Chanter's own counts advance by CHN cycles and AON cycles (R6, R259). -/
def chnTick (s : State) (c cycles aon : Nat) : State :=
  s.modChn c fun h => { h with
    time := count64 h.time aon
    mcycle := if bit h.mcountinhibit 0 then h.mcycle else count64 h.mcycle cycles }

end State

/-- The kinds of instruction that have a row of their own. -/
inductive ChnKind where
  | base | tdisp | tdispm | tdesc | tdrain | bitSet | bitClear | amo | mboxClear | mboxOut
  deriving DecidableEq, Repr

namespace State

/-- The kind of the instruction at a Chanter's pc. -/
def chnKind (s : State) (c : Nat) : ChnKind :=
  match s.chnFetch c with
  | .error _ => .base
  | .ok (w, _) =>
    let h := s.chn c
    match Rv.opOf w with
    | 0x0B => match Rv.f3Of w with
        | 0 => .tdisp
        | 1 => .tdispm
        | 2 => .tdesc
        | 3 => .tdrain
        | _ => .base
    | 0x23 => match Rv.region (h.reg (Rv.rs1Of w) + Rv.immS w).toNat 1 with
        | some (.setAlias, _) => .bitSet
        | some (.clrAlias, _) => .bitClear
        | _ => .base
    | 0x2F => .amo
    | 0x73 =>
      let n := w / 2 ^ 20 % 4096
      let writes := Rv.f3Of w % 4 == 1 || Rv.rs1Of w != 0
      if Rv.f3Of w % 4 ≠ 0 ∧ writes = true ∧ n = 0x7C1 then .mboxClear
      else if Rv.f3Of w % 4 ≠ 0 ∧ writes = true ∧ n = 0x7C2 then .mboxOut
      else .base
    | _ => .base

/-- Did an instruction write `minstret` itself? -/
def writesInstret (w : Nat) : Bool :=
  Rv.opOf w == 0x73 && Rv.f3Of w % 4 != 0 && w / 2 ^ 20 % 4096 == 0xB02 && (Rv.f3Of w % 4 == 1 || Rv.rs1Of w != 0)

/-- Execute the instruction at the pc. -/
def chnRun1 (s : State) (c : Nat) : State :=
  match s.chnFetch c with
  | .error t => s.chnTrap c t
  | .ok (w, len) =>
    match s.execRv c w (s.chn c).pc len with
    | .next s pc => s.chnRetire c pc (writesInstret w)
    | .trap s t => s.chnTrap c t
    | .stall s => s

/-- The Chanter runs, is not stalled on a held dispatch nor in WFI, and the instruction at its pc is of a kind. -/
def chnReady (s : State) (c : Nat) (k : ChnKind) : Bool :=
  s.running c && (s.chn c).held.isNone && (!(s.chn c).wfi || s.chnPending c) && s.chnKind c == k

/-- The state in which the instruction at the pc executes: its cycles have passed, and a WFI is over. -/
def chnClock (s : State) (c cycles aon : Nat) : State := (s.chnTick c cycles aon).modChn c fun h => { h with wfi := false }

/-- The row of one kind of instruction: the Chanter executes the instruction at its pc. -/
def chnRow (s : State) (c : Nat) (k : ChnKind) (cycles aon : Nat) : State :=
  if s.chnReady c k then (s.chnClock c cycles aon).chnRun1 c else s

end State
end Sys2Proof.Machine
end

