-- ==== Sys2Proof/Machine/ExecChanter.lean ====
section
/-!
DEFINITION. The Chanter's rows: its instructions by kind, its interrupts and mailboxes, context start, slots and the
loader (10_chanter.md R257 to R281). `cycles` and `aon` are the CHN cycles and AON cycles that pass (R259).
-/

namespace Sys2Proof.Machine

def execChanterBaseInstr (c : ClId) (cycles aon : Nat) (s : State) : Host.Outcome State Fault Refusal :=
  .next (s.chnRow c .base cycles aon)
def execTdisp (c : ClId) (cycles aon : Nat) (s : State) : Host.Outcome State Fault Refusal :=
  .next (s.chnRow c .tdisp cycles aon)
def execTdispm (c : ClId) (cycles aon : Nat) (s : State) : Host.Outcome State Fault Refusal :=
  .next (s.chnRow c .tdispm cycles aon)
def execTdesc (c : ClId) (cycles aon : Nat) (s : State) : Host.Outcome State Fault Refusal :=
  .next (s.chnRow c .tdesc cycles aon)
def execTdrain (c : ClId) (cycles aon : Nat) (s : State) : Host.Outcome State Fault Refusal :=
  .next (s.chnRow c .tdrain cycles aon)
def execDmBitSetStore (c : ClId) (cycles aon : Nat) (s : State) : Host.Outcome State Fault Refusal :=
  .next (s.chnRow c .bitSet cycles aon)
def execDmBitClearStore (c : ClId) (cycles aon : Nat) (s : State) : Host.Outcome State Fault Refusal :=
  .next (s.chnRow c .bitClear cycles aon)
def execDmAmo (c : ClId) (cycles aon : Nat) (s : State) : Host.Outcome State Fault Refusal :=
  .next (s.chnRow c .amo cycles aon)
def execTmboxClear (c : ClId) (cycles aon : Nat) (s : State) : Host.Outcome State Fault Refusal :=
  .next (s.chnRow c .mboxClear cycles aon)

/-- A write of `tmbout` also raises a mailbox event to the Masthead (R276). -/
def tmboutWrite (s : State) (c cycles aon : Nat) : State :=
  if s.chnReady c .mboxOut then (s.chnRow c .mboxOut cycles aon).emit (.mailbox c) else s

def execTmboutWrite (c : ClId) (cycles aon : Nat) (s : State) : Host.Outcome State Fault Refusal :=
  .next (tmboutWrite s c cycles aon)

/-- A held dispatch goes out when every selected queue has a free entry (R195, R263). -/
def dispatchHeldRelease (s : State) (c cycles aon : Nat) : State :=
  match (s.chn c).held with
  | none => s
  | some d =>
    if s.running c && s.hasRoom c d.word then
      let s := (s.chnTick c cycles aon).countHold c cycles
      let s := s.modChn c fun h => { h with held := none }
      let r := s.dispatch c d.word (d.pc + BitVec.ofNat 64 d.len)
      r.1.chnRetire c r.2 false
    else s

def execDispatchHeldRelease (c : ClId) (cycles aon : Nat) (s : State) : Host.Outcome State Fault Refusal :=
  .next (dispatchHeldRelease s c cycles aon)

/-- `time` reaches `tmtimecmp`: the timer interrupt, a level, is pending (R273). -/
def chanterTimer (s : State) (c : Nat) : State :=
  let h := s.chn c
  if (s.chnTime c).toNat < h.tmtimecmp.toNat then s.modChn c fun h => { h with time := h.tmtimecmp } else s

def execChanterTimer (c : ClId) (s : State) : Host.Outcome State Fault Refusal := .next (chanterTimer s c)

/-- The highest pending and enabled interrupt (R273). -/
def topInterrupt (s : State) (c : Nat) : Option Nat :=
  let p := s.chnMip c &&& (s.chn c).mie
  [20, 19, 18, 17, 16, 7].find? fun b => bit p b

/-- An interrupt is taken: a held dispatch is abandoned, and `mepc` points at it (R263, R271, R273). -/
def chanterInterruptTaken (s : State) (c cycles aon : Nat) : State :=
  match topInterrupt s c with
  | none => s
  | some b =>
    let h := s.chn c
    if s.running c && bit h.mstatus 3 then
      let s := s.chnTick c cycles aon
      let s := if h.held.isSome then s.countHold c cycles else s
      s.modChn c fun h =>
        { h with
          held := none
          wfi := false
          resv := none
          mepc := h.pc
          mcause := BitVec.ofNat 64 (2 ^ 63 + b)
          mtval := 0
          mstatus := 0x1880#64
          pc := (h.mtvec &&& ~~~3#64) + (if bit h.mtvec 0 then BitVec.ofNat 64 (4 * b) else 0) }
    else s

def execChanterInterruptTaken (c : ClId) (cycles aon : Nat) (s : State) : Host.Outcome State Fault Refusal :=
  .next (chanterInterruptTaken s c cycles aon)

/-- The Masthead sets doorbell bits (R280, R281). -/
def chnMboxSet (s : State) (c : Nat) (v : Word) : State := s.wr .CHN_MBOX c (s.rd .CHN_MBOX c ||| v)

def execChnMboxSet (c : ClId) (v : Word) (s : State) : Host.Outcome State Fault Refusal := .next (s.atBlock .CHN c 0 fun s => chnMboxSet s c v)

/-! Context start (R272, R238, R227, R179). -/

/-- Entry of the active slot. -/
def entryPc (s : State) (c : Nat) : DWord := BitVec.ofNat 64 (s.fld .CHN_SLOT_CTRL c 16 2 * 4)

/-- What a context start does to one core: tokens, sequence numbers and the shadow count begin again. -/
def startCore (s : State) (core : Nat) : State :=
  let rate := s.fld .TTL_SHADOW_CTRL 0 3 0
  s.modCore core fun k => { k with
    tok := []
    cand := core % 2 ^ (rate + 4)
    q := SMap.mapVals EngQ.reset (fun _ q => { q with seq := 0, upass := false, log := [] }) k.q }

/-- Moasozil loads `VEC_MODE` of a cluster's cores from the image of the job (R148). -/
def loadVecMode (s : State) (c : Nat) : State :=
  match (s.part (s.partOf c)).job with
  | some j => (List.range 8).foldl (fun s i => s.wr .VEC_MODE (8 * c + i) (Reg.write .VEC_MODE (s.rd .VEC_MODE (8 * c + i)) j.vecMode)) s
  | none => s

/-- Context start of a cluster (R272). `CHN_MBOX` keeps its bits, so MBOX stays pending while it is not zero, the model's choice
(R273; log entry 154). -/
def startContext (s : State) (c : Nat) : State :=
  let s := loadVecMode (s.setFlag .CHN_CTRL c 0) c
  let pc := entryPc s c
  let s := s.modChn c fun h => { h with
    x := [], pc := pc, mstatus := h.mstatus &&& ~~~8#64, mip := 0, tdispcnt := 0, resv := none, wfi := false, held := none }
  let s := s.modKv c fun k => { k with gen := 0 }
  (List.range 8).foldl (fun s i => startCore s (8 * c + i)) s

/-- A write of `RUN`: a start, which a load under way into the active slot delays, or a halt, which abandons a held
dispatch (R266, R272). -/
def chnRun (s : State) (c : Nat) (run : Bool) : State :=
  if run then
    if s.running c then s
    else match (s.chn c).ld with
      | some l =>
        if l.target ≤ 1 ∧ !l.out ∧ decide (l.target = 1) = (s.chn c).active then
          s.modChn c fun h => { h with ld := some { l with startAfter := true } }
        else startContext s c
      | none => startContext s c
  else
    let s := (s.endHold c).modChn c fun h => { h with held := none, ld := h.ld.map fun l => { l with startAfter := false } }
    s.clrFlag .CHN_CTRL c 0

def execChnRun (c : ClId) (run : Bool) (s : State) : Host.Outcome State Fault Refusal :=
  .next (s.atBlock .CHN c 0 fun s => chnRun s c run)

/-! Slots (R266 to R268, R277). -/

/-- The loadable slot: 0 A, 1 B. -/
def loadable (s : State) (c : Nat) : Nat := if (s.chn c).active then 0 else 1

/-- A write of `CHN_SLOT_CTRL` with `ARM` 1; `v` is the word written. A refused arm leaves `ENTRY` as written, the model's
choice (R267; log entry 152). -/
def slotArm (s : State) (c : Nat) (v : Word) : State :=
  let h := s.chn c
  if !bit v 31 ∨ h.armed then s
  else
    let s := s.setFld .CHN_SLOT_CTRL c 16 2 (bits v 16 2)
    let busy := match h.ld with
      | some l => l.target == loadable s c && !l.out
      | none => false
    if busy then s.setFlag .CHN_STATUS c 31 else s.modChn c fun h => { h with armed := true }

def execSlotArm (c : ClId) (v : Word) (s : State) : Host.Outcome State Fault Refusal :=
  .next (s.atBlock .CHN c 0 fun s => slotArm s c v)

/-- A write of `CHN_SLOT_CTRL` as a whole: an arm while the slot is armed changes nothing, `ENTRY` neither (R267). -/
def slotWrite (s : State) (c : Nat) (v : Word) : Bool := !(bit v 31 && (s.chn c).armed)

/-- A write of `CHN_SLOT_CTRL` with `DISARM` 1 (R267). -/
def slotDisarm (s : State) (c : Nat) (v : Word) : State :=
  if bit v 30 then (s.setFld .CHN_SLOT_CTRL c 16 2 (bits v 16 2)).modChn c fun h => { h with armed := false } else s

def execSlotDisarm (c : ClId) (v : Word) (s : State) : Host.Outcome State Fault Refusal :=
  .next (s.atBlock .CHN c 0 fun s => slotDisarm s c v)

/-! The loader (R266, R279). -/

/-- A load is refused, with one status bit, and LOADED is pending. -/
def loadRefused (s : State) (c b : Nat) : State :=
  (s.setFlag .CHN_STATUS c b).modChn c fun h => { h with mip := setBit h.mip 19 }

/-- A load's bytes move, between a slot or Data Memory and device memory; a write by port 0 to a reserved word clears the
reservation (R271, R279). -/
def loadMove (s : State) (c : Nat) (l : Load) : State :=
  if l.out then s.store l.src ((s.chn c).dm.rdN l.offset l.len)
  else
    let bs := s.mem.rdN l.src l.len
    s.modChn c fun h =>
      if l.target = 0 then { h with imA := h.imA.wrN l.offset bs }
      else if l.target = 1 then { h with imB := h.imB.wrN l.offset bs }
      else
        { h with
          dm := h.dm.wrN l.offset bs
          resv := match h.resv with
            | some (a, _) => if rangesMeet ((a - 0x100000) / 16 * 16) 16 l.offset l.len then none else h.resv
            | none => none }

/-- A load completes, or ends on an error that is not recovered; a `RUN` that waited for it takes effect when it completes,
and goes with a load that does not (R266; log entry 120). A source outside the device map ends in `LD_ERR`, the model's choice
(log entry 153). -/
def loadEnd (s : State) (c : Nat) (l : Load) (err : Bool) : State :=
  let bad := err || (l.len != 0 && !inMap l.src l.len)
  let s := if bad then s.setFlag .CHN_STATUS c 26 else (loadMove s c l).setFlag .CHN_STATUS c 27
  let s := s.modChn c fun h => { h with ld := none, mip := setBit h.mip 19 }
  if l.startAfter && !bad then startContext s c else s

/-- A write of `CHN_LD_LEN` with `GO` 1; `v` is the word written (R279). R266 is tested before a `LENGTH` of 0 completes, the
model's choice (log entry 153). -/
def loaderGo (s : State) (c : Nat) (v : Word) : State :=
  let h := s.chn c
  if !bit v 31 ∨ h.ld.isSome then s
  else
    let s := s.setFld .CHN_LD_LEN c 18 4 (bits v 18 4)
    let t := s.fld .CHN_LD_DST c 31 30
    let out := s.flag .CHN_LD_DST c 29
    let off := s.fld .CHN_LD_DST c 17 4
    let len := s.fld .CHN_LD_LEN c 18 4
    let size := if t ≤ 1 then 8192 else 16384
    if t = 3 ∨ (out ∧ t ≤ 1) ∨ size < off + len then loadRefused s c 26
    else if t ≤ 1 ∧ ((decide (t = 1) = h.active ∧ s.running c) ∨ (decide (t = 1) ≠ h.active ∧ h.armed)) then loadRefused s c 31
    else
      let src := s.fld .CHN_LD_SRC_LO c 31 4 * 16 + s.fld .CHN_LD_SRC_HI c 15 0 * 2 ^ 32
      let l : Load := ⟨t, out, 16 * off, 16 * len, src, false⟩
      if len = 0 then loadEnd s c l false else s.modChn c fun h => { h with ld := some l }

def execLoaderGo (c : ClId) (v : Word) (s : State) : Host.Outcome State Fault Refusal :=
  .next (s.atBlock .CHN c 0 fun s => loaderGo s c v)

/-- What the loader does about a detection in its transfer; it has no status register of the memory port (R279, R307, R308).
The flag says that good data came in the end. -/
def loaderMet (s : State) (c : Nat) : Detection → State × Bool
  | .segment a fails =>
    if fails = 0 then (s, true) else if fails.val ≤ 3 then (s.detected (8 * c), true) else (s.restoreFor (8 * c) a, false)
  | .device b fails => s.crcFailures (8 * c) b fails
  | .sramParity a => s.sramParity (8 * c) a
  | _ => (s, true)

/-- Answer the detections of a load. -/
def loaderMetAll (s : State) (c : Nat) : List Detection → State × Bool
  | [] => (s, true)
  | x :: xs =>
    let r := loaderMet s c x
    let t := loaderMetAll r.1 c xs
    (t.1, r.2 && t.2)

/-- The load under way ends, having met some detections (R279, R307). -/
def loaderDone (s : State) (c : Nat) (hits : List Detection) : State :=
  match (s.chn c).ld with
  | none => s
  | some l =>
    let r := loaderMetAll s c hits
    loadEnd r.1 c l !r.2

def execLoaderDone (c : ClId) (hits : List Detection) (s : State) : Host.Outcome State Fault Refusal := .next (loaderDone s c hits)

end Sys2Proof.Machine
end

