-- ==== Sys2Proof/Machine/ConvOps.lean ====
section
/-!
DEFINITION. What the Convert Engine computes, as functions of memory: values, Bases, Shifts, saturation, vanishing and
outlier channels (02_number_formats.md R42 to R51; 03_scaling_reef.md R65, R69 to R71, R83, R85, R88; 08 R213 to R215).
-/

namespace Sys2Proof.Machine

/-- A value as the Convert Engine decodes it: beyond binary32 the infinity of its sign, below 2^−126 the zero of its sign
(R58). -/
def decoded32 (v : FV) : FV :=
  match toFinite32 v with
  | .fin s m e => if magLe 1 (-126) m e then .fin s m e else .fin s 0 0
  | v => v

/-- Source value of a conversion: flushed by R53, and a grouped one decoded as R58 says. FP16 holds no value below 2^−24,
so that only a grouped one is changed (R58, R65). -/
def srcVal (m : Memory) (core : Nat) (d : Desc) (i j : Nat) : FV := decoded32 (Tile.valueFlushed m core d i j)

/-- Clamp of a Base to −64 … 64 (R70). -/
def clampBase (b : Int) : Int := max (-64) (min 64 b)

/-- What one conversion found: saturated elements, vanished groups, a non-finite source element, and its largest
finite magnitude (R51, R65). -/
structure Tally where
  sat : Nat
  van : Nat
  ovf : Bool
  max : FV

def Tally.zero : Tally := ⟨0, 0, false, FV.zero⟩

/-- Counts of two copies summed, the maximum shared (R214). -/
def Tally.plus (a b : Tally) : Tally := ⟨a.sat + b.sat, a.van + b.van, a.ovf || b.ovf, magMax a.max b.max⟩

/-- The largest finite magnitude of some values. -/
def finiteMax (vs : List FV) : FV := vs.foldl (fun a v => if v.isFinite then magMax a v else a) FV.zero

/-- Shift of a group from the values of its real elements (R71, R50). -/
def groupShift (fmt : Nat) (base : Int) (vs : List FV) : Nat :=
  match finiteMax vs with
  | .fin _ m e =>
    if m ≠ 0 then (min 15 (max 0 (base - eOf fmt m e))).toNat
    else if vs.any fun v => !v.isFinite then 0 else 15
  | _ => 15

/-- Does a group of Shift 15 vanish (R49)? A group with a non-finite element does not. -/
def groupVanishes (fmt : Nat) (base : Int) (vs : List FV) : Bool :=
  vs.all (·.isFinite) && (vs.any fun v => !v.isZero)
    && vs.all fun v => decide ((encNarrow fmt (v.scale (15 - base))).1 = 0)

/-- Codes and Shift of one group, and the group's counts. `vs` holds the group's places: the value of a real element,
or none for a padding place and for a selected outlier channel, which are written as code 0 (R42, R86). -/
def convGroup (fmt : Nat) (base : Int) (vs : List (Option FV)) : List Nat × Nat × Nat × Nat :=
  let real := vs.filterMap id
  if groupVanishes fmt base real then (vs.map fun _ => 0, 15, 0, 1)
  else
    let sh := groupShift fmt base real
    let cs := vs.map fun v => match v with
      | none => (0, false)
      | some x => encNarrow fmt (x.scale (sh - base))
    (cs.map (·.1), sh, (cs.filter (·.2)).length, 0)

/-- Convert into a grouped destination at a given Base. `sel` says which channels of a storage line are selected
outliers. -/
def convGrouped (m : Memory) (core : Nat) (ds dd : Desc) (base : Int) (sel : Nat → Bool) : Memory × Tally :=
  let gs := Tile.gs dd
  forTile (Tile.lines dd) (Tile.groups dd) (fun (s : Memory × Tally) l g =>
    let vs := (List.range gs).map fun k =>
      let o := g * gs + k
      if o < Tile.len dd then
        let (i, j) := if Tile.gaxis dd then (o, l) else (l, o)
        some (srcVal m core ds i j, sel o)
      else none
    let places := vs.map fun v => match v with
      | some (x, false) => some x
      | _ => none
    let (cs, sh, sat, van) := convGroup (Tile.fmt dd) base places
    let mem := (cs.zipIdx).foldl (fun mm c => Tile.putCodeAt mm core dd l (g * gs + c.2) c.1) s.1
    let mem := Tile.putShift mem core dd l g sh
    let all := vs.filterMap id
    let t : Tally :=
      { sat := s.2.sat + sat
        van := s.2.van + van
        ovf := s.2.ovf || all.any fun v => !v.1.isFinite
        max := magMax s.2.max (finiteMax (places.filterMap id)) }
    (mem, t)) (m, Tally.zero)

/-- The largest finite magnitude of a tile: the measure pass of a calibration conversion (R88). -/
def measure (m : Memory) (core : Nat) (ds : Desc) : FV :=
  forTile (Tile.rows ds) (Tile.cols ds) (fun a i j =>
    let v := srcVal m core ds i j
    if v.isFinite then magMax a v else a) FV.zero

/-- Base of a conversion: the entry's, or in calibration e(t) + MARGIN, with the value before its clamp (R65, R88). -/
def convBase (m : Memory) (core : Nat) (ds : Desc) (fmt : Nat) (cal : Bool) (margin : Nat) (base : Int) : Int × Int :=
  if cal then
    match measure m core ds with
    | .fin _ n e => if n = 0 then (base, base) else
        let b := eOf fmt n e + margin
        (clampBase b, b)
    | _ => (base, base)
  else (base, base)

/-- Code of a value in a wide format of the Convert Engine, subnormals of BF16 and FP32 flushed (R47, R53). -/
def wideCode (fmt : Nat) (v : FV) : Nat :=
  match fmt with
  | 3 => flushBf16 (encBf16 v)
  | 4 => encFp16 v
  | _ => (flush32 (enc32 v)).toNat

/-- Convert into a wide destination; a PAIR destination receives (v, +0.0) (R213). -/
def convWide (m : Memory) (core : Nat) (ds dd : Desc) : Memory :=
  forTile (Tile.rows dd) (Tile.cols dd) (fun mm i j =>
    let c := wideCode (Tile.fmt dd) (srcVal m core ds i j)
    if Tile.isPair dd then Tile.putPair mm core dd i j (BitVec.ofNat 32 c, 0#32)
    else Tile.putCode mm core dd i j c) m

/-- Is channel `c` of the tile selected by the Outlier Map words of its blocks (R85, R215)? `map` begins at the
tile's first block. -/
def selectedSlot (map : List Word) (c : Nat) : Option Nat :=
  (List.range 4).find? fun s => bit (map.getD (c / 64) 0#32) (7 * s + 6)
    && bits (map.getD (c / 64) 0#32) (7 * s + 5) (7 * s) == c % 64

/-- The band tile DB of CONVX: each selected channel's BF16 rounding at its slot, +0.0 in an invalid slot (R215). -/
def convBand (m : Memory) (core : Nat) (ds dd db : Desc) (map : List Word) : Memory × Bool :=
  let ch := Tile.len dd
  forTile (Tile.lines dd) (4 * ceilDiv ch 64) (fun (s : Memory × Bool) l k =>
    let slot := match omap (map.getD (k / 4) 0#32) (k % 4) with
      | some c => if k / 4 * 64 + c < ch then some (k / 4 * 64 + c) else none
      | none => none
    let (i, j) := if Tile.gaxis dd then (k, l) else (l, k)
    match slot with
    | none => (Tile.putCode s.1 core db i j 0, s.2)
    | some c =>
      let v := if Tile.gaxis dd then srcVal m core ds c l else srcVal m core ds l c
      (Tile.putCode s.1 core db i j (wideCode 3 v), s.2 || !v.isFinite)) (m, false)
where
  /-- Channel of a valid slot of a map word. -/
  omap (w : Word) (s : Nat) : Option Nat := if bit w (7 * s + 6) then some (bits w (7 * s + 5) (7 * s)) else none

/-- Merge each channel's largest finite magnitude into its statistics word (R83, R215); the flag says that a word lies
beyond Cluster Memory. -/
def convStats (m : Memory) (core : Nat) (ds dd : Desc) (cstat coff : Nat) : Memory × Bool :=
  forN (Tile.len dd) (fun (s : Memory × Bool) c =>
    let vs := (List.range (Tile.lines dd)).map fun l =>
      if Tile.gaxis dd then srcVal m core ds c l else srcVal m core ds l c
    let o := cstat + 4 * (coff + c)
    if o + 4 ≤ cmemSize then
      let a := cmemBase (core / 8) + o
      let old := dec32 (s.1.rd32 a)
      let new := flush32 (enc32 (magMax (if old.isFinite then old else FV.zero) (finiteMax vs)))
      (s.1.wr32 a new, s.2)
    else (s.1, true)) (m, false)

end Sys2Proof.Machine
end

