-- ==== Sys2Proof/Machine/ExecConvert.lean ====
section
/-!
DEFINITION. The Convert Engine's instructions CONV, CONV2 and CONVX (02_number_formats.md R39 to R52; 03 R65, R82 to
R88; 07 R179, R180; 08 R213 to R215).
-/

namespace Sys2Proof.Machine

namespace State

/-- The Base of a conversion through entry `e`, with the state after a clamp in calibration: CLAMP_EVENT and
BASE_CLAMPED (R65, R70, R88). -/
def conversionBase (s : State) (core : Nat) (ds dd : Desc) : State × Int :=
  let c := clOfCore core
  let e := Tile.reef dd
  let w := s.reefW c e 21
  let b := convBase s.mem core ds (Tile.fmt dd) (bit w 29) (bits w 10 8) (sext 8 (bits w 7 0))
  let s := if b.1 = b.2 then s
    else (s.setFlag .CVT_REEF_STATUS c 28).post (dieOfCore core) .baseClamped (s.reefW c e 22)
      (BitVec.ofNat 32 (wrapN 32 b.2))
  (s, b.1)

/-- A conversion writes the Base it used into its destination's descriptor (R39, R88). -/
def writeBase (s : State) (core i : Nat) (b : Int) : State := s.writeDesc core i (Tile.withBase (s.desc core i) b)

/-- Post to a Reef entry; the post lands later (R65, R67). -/
def postReef (s : State) (core eng : Nat) (e : Nat) (t : Tally) : State :=
  s.modCluster (clOfCore core) fun x => { x with posts := x.posts ++
    [⟨e, enc32 t.max, t.sat, t.van, t.ovf, (s.q core eng).upass⟩] }

/-- A candidate for shadow sampling is counted, and every 2^(RATE + 4)th gives a sample of the first 8 stream rows of
its source in BF16; an occupied Shadow Buffer or K above 8,192 discards it (R179, R180, R183, R184). A destination without a Reef entry gives
the sample the TID 0 (log entry 105). -/
def shadowCandidate (s : State) (m : Memory) (core : Nat) (w : TWord) (ds dd : Desc) (idx : Nat) : State :=
  if !TW.check w then s
  else
    let limit := 2 ^ (s.fld .TTL_SHADOW_CTRL 0 3 0 + 4)
    let n := (s.core core).cand + 1
    if n < limit then s.modCore core fun c => { c with cand := n }
    else
      let s := s.modCore core fun c => { c with cand := 0 }
      if !s.flag .TTL_SHADOW_CTRL 0 31 then s
      else if (s.core core).shadow.isSome ∨ 8192 < Tile.len dd then s.countSat .TTL_SHADOW_LOST 0 1
      else
        let rows := (List.range (min 8 (Tile.lines dd))).map fun l => (List.range (Tile.len dd)).map fun k =>
          wideCode 3 (if Tile.gaxis dd then srcVal m core ds k l else srcVal m core ds l k)
        let tid := if Tile.reefV dd then s.reefW (clOfCore core) (Tile.reef dd) 22 else 0
        let sh : Shadow :=
          { desc := idx, gradient := Tile.fmt dd == 2, tid := tid, thr := s.rd .TTL_SHADOW_THR 0, k := Tile.len dd, x := rows, n := none, y := []
            wref := 0, wtrans := false }
        s.modCore core fun c => { c with shadow := some sh }

end State

/-- Statuses of a conversion (R51). -/
def Tally.met (t : Tally) : List Status := keepIf (t.sat ≠ 0) [Status.saturated] ++ keepIf (t.van ≠ 0) [Status.vanished]

/-- CONV: one tile into a grouped or a wide destination (R43, R45 to R52, R213). An empty tile makes no post, so that it
does not set POSTED either, and is no candidate of R179 (log entry 104). -/
def bodyConv : Body := fun s core eng w _ =>
  let ds := s.desc core (dfield w 84)
  let i := dfield w 76
  let dd := s.desc core i
  let m := s.mem
  if Tile.empty dd then s.ran core w s []
  else if Tile.grouped dd then
    let (s, b) := s.conversionBase core ds dd
    let r := convGrouped m core ds dd b (fun _ => false)
    let t := (s.commitMem r.1 (Tile.physRanges core dd)).1
    let t := (t.writeBase core i b).postReef core eng (Tile.reef dd) r.2
    s.ran core w (t.shadowCandidate m core w ds dd i) r.2.met
  else
    let t := (s.commitMem (convWide m core ds dd) (Tile.physRanges core dd)).1
    s.ran core w (t.shadowCandidate m core w ds dd i) []

/-- CONV2: two grouped copies with one Base and one post (R214). -/
def bodyConv2 : Body := fun s core eng w _ =>
  let ds := s.desc core (dfield w 84)
  let i := dfield w 76
  let k := dfield w 68
  let d1 := s.desc core i
  let d2 := s.desc core k
  let m := s.mem
  if Tile.empty d1 then s.ran core w s []
  else
  let (s, b) := s.conversionBase core ds d1
  let r1 := convGrouped m core ds d1 b (fun _ => false)
  let t := (s.commitMem r1.1 (Tile.physRanges core d1)).1
  let r2 := convGrouped t.mem core ds d2 b (fun _ => false)
  let t := (t.commitMem r2.1 (Tile.physRanges core d2)).1
  let tally := r1.2.plus r2.2
  let t := ((t.writeBase core i b).writeBase core k b).postReef core eng (Tile.reef d1) tally
  s.ran core w (t.shadowCandidate m core w ds d1 i) tally.met

/-- CONVX: G4 with the selected outlier channels split off into DB, and channel statistics (R83, R85, R86, R215). -/
def bodyConvx : Body := fun s core eng w _ =>
  let ds := s.desc core (dfield w 84)
  let i := dfield w 76
  let dd := s.desc core i
  let db := s.desc core (dfield w 68)
  let e := bits w 60 51
  let coff := bits w 49 34
  let m := s.mem
  if Tile.empty dd then s.ran core w s []
  else
  let map := s.omapWords core e ((List.range (ceilDiv (Tile.len dd) 64)).map fun p => coff / 64 + p)
  let (s, b) := s.conversionBase core ds dd
  let r := convGrouped m core ds dd b (fun c => (selectedSlot map.1 c).isSome)
  let t := (s.commitMem r.1 (Tile.physRanges core dd)).1
  let band := convBand t.mem core ds dd db map.1
  let t := (t.commitMem band.1 (Tile.physRanges core db)).1
  let cstat := bits (s.reefW (clOfCore core) e 25) 23 0
  let st := if bit w 50 then convStats t.mem core ds dd cstat coff else (t.mem, false)
  let lo := cstat + 4 * coff
  let n := if bit w 50 then min (4 * Tile.len dd) (cmemSize - lo) else 0
  let t := (t.commitMem st.1 [(cmemBase (clOfCore core) + lo, n)]).1
  let t := (t.writeBase core i b).postReef core eng (Tile.reef dd) r.2
  s.ran core w (t.shadowCandidate m core w ds dd i)
    (r.2.met ++ keepIf (map.2 || st.2) [Status.faultAddress])

def execConv (core : CoreId) (env : Env) (s : State) : Host.Outcome State Fault Refusal :=
  .next (s.runHead core 3 0x70 env bodyConv)

def execConv2 (core : CoreId) (env : Env) (s : State) : Host.Outcome State Fault Refusal :=
  .next (s.runHead core 3 0x71 env bodyConv2)

def execConvx (core : CoreId) (env : Env) (s : State) : Host.Outcome State Fault Refusal :=
  .next (s.runHead core 3 0x72 env bodyConvx)

end Sys2Proof.Machine
end

