-- ==== Sys2Proof/Machine/Reef.lean ====
section
/-!
DEFINITION. Reef: posts, the outlier selection, and the orders 4 to 7 of the step's end (03_scaling_reef.md R62 to R89).
-/

namespace Sys2Proof.Machine

/-- Is a binary32 word an observation: finite, not zero, its sign bit clear (R70)? -/
def isObs (w : Word) : Bool := decide (0 < w.toNat) && decide (w.toNat < 0x7F800000)

/-- The larger of two step maxima; a word that is no finite magnitude gives way, but for +infinity, which only software can
have written and which stays, the model's choice (R65, R70, R74; log entry 148). -/
def reefMax (a b : Word) : Word :=
  let ok := fun (w : Word) => decide (w.toNat ≤ 0x7F800000)
  if !ok a then b else if !ok b then a else if a.toNat ≤ b.toNat then b else a

/-- A 16-bit saturating sum. -/
def sat16 (a b : Nat) : Nat := satAdd 16 a b

namespace State

/-- Clusters of a partition (R391). -/
def partClusters (s : State) (p : Nat) : List Nat :=
  (List.range 32).filter fun c => bit (s.rd .PLC_PART_CLUSTERS p) c

/-- Valid entries of a cluster's Reef Table, rising. -/
def reefEntries (s : State) (c : Nat) : List Nat :=
  (s.cluster c).reef.filterMap fun x => if x.1 % 32 = 21 ∧ bit x.2 31 then some (x.1 / 32) else none

/-- A field of a word of an entry is replaced. -/
def setReefF (s : State) (c e k hi lo v : Nat) : State := s.setReefW c e k (setBits (s.reefW c e k) hi lo v)

/-! Posts (R65, R66, R82). -/

/-- A post lands in its entry. -/
def landPost (s : State) (c : Nat) (x : RPost) : State :=
  let w := s.reefW c x.entry
  let s := s.setReefW c x.entry 16 (reefMax (w 16) x.max)
  let s := s.setReefW c x.entry 17 (BitVec.ofNat 32 (satAdd 32 (w 17).toNat x.sat))
  let s := s.setReefW c x.entry 18 (BitVec.ofNat 32 (satAdd 32 (w 18).toNat x.van))
  let s := s.setReefW c x.entry 19
    (BitVec.ofNat 32 (sat16 (bits (w 19) 31 16) x.sat * 65536 + sat16 (bits (w 19) 15 0) x.van))
  let s := s.setReefF c x.entry 21 26 26 1
  if x.ovf then
    let s := s.setReefF c x.entry 21 30 30 1
    if x.update then
      let s := s.modCluster c fun y => { y with ovfKeep := if y.ovfKeep.contains x.entry then y.ovfKeep
                                                else y.ovfKeep ++ [x.entry] }
      (s.post (dieOfCl c) .updateNonfinite (w 22) 0).modPart (s.partOf c) fun y => { y with nf := true }
    else s
  else s

/-! Outlier selection (R84). -/

/-- Statistic of a channel as a magnitude; a word that is not a finite magnitude counts as 0.0. -/
def statMag (w : Word) : Nat :=
  if isObs w then (if bits w 30 23 = 0 then bits w 22 0 else (2 ^ 23 + bits w 22 0) * 2 ^ (bits w 30 23 - 1)) else 0

/-- Channel statistics of an entry in this device: `n` words at its CSTAT; a word beyond Cluster Memory reads 0.0 (R83).
-/
def statsOf (s : State) (c e n : Nat) : List Word :=
  let off := bits (s.reefW c e 25) 23 0
  (List.range n).map fun k =>
    if off + 4 * k + 4 ≤ cmemSize then s.mem.rd32 (cmemBase c + off + 4 * k) else 0

/-- Merge channel statistics by maximum. -/
def mergeStats : List Word → List Word → List Word
  | [], ys => ys
  | xs, [] => xs
  | x :: xs, y :: ys => (if statMag x < statMag y then y else x) :: mergeStats xs ys

/-- The channels of a block in rank order: falling statistic, ties to the lower index. -/
def rankChannels : List (Nat × Nat) → List (Nat × Nat)
  | [] => []
  | x :: xs => ins x (rankChannels xs)
where
  ins (x : Nat × Nat) : List (Nat × Nat) → List (Nat × Nat)
    | [] => [x]
    | y :: ys => if y.2 ≤ x.2 then x :: y :: ys else y :: ins x ys

/-- Map word of a block from the statistics of its real channels (R84, R85): slots in rising channel index. -/
def selectBlock (outT : Nat) (xs : List Word) : Word :=
  let ranked := rankChannels (xs.zipIdx.map fun x => (x.2, statMag x.1))
  match ranked[7]? with
  | none => 0
  | some v =>
    let pick := (ranked.filter fun x => decide (v.2 * 2 ^ outT < x.2)).take 4
    let chans := (List.range 64).filter fun c => pick.any fun x => x.1 == c
    chans.zipIdx.foldl (fun w x => w ||| BitVec.ofNat 32 ((64 + x.1) * 2 ^ (7 * x.2))) 0

/-- Cut a list into runs of `n`. -/
def runsOf {α : Type} (n : Nat) : Nat → List α → List (List α)
  | 0, _ => []
  | k + 1, xs => if xs = [] then [] else xs.take n :: runsOf n k (xs.drop n)

/-- Reef selects the outlier channels of one entry's tensor and writes its Outlier Map; a map word it cannot reach is
not written (R84 to R86). -/
def selectEntry (s : State) (c e : Nat) (stats : List Word) : State :=
  let base := (s.reefW c e 23).toNat + bits (s.reefW c e 24) 15 0 * 2 ^ 32
  let outT := bits (s.reefW c e 24) 19 16
  ((runsOf 64 stats.length stats).zipIdx).foldl (fun s x =>
    let a := base + 4 * x.2
    if ownDieRange (8 * c) a 4 then s.store a (natLe 4 (selectBlock outT x.1).toNat) else s) s

/-- Valid entries of a partition's clusters as (cluster, entry). -/
def jobEntries (s : State) (p : Nat) : List (Nat × Nat) :=
  (s.partClusters p).flatMap fun c => (s.reefEntries c).map fun e => (c, e)

/-- Order 2 of R76 after a clean verdict: every weight tensor with `OUT` 1, its statistics combined over the job. -/
def selectOutliers (s : State) (p : Nat) (others : List TidStat) : State :=
  match (s.part p).job with
  | none => s
  | some j =>
    let es := (s.jobEntries p).filter fun x => s.reefOut x.1 x.2
    let combined := fun (tid : Word) (n : Nat) =>
      let here := es.filter fun x => s.reefW x.1 x.2 22 == tid
      let own := here.foldl (fun a x => mergeStats a (s.statsOf x.1 x.2 n)) []
      (others.filter fun o => o.tid == tid).foldl (fun a o => mergeStats a (o.stats.take n)) own
    es.foldl (fun t x =>
      let tid := s.reefW x.1 x.2 22
      match j.tensors.find? fun y => y.1 == tid with
      | none => t
      | some y => t.selectEntry x.1 x.2 (combined tid y.2)) s

/-! The end of the step (R70 to R80, R89). -/

/-- What one entry brings to the combination of its TID (R74). -/
def tidSum (s : State) (c e : Nat) : TidSum :=
  let w19 := s.reefW c e 19
  let w21 := s.reefW c e 21
  ⟨s.reefW c e 22, s.reefW c e 16, bits w19 31 16, bits w19 15 0, bit w21 30, bit w21 26⟩

end State

/-- Combine two contributions to one TID (R74). -/
def TidSum.plus (a b : TidSum) : TidSum :=
  ⟨a.tid, reefMax a.max b.max, sat16 a.sat b.sat, sat16 a.van b.van, a.ovf || b.ovf, a.posted || b.posted⟩

namespace State

/-- Order 4 of R76: entries of one TID hold the combined values. -/
def combineTids (s : State) (p : Nat) (others : List TidSum) : State :=
  let es := s.jobEntries p
  let all := es.map (fun x => s.tidSum x.1 x.2) ++ others
  es.foldl (fun t x =>
    let own := s.tidSum x.1 x.2
    let z := (all.filter fun y => y.tid == own.tid).foldl TidSum.plus { own with sat := 0, van := 0 }
    let t := t.setReefW x.1 x.2 16 z.max
    let t := t.setReefW x.1 x.2 19 (BitVec.ofNat 32 (z.sat * 65536 + z.van))
    let t := t.setReefF x.1 x.2 21 30 30 z.ovf.toNat
    t.setReefF x.1 x.2 21 26 26 z.posted.toNat) s

/-- Places of the valid history entries, the latest first (R62, R70). -/
def history (w21 : Word) : List Nat :=
  let n := bits w21 23 20 + 1
  let head := bits w21 14 11
  (List.range (bits w21 19 15)).map fun i => (head + 32 * n - 1 - i) % n

/-- The largest observation of an entry's window (R70). -/
def windowMax (s : State) (c e : Nat) : Option Word :=
  let xs := ((history (s.reefW c e 21)).map fun i => s.reefW c e i).filter isObs
  match xs with
  | [] => none
  | _ => some (xs.foldl (fun a x => if a.toNat < x.toNat then x else a) 0)

/-- A Base is written; a clamp is reported (R70). -/
def putBase (s : State) (c e : Nat) (b : Int) : State :=
  let k := clampBase b
  let s := s.setReefF c e 21 7 0 (wrapN 8 k)
  if k = b then s
  else (s.setFlag .CVT_REEF_STATUS c 28).post (dieOfCl c) .baseClamped (s.reefW c e 22) (BitVec.ofNat 32 (wrapN 32 b))

/-- The Base of R70, before its clamp: e(Mwin) + MARGIN, or none when the window holds no observation or the format is
reserved. -/
def reefBase (s : State) (c e : Nat) : Option Int :=
  let w := s.reefW c e 21
  if bits w 25 24 = 3 then none
  else match s.windowMax c e with
    | none => none
    | some m => match dec32 m with
      | .fin _ q x => some (eOf (bits w 25 24) q x + bits w 10 8)
      | _ => none

/-- Order 5 of R76 for one valid entry: push, Base, thresholds, and the end of calibration (R70, R72, R73, R89). A count that
has saturated at a threshold of 0xFFFF does not exceed it, and an entry whose `FILL` stands at `WIN` + 1 leaves calibration
though it was not posted, the model's choices (log entries 145, 147). -/
def entryBoundary (s : State) (p c e : Nat) : State :=
  let w21 := s.reefW c e 21
  let n := bits w21 23 20 + 1
  let s := if bit w21 26 then
      let s := s.setReefW c e (bits w21 14 11) (s.reefW c e 16)
      let s := s.setReefF c e 21 14 11 ((bits w21 14 11 + 1) % n)
      s.setReefF c e 21 19 15 (min n (bits w21 19 15 + 1))
    else s
  let sat := bits (s.reefW c e 19) 31 16
  let van := bits (s.reefW c e 19) 15 0
  let old := sext 8 (bits (s.reefW c e 21) 7 0)
  let ovr := decide (bits (s.reefW c e 20) 31 16 < sat)
  let s := match s.reefBase c e, ovr with
    | none, false => s
    | none, true => s.putBase c e (old + 1)
    | some b, false => s.putBase c e b
    | some b, true => s.putBase c e (max b (old + 1))
  let s := if ovr then
      ((s.setFlag .CVT_REEF_STATUS c 30).post (dieOfCl c) .satThreshold (s.reefW c e 22) (BitVec.ofNat 32 sat)).modPart p
        fun x => { x with satN := x.satN + 1 }
    else s
  let s := if bits (s.reefW c e 20) 15 0 < van then
      ((s.setFlag .CVT_REEF_STATUS c 29).post (dieOfCl c) .vanThreshold (s.reefW c e 22) (BitVec.ofNat 32 van)).modPart p
        fun x => { x with vanN := x.vanN + 1 }
    else s
  if bit (s.reefW c e 21) 29 ∧ n ≤ bits (s.reefW c e 21) 19 15 then s.setReefF c e 21 29 29 0 else s

/-- A history maximum times 2^`d` (R80). -/
def scaleMax (d : Int) (w : Word) : Word :=
  if isObs w then
    match dec32 w with
    | .fin sg m e =>
      if m * 2 ^ (e + d + 150).toNat < 2 ^ 24 then 0
      else
        let x := enc32 (.fin sg m (e + d))
        if x.toNat = 0x7F800000 then 0x7F7FFFFF#32 else x
    | _ => w
  else w

/-- An entry with `LS` 1 follows a change of the loss scale (R80). -/
def followScale (s : State) (c e : Nat) (d : Int) : State :=
  let w := s.reefW c e 21
  let s := s.putBase c e (sext 8 (bits w 7 0) + d)
  ((history w).eraseDups).foldl (fun s i => s.setReefW c e i (scaleMax d (s.reefW c e i))) s

/-- Order 6 of R76 in one cluster: the loss scale after an overflow verdict or a clean one (R78, R79), and the entries
that follow it (R80). A skip that leaves `SKIP_RUN` saturated at a `SKIP_LIMIT` of 255 raises nothing again, the model's
choice (log entry 103). -/
def lossScale (s : State) (c : Nat) (overflow : Bool) : State :=
  let e := s.fld .CVT_LOSS_SCALE c 7 0
  let clean := s.fld .CVT_LOSS_SCALE c 31 16
  let (s, e') :=
    if overflow then
      let run := min 255 (s.fld .CVT_REEF_STATUS c 7 0 + 1)
      let lim := s.fld .CVT_REEF_CTRL c 31 24
      let hit := decide (lim ≠ 0) && decide (run = lim) && decide (s.fld .CVT_REEF_STATUS c 7 0 ≠ run)
      let s := (s.setFld .CVT_LOSS_SCALE c 31 16 0).countSat .CVT_SKIP_COUNT c 1
      let s := s.setFld .CVT_REEF_STATUS c 7 0 run
      let s := if hit then (s.setFlag .CVT_REEF_STATUS c 27).post (dieOfCl c) .skipRunLimit 0 (BitVec.ofNat 32 run) else s
      (s, if s.fld .CVT_LS_CTRL c 7 0 < e then e - 1 else e)
    else
      let s := s.setFld .CVT_REEF_STATUS c 7 0 0
      let n := satAdd 16 clean 1
      let iv := s.fld .CVT_LS_CTRL c 31 16
      if iv ≠ 0 ∧ iv ≤ n then
        (s.setFld .CVT_LOSS_SCALE c 31 16 0, if e < s.fld .CVT_LS_CTRL c 15 8 then e + 1 else e)
      else (s.setFld .CVT_LOSS_SCALE c 31 16 n, e)
  let s := s.setFld .CVT_LOSS_SCALE c 7 0 e'
  if e' = e then s
  else ((s.reefEntries c).filter fun x => bit (s.reefW c x 21) 28).foldl
    (fun s x => s.followScale c x ((e' : Int) - e)) s

/-- The step fields of an entry are cleared; `keep` holds the `OVF` of the update pass (R76 order 7, R82). -/
def clearStep (s : State) (c e : Nat) (keep : Bool) : State :=
  let s := (s.setReefW c e 16 0).setReefW c e 19 0
  s.setReefW c e 21 (setBits (setBits (s.reefW c e 21) 26 26 0) 30 30 keep.toNat)

/-- Entries of a cluster's table with any field that is not 0. -/
def usedEntries (s : State) (c : Nat) : List Nat := ((s.cluster c).reef.map fun x => x.1 / 32).eraseDups

/-- The channel statistics buffers of a cluster's tensors are cleared (R86). -/
def clearStats (s : State) (c : Nat) (tensors : List (Word × Nat)) : State :=
  ((s.reefEntries c).filter fun e => s.reefOut c e).foldl (fun s e =>
    match tensors.find? fun y => y.1 == s.reefW c e 22 with
    | none => s
    | some y =>
      let off := bits (s.reefW c e 25) 23 0
      s.store (cmemBase c + off) (List.replicate (min (4 * y.2) (cmemSize - off)) 0)) s

/-- Order 7 of R76 in one cluster. -/
def clearSteps (s : State) (c : Nat) (tensors : List (Word × Nat)) : State :=
  let keep := (s.cluster c).ovfKeep
  let s := (s.usedEntries c).foldl (fun s e => s.clearStep c e (keep.contains e)) s
  (s.clearStats c tensors).modCluster c fun x => { x with ovfKeep := [] }

/-- Orders 4 to 7 of R76 in a partition. -/
def reefBoundary (s : State) (p : Nat) (overflow : Bool) (others : List TidSum) : State :=
  let tensors := match (s.part p).job with
    | some j => j.tensors
    | none => []
  let s := s.combineTids p others
  let s := (s.jobEntries p).foldl (fun s x => s.entryBoundary p x.1 x.2) s
  let s := (s.partClusters p).foldl (fun s c => s.lossScale c overflow) s
  (s.partClusters p).foldl (fun s c => s.clearSteps c tensors) s

/-- No post of a partition's step is on its way (R68). -/
def postsLanded (s : State) (p : Nat) : Bool := (s.partClusters p).all fun c => (s.cluster c).posts == []

/-- No queue of a partition is in its update pass (R222). -/
def noUpass (s : State) (p : Nat) : Bool :=
  s.cores.all fun k => !(bit (s.rd .PLC_PART_CLUSTERS p) (clOfCore k.1) && k.2.q.any fun q => q.2.upass)

end State

end Sys2Proof.Machine
end

