-- ==== Sys2Proof/Machine/ExecReef.lean ====
section
/-!
DEFINITION. Reef's rows: posts that land, the table's data register, the overflow verdict and the end of the step
(03_scaling_reef.md R63 to R94; 16 R427).
-/

namespace Sys2Proof.Machine

namespace State

/-- The first of a cluster's posts lands (R65). -/
def reefPost (s : State) (c : Nat) : State :=
  match (s.cluster c).posts with
  | [] => s
  | x :: xs => (s.modCluster c fun y => { y with posts := xs }).landPost c x

/-- A write through `CVT_REEF_DATA` (R63, R94). -/
def reefDataWrite (s : State) (c : Nat) (req : Req) (v : Word) : State :=
  if s.reaches req .CVT c 0x28 then
    if s.running c then s.setFlag .CVT_REEF_STATUS c 31
    else
      let w := s.sel req .CVT_REEF_SEL c
      (s.setReefW c (bits w 14 5) (bits w 4 0) v).advance req .CVT_REEF_SEL c 15 4 0 32 1
  else s

/-- The word that `CVT_REEF_DATA` shows. -/
def reefData (s : State) (c : Nat) (req : Req) : Word :=
  let w := s.sel req .CVT_REEF_SEL c
  s.reefW c (bits w 14 5) (bits w 4 0)

/-- A read through `CVT_REEF_DATA` (R63, R94). -/
def reefDataRead (s : State) (c : Nat) (req : Req) : State :=
  if s.reaches req .CVT c 0x28 then
    (s.emit (.readData (s.reefData c req))).advance req .CVT_REEF_SEL c 15 4 0 32 1
  else s.emit (.readData 0)

/-! Order 1 of R76 and the request for an epoch (R427). -/

/-- No epoch is in progress (R435). -/
def snapIdle (s : State) : Bool := s.fld .RES_SNAP_STATUS 0 2 0 == 0

/-- The committed epoch: the larger of Stay 8 and Stay 9 (R434). -/
def epochC (s : State) : Word :=
  let a := s.record 8
  let b := s.record 9
  if a.toNat = 0xFFFFFFFF then b else if b.toNat = 0xFFFFFFFF then a else if a.toNat < b.toNat then b else a

/-- The risk latch asks for an epoch (R427). -/
def riskAsks (s : State) (p : Nat) : Bool :=
  let thr := bits s.snap.ctrl 31 24
  decide (thr ≠ 0) && (s.part p).armed && decide (thr ≤ s.fld .TTL_RISK 0 7 0)

/-- REQ of this device at the end of the step of partition `p` (R427). -/
def asksEpoch (s : State) (p : Nat) : Bool :=
  let steps := s.snap.ceil.toNat
  let age := wrapN 32 (((s.rd .PLC_STEP p).toNat : Int) + 1 - s.epochC.toNat)
  s.snapIdle && (s.riskAsks p
    || (decide (steps ≠ 0) && decide (steps / 2 ^ (s.fld .TTL_RISK 0 7 0 / 64) ≤ age))
    || s.flag .RES_SNAP_CMD 0 0 || (s.part p).drainDue || (s.part p).epochDue)

/-- Observations in ascending entry index (R189). -/
def insertObs (x : Nat × Word) : List (Nat × Word) → List (Nat × Word)
  | [] => [x]
  | y :: ys => if x.1 ≤ y.1 then x :: y :: ys else y :: insertObs x ys

/-- Telltale holds the observations of a step, which come with its verdict: none of kind GRADIENT after an overflow
verdict, and those of a third step are dropped (R186, R189). -/
def holdNorms (s : State) (p : Nat) (overflow : Bool) (obs : List (Fin 512 × Word)) : State :=
  let kept := obs.filter fun x => !(overflow && bit (SMap.get 0 s.nw (8 * x.1.val + 1)) 30)
  if kept = [] then s
  else if 2 ≤ s.nwQ.length then s.setFlag .TTL_NUM_STATUS 0 27
  else { s with nwQ := s.nwQ ++ [⟨p, false, kept.foldr (fun x l => insertObs (x.1.val, x.2) l) []⟩] }

/-- The overflow verdict of a step is formed from every entry's `OVF`, from what this device's gradient accumulation met,
and from `ovf`, `req` and `nf`, the other members' bits; a clean verdict selects outlier channels (R76 orders 1 and 2,
R84, R427). `found` brings the other members' statistics and the watch points' observations of the step (R186). -/
def overflowVerdict (s : State) (p : Nat) (ovf req nf : Bool) (found : StepFacts) : State :=
  let x := s.part p
  if s.stepping p && x.verdict.isNone && s.postsLanded p then
    let ovr := ovf || x.gradNf || (s.partClusters p).any fun c =>
      (s.cluster c).reef.any fun e => e.1 % 32 == 21 && bit e.2 30
    let own := s.asksEpoch p
    let carriedRisk := s.snapIdle && s.riskAsks p
    let s := s.modPart p fun x => { x with
      verdict := some ovr
      reqOr := own || req
      nfOr := x.nf || nf
      nf := false
      armed := x.armed && !carriedRisk }
    let s := if own then s.clrFlag .RES_SNAP_CMD 0 0 else s
    (if ovr then s else s.selectOutliers p found.stats).holdNorms p ovr found.obs
  else s

/-- Reef's orders 4 to 7 at the end of a step (R68, R76): not before every post has landed and the update pass, or its
skip, is over. `others` is what the other members' entries hold (R74). -/
def reefStepBoundary (s : State) (p : Nat) (others : List TidSum) : State :=
  let x := s.part p
  match x.verdict with
  | none => s
  | some ovr =>
    if x.reefDone || !s.postsLanded p || !s.noUpass p then s
    else (s.reefBoundary p ovr others).modPart p fun x =>
      { x with reefDone := true, skips := if ovr then x.skips + 1 else x.skips }

end State

def execReefPost (c : ClId) (s : State) : Host.Outcome State Fault Refusal := .next (s.reefPost c)

def execReefDataWrite (c : ClId) (req : Req) (v : Word) (s : State) : Host.Outcome State Fault Refusal :=
  .next (s.reefDataWrite c req v)

def execReefDataRead (c : ClId) (req : Req) (s : State) : Host.Outcome State Fault Refusal :=
  .next (s.reefDataRead c req)

def execReefStepBoundary (p : PartId) (others : List TidSum) (s : State) : Host.Outcome State Fault Refusal :=
  .next (s.reefStepBoundary p others)

def execOverflowVerdict (p : PartId) (ovf req nf : Bool) (found : StepFacts) (s : State) :
    Host.Outcome State Fault Refusal :=
  .next (s.overflowVerdict p ovf req nf found)

end Sys2Proof.Machine
end

