-- ==== Sys2Proof/Machine/Kv.lean ====
section
/-!
DEFINITION. Halyard: the Sequence Table, page lists, the Free and Reclaim Queues, staging, flushes and the update
commands (12_attention_kv.md R312 to R330, R337 to R341).
-/

namespace Sys2Proof.Machine

/-- A list entry's "none" (R317). -/
def noPage : Nat := 0xFFFFFFFF

namespace State

/-- A write by Halyard itself, which may reach the Table Region, and reaches no reserved address (R283, R315). -/
def kvStore (s : State) (a : Nat) (bs : List Byte) : State :=
  if inMap a bs.length then s.applyMem (s.mem.wrN a bs) [(a, bs.length)] else s
def kvStore32 (s : State) (a : Nat) (w : Word) : State := s.kvStore a (natLe 4 w.toNat)

def kvPoolBase (s : State) (c : Nat) : Nat := s.fld .KVP_POOL_LO c 31 18 * 2 ^ 18 + s.fld .KVP_POOL_HI c 15 0 * 2 ^ 32
def kvSideBase (s : State) (c : Nat) : Nat := s.fld .KVP_SIDE_LO c 31 13 * 2 ^ 13 + s.fld .KVP_SIDE_HI c 15 0 * 2 ^ 32
def kvPages (s : State) (c : Nat) : Nat := s.fld .KVP_POOL_PAGES c 20 0
/-- Address of the Free Queue (R314). -/
def kvFreeBase (s : State) (c : Nat) : Nat := s.kvTableBase c + 64 * s.kvSeqCount c

/-- Address of entry `k` of a sequence's page list (R316, R317). -/
def listAddr (s : State) (c seq k : Nat) : Nat := s.kvTableBase c + s.seqList c seq + 16 * k
def listW (s : State) (c seq k w : Nat) : Word := s.mem.rd32 (s.listAddr c seq k + 4 * w)

/-- Page and largest Base of the list entry at an address as a walk of start generation `g` resolves it (R317, R318). -/
def entryAt (s : State) (a : Nat) (g : Word) : Nat × Int :=
  let w3 := s.mem.rd32 (a + 12)
  if genNewer (s.mem.rd32 (a + 4)) g then ((s.mem.rd32 (a + 8)).toNat, sext 8 (bits w3 15 8))
  else ((s.mem.rd32 a).toNat, sext 8 (bits w3 7 0))

/-- Write the list entry at an address in generation `g`: the old page and Base become the previous ones (R317). -/
def putEntry (s : State) (a page : Nat) (pbmax : Int) (g : Word) : State :=
  s.kvStore a (natLe 4 page ++ natLe 4 g.toNat ++ s.mem.rdN a 4 ++ [BitVec.ofNat 8 (wrapN 8 pbmax), s.mem.rd (a + 12)])

/-- Write a list entry of a sequence. -/
def putList (s : State) (c seq k page : Nat) (pbmax : Int) (g : Word) : State := s.putEntry (s.listAddr c seq k) page pbmax g

/-- Write the half of a sequence that is not current, with a new state, length and words (R316). -/
def putHalf (s : State) (c seq : Nat) (w1 : Word) (len alen list cap : Nat) (g : Word) : State :=
  let h := 1 - s.seqHalf c seq (s.kv c).gen
  let a := s.kvTableBase c + 64 * seq + 32 * h
  let s := s.kvStore a (natLe 4 g.toNat ++ natLe 4 w1.toNat ++ natLe 4 len ++ natLe 4 alen ++ natLe 4 list
    ++ natLe 4 cap ++ List.replicate 8 0#8)
  s.modKv c fun k => { k with
    alen := SMap.set 0 k.alen seq alen
    lab := k.lab.filter fun x => x.2.map (·.1) != some seq
    seqCache := k.seqCache.filter fun x => x != seq }

/-- Take the page at the head of the Free Queue (R320). -/
def takePage (s : State) (c : Nat) : Option (State × Nat) :=
  let k := s.kv c
  if k.freeCount = 0 then none
  else
    let p := (s.mem.rd32 (s.kvFreeBase c + 4 * k.freeHead)).toNat
    some (s.modKv c fun k => { k with freeHead := (k.freeHead + 1) % s.kvPages c, freeCount := k.freeCount - 1 }, p)

/-- Put a page at the tail of the Free Queue. -/
def givePage (s : State) (c page : Nat) : State :=
  let k := s.kv c
  let i := (k.freeHead + k.freeCount) % s.kvPages c
  (s.kvStore32 (s.kvFreeBase c + 4 * i) (BitVec.ofNat 32 page)).modKv c fun k => { k with freeCount := k.freeCount + 1 }

/-- A freed page enters the Reclaim Queue with a generation (R320). -/
def freePage (s : State) (c page : Nat) (g : Word) : State :=
  if page = noPage then s else s.modKv c fun k => { k with reclaim := k.reclaim ++ [(page, g)] }

/-- Is some active walk older than a generation (R319, R320)? -/
def olderWalk (s : State) (c : Nat) (g : Word) : Bool := (s.kv c).walks.any fun w => genNewer g w

/-- Pages and drained staging pages whose generation no active walk is older than return to use, in order (R320,
R324). -/
def reclaim (s : State) (c : Nat) : Nat → State
  | 0 => s
  | n + 1 => match (s.kv c).reclaim with
    | [] => s
    | (p, g) :: r => if s.olderWalk c g then s
        else ((s.modKv c fun k => { k with reclaim := r }).givePage c p).reclaim c n

def stageOf (s : State) (c core : Nat) : Stage := SMap.get Stage.reset (s.kv c).stage core
def setStage (s : State) (c core : Nat) (x : Stage) : State :=
  s.modKv c fun k => { k with stage := SMap.set Stage.reset k.stage core x }

end State

/-- One of the two pages of a Staging Buffer, and the buffer with it changed. -/
def Stage.page (x : Stage) (second : Bool) : StagePage := if second then x.b else x.a
def Stage.setPage (x : Stage) (second : Bool) (p : StagePage) : Stage := if second then { x with b := p } else { x with a := p }

namespace State

/-- Address of a staging page (R323 and the layout above it). -/
def stageAddr (s : State) (c core : Nat) (second : Bool) : Nat :=
  cmemBase c + s.fld .KVP_STAGE_OFF c 23 12 * 4096 + core * 544768 + (if second then 272384 else 0)

/-- Element, Shift and Base addresses of row `j` of a page laid out at `page` with its Side Block at `side` (R313). -/
def rowAddrs (page side j : Nat) : Nat × Nat × Nat := (page + j * 1024, side + j * 16, side + 4096 + j)

/-- Those of a slot of a pool page, and of a staging row. -/
def slotAddrs (s : State) (c page j : Nat) : Nat × Nat × Nat :=
  rowAddrs (s.kvPoolBase c + page * 262144) (s.kvSideBase c + page * 8192) j
def stagedAddrs (s : State) (c core : Nat) (second : Bool) (j : Nat) : Nat × Nat × Nat :=
  rowAddrs (s.stageAddr c core second) (s.stageAddr c core second + 262144) j
def tagAddr (s : State) (c core : Nat) (second : Bool) (j : Nat) : Nat := s.stageAddr c core second + 270336 + 8 * j

/-- A row tag: sequence, token and VALID. -/
def tagAt (s : State) (c core : Nat) (second : Bool) (j : Nat) : Nat × Nat × Bool :=
  let t := s.mem.rd64 (s.tagAddr c core second j)
  (bits t 17 0, bits t 40 18, bit t 41)

def tagWord (seq tok : Nat) (v : Bool) : List Byte := natLe 8 (seq + tok * 2 ^ 18 + (if v then 2 ^ 41 else 0))

/-- Bytes of a row's Shifts. -/
def rowShiftBytes (rank gs : Nat) : Nat := ceilDiv (ceilDiv rank gs) 2

/-- Rank and group length of a sequence. -/
def seqShape (s : State) (c seq : Nat) : Nat × Nat :=
  let w := s.seqNow c seq
  (seqRank w, 32 * 2 ^ seqGsize w)

/-! Staging (R324, R328, R329). -/

/-- Make the other staging page active when it is free and the active one takes no more rows: it is full, or its flush has been
taken up (R324). -/
def switchStage (s : State) (c core : Nat) : State :=
  let x := s.stageOf c core
  let o := x.page (!x.active)
  let p := x.page x.active
  if (p.fill = 256 ∨ p.st ≠ .filling) ∧ o.st = .filling ∧ o.fill = 0 then
    s.setStage c core { x.setPage x.active { p with st := if p.st = .filling then .flushing else p.st } with active := !x.active }
  else s

/-- Stage row `j` of S, read from an image, as token `tok` (R323, R324); none when no page takes it (R329). A row whose staging
addresses are reserved is not written, which the flag says (R283). -/
def stageRow (s : State) (img : Memory) (core seq : Nat) (d : Desc) (j tok : Nat) : Option (State × Bool) :=
  let c := clOfCore core
  let k := core % 8
  let s := s.switchStage c k
  let x := s.stageOf c k
  let p := x.page x.active
  if p.st ≠ .filling ∨ 256 ≤ p.fill then none
  else
    let (rank, gs) := s.seqShape c seq
    let els := (List.range rank).map fun o => BitVec.ofNat 8 (Tile.code img core d j o)
    let sh := (List.range (ceilDiv rank gs)).map fun g => Tile.shiftOf img core d j (g * gs)
    let shn := sh.zipIdx.foldl (fun a y => a + y.1 * 16 ^ y.2) 0
    let (ea, sa, ba) := s.stagedAddrs c k x.active p.fill
    let ta := s.tagAddr c k x.active p.fill
    let lost := !(inMap ea rank && inMap sa 16 && inMap ba 1 && inMap ta 8)
    let t := if lost then s
      else (((s.store ea els).store sa (natLe 16 shn)).store ba [BitVec.ofNat 8 (Tile.baseRaw d)]).store ta (tagWord seq tok true)
    some ((t.setStage c k (x.setPage x.active { p with fill := p.fill + 1 })).switchStage c k, lost)

/-- Is a flush of a core stalled (R328)? -/
def flushStalled (s : State) (c core : Nat) : Bool :=
  let x := s.stageOf c core
  x.a.st == .stalled || x.b.st == .stalled

/-- Discard the staged rows of a sequence at or beyond a token (R322). -/
def discardStaged (s : State) (c seq n : Nat) : State :=
  (List.range 8).foldl (fun s core =>
    [false, true].foldl (fun s sec =>
      let p := (s.stageOf c core).page sec
      if p.st = .draining then s
      else (List.range p.fill).foldl (fun s j =>
        let t := s.tagAt c core sec j
        if t.2.2 && t.1 == seq && decide (n ≤ t.2.1) then s.store (s.tagAddr c core sec j) (tagWord t.1 t.2.1 false) else s) s) s) s

/-- What a flush under way will not write any more, because its sequence was cut at token `n`; pages it allocated
there are freed. -/
def dropUpdates (s : State) (c seq n : Nat) (g : Word) : State :=
  (List.range 8).foldl (fun s core =>
    [false, true].foldl (fun s sec =>
      let x := s.stageOf c core
      let p := x.page sec
      let gone := p.upd.filter fun u => u.seq == seq && decide (n ≤ 256 * u.idx)
      let p' := { p with
        upd := p.upd.filter fun u => !(u.seq == seq && decide (n ≤ 256 * u.idx))
        lens := SMap.set 0 p.lens seq (min n (SMap.get 0 p.lens seq)) }
      (gone.filter fun u => u.fresh).foldl (fun s u => s.freePage c u.page g) (s.setStage c core (x.setPage sec p'))) s) s

/-! The caches of the tables (R321). -/

/-- A walk looks a list entry up in the look-aside buffer: a miss counts and installs the 16 entries of its block. A bypass
counts and installs nothing (R321, R341). -/
def labLook (s : State) (c seq k : Nat) (bypass : Bool) : State :=
  let x := s.kv c
  let held := fun (v : Option (Nat × Nat)) => (List.range 32).find? fun i => SMap.get none x.lab i == v
  if bypass then s.countSat .KVP_LAB_MISS c 1
  else match held (some (seq, k / 16)) with
    | some i => s.setKv c { x with labTree := plruTouch 5 x.labTree i }
    | none =>
      let i := (held none).getD (plruVictim 5 x.labTree)
      (s.setKv c { x with lab := SMap.set none x.lab i (some (seq, k / 16)), labTree := plruTouch 5 x.labTree i }).countSat
        .KVP_LAB_MISS c 1

/-- A walk looks a sequence up in the Sequence Cache, unless it bypasses it; which of its entries gives way is open (R321). -/
def seqLook (s : State) (c seq : Nat) (bypass : Bool) : State :=
  let m := (s.kv c).seqCache
  if bypass || m.contains seq then s
  else
    let r := s.drawWord
    let m := if 64 ≤ m.length then m.eraseIdx (r.2.toNat % m.length) else m
    r.1.modKv c fun x => { x with seqCache := m ++ [seq] }

/-! Flushes (R324, R328). -/

/-- Write row `j` of a staging page to its slot, allocating a page for an entry that is still none; none when the Free
Queue is empty. -/
def flushRow (s : State) (c core : Nat) (sec : Bool) (j : Nat) : Option State :=
  let (seq, tok, v) := s.tagAt c core sec j
  let x := s.stageOf c core
  let p := x.page sec
  if !v ∨ seqState (s.seqNow c seq) ≠ 1 then some s
  else
    let idx := tok / 256
    let (rank, gs) := s.seqShape c seq
    let (ea, sa, ba) := s.stagedAddrs c core sec j
    let base := sext 8 (s.mem.rd ba).toNat
    let cur := s.entryAt (s.listAddr c seq idx) (s.kv c).gen
    let got : Option (State × PageUpd) :=
      match p.upd.find? fun u => u.seq == seq && u.idx == idx with
      | some u => some (s, { u with pbmax := max u.pbmax base })
      | none =>
        let s := (s.seqLook c seq false).labLook c seq idx false
        if cur.1 ≠ noPage then some (s, ⟨seq, idx, cur.1, max cur.2 base, false⟩)
        else (s.takePage c).map fun t => (t.1, ⟨seq, idx, t.2, base, true⟩)
    match got with
    | none => none
    | some (s, u) =>
      let (pe, ps, pb) := s.slotAddrs c u.page (tok % 256)
      let s := (s.kvStore pe (s.mem.rdN ea rank)).kvStore ps
        (s.mem.rdN sa (rowShiftBytes rank gs) ++ List.replicate (16 - rowShiftBytes rank gs) 0#8)
      let s := s.kvStore pb [s.mem.rd ba]
      let s := if u.fresh && !(p.upd.any fun y => y.seq == seq && y.idx == idx) then
          s.kvStore (s.kvSideBase c + u.page * 8192 + 4352) (List.replicate 3840 0#8) else s
      let p' := { p with
        upd := u :: p.upd.filter fun y => !(y.seq == seq && y.idx == idx)
        lens := SMap.set 0 p.lens seq (max (tok + 1) (SMap.get 0 p.lens seq)) }
      some (s.setStage c core (x.setPage sec p'))

/-- Write the rows of a page from row `j`; the row at which it stalls, if it does. -/
def flushRows (s : State) (c core : Nat) (sec : Bool) (j : Nat) : Nat → State × Option Nat
  | 0 => (s, none)
  | n + 1 => match s.flushRow c core sec j with
    | none => (s, some j)
    | some t => t.flushRows c core sec (j + 1) n

/-- Complete a flush: list entries and lengths are written in one new generation, and the page drains (R324). -/
def flushEnd (s : State) (c core : Nat) (sec : Bool) : State :=
  let g := (s.kv c).gen + 1
  let x := s.stageOf c core
  let p := x.page sec
  let s := p.upd.foldl (fun s u => s.putList c u.seq u.idx u.page u.pbmax g) s
  let s := p.lens.foldl (fun s l =>
    let seq := l.1
    s.putHalf c seq (s.seqNow c seq) (max l.2 (s.seqLen c seq)) (s.seqAlen c seq) (s.seqList c seq) (s.seqCap c seq) g) s
  let x := s.stageOf c core
  let s := s.setStage c core (x.setPage sec ⟨.draining, 0, 0, [], [], g⟩)
  s.modKv c fun k => { k with gen := g }

/-- Would writing a generation over a sequence's half and the list entries at some addresses overwrite what an older active
walk needs (R319)? -/
def heldBy (s : State) (c seq : Nat) (entries : List Nat) : Bool :=
  let h := s.seqHalf c seq (s.kv c).gen
  s.olderWalk c (s.seqW c seq h 0) || entries.any fun a => s.olderWalk c (s.mem.rd32 (a + 4))

/-- Flush a staging page from its next row, stalling where no page is free. A flush that stalls at another row than before has
stalled anew (R324, R328). -/
def flushFrom (s : State) (c core : Nat) (sec : Bool) : State :=
  let x := s.stageOf c core
  let p := x.page sec
  let was := p.row
  let (s, stop) := s.flushRows c core sec was (256 - was)
  let x := s.stageOf c core
  let p := x.page sec
  match stop with
  | none => s.flushEnd c core sec
  | some j =>
    let first := p.st != .stalled || j != was
    let s := s.setStage c core (x.setPage sec { p with st := .stalled, row := j })
    if first then ((s.setFlag .KVP_STATUS c 31).countSat .KVP_EXHAUST_COUNT c 1).emit (.kvExhausted c) else s

/-- Drained staging pages return to use once no walk older than their flush is active (R324). -/
def drainStages (s : State) (c : Nat) : State :=
  (List.range 8).foldl (fun s k => [false, true].foldl (fun s sec =>
    let x := s.stageOf c k
    let p := x.page sec
    if p.st = .draining ∧ !(s.olderWalk c p.gen) then s.setStage c k (x.setPage sec .reset) else s) s) s

/-- Sequences and list indices that a page's rows will rewrite. -/
def flushTargets (s : State) (c k : Nat) (sec : Bool) : List (Nat × Nat) :=
  ((List.range 256).filterMap fun j =>
    let t := s.tagAt c k sec j
    if t.2.2 then some (t.1, t.2.1 / 256) else none).eraseDups

/-- Would flushing a page overwrite what an older walk needs (R319)? -/
def flushHeld (s : State) (c k : Nat) (sec : Bool) : Bool :=
  (s.flushTargets c k sec).any fun t => s.heldBy c t.1 [s.listAddr c t.1 t.2]

end State

/-- The page to flush next: the page that filled first, which is the one not active; the active one, when it is full, only while
no flush of the other has stalled (R324). -/
def flushNext (x : Stage) : Option Bool :=
  let full := fun sec => (x.page sec).st == .flushing || ((x.page sec).fill == 256 && (x.page sec).st == .filling)
  if full (!x.active) then some (!x.active)
  else if full x.active && (x.page (!x.active)).st != .stalled then some x.active
  else none

namespace State

/-- Where both staging pages are full, the page that filled first is flushed while the instruction stages: its rows leave for their
slots, and it returns to use if no older walk is active. One that must be held, or stalls, stays (R319, R324, R328). -/
def flushFull (s : State) (c core : Nat) : State :=
  let x := s.stageOf c core
  match flushNext x with
  | none => s.drainStages c
  | some sec =>
    if s.flushHeld c core sec then s
    else ((s.setStage c core (x.setPage sec { x.page sec with st := .flushing })).flushFrom c core sec).drainStages c

/-- Stage `n` rows from row `j`: whether a row found both pages full with neither flushed, and whether one met a reserved address. -/
def stageRows (s : State) (img : Memory) (core seq : Nat) (d : Desc) (tok : Nat) (j : Nat) : Nat → State × Bool × Bool
  | 0 => (s, false, false)
  | n + 1 =>
    let u := match s.stageRow img core seq d j (tok + j) with
      | some t => (t.1, some t.2)
      | none =>
        let f := s.flushFull (clOfCore core) (core % 8)
        match f.stageRow img core seq d j (tok + j) with
        | some t => (t.1, some t.2)
        | none => (f, none)
    match u.2 with
    | none => (u.1, true, false)
    | some lost =>
      let r := u.1.stageRows img core seq d tok (j + 1) n
      (r.1, r.2.1, lost || r.2.2)

/-! Update commands (R322). -/

/-- A command ends with a result (R322, R340). -/
def kvResult (s : State) (c : Nat) (st : Status) : State :=
  let s := (s.setFld .KVP_CMD_RESULT c 31 24 st.num).clrFlag .KVP_CMD_RESULT c 0
  if st = .faultAddress then s.setFlag .KVP_STATUS c 28 else s

def kvSeq (s : State) (c : Nat) : Nat := s.fld .KVP_CMD0 c 17 0

/-- Entries of a sequence's list that hold a page, at or beyond an index. -/
def heldPages (s : State) (c seq k0 : Nat) : List (Nat × Nat) :=
  ((List.range (s.seqCap c seq)).filter fun k => decide (k0 ≤ k)).filterMap fun k =>
    let p := (s.listW c seq k 0).toNat
    if p = noPage then none else some (k, p)

/-- Free the pages of some list entries, which become none; their `PBMAX` stands. -/
def dropPages (s : State) (c seq : Nat) (xs : List (Nat × Nat)) (g : Word) : State :=
  xs.foldl (fun s x => (s.putList c seq x.1 noPage (sext 8 (bits (s.listW c seq x.1 3) 7 0)) g).freePage c x.2 g) s

/-- A performed command makes one generation. -/
def kvDone (s : State) (c : Nat) (g : Word) : State := (s.modKv c fun k => { k with gen := g, held := false }).kvResult c .ok

/-- Hold a command for older walks (R319). -/
def kvHold (s : State) (c : Nat) : State :=
  (s.modKv c fun k => { k with held := true }).setFlag .KVP_CMD_RESULT c 0

/-- Perform a command that rewrites a sequence and the list entries at some addresses, or hold it. -/
def kvRun (s : State) (c seq : Nat) (entries : List Nat) (f : State → Word → State) : State :=
  if s.heldBy c seq entries then s.kvHold c
  else
    let g := (s.kv c).gen + 1
    (f s g).kvDone c g

/-- Addresses of some entries of a sequence's list. -/
def listAddrs (s : State) (c seq : Nat) (idxs : List Nat) : List Nat := idxs.map (s.listAddr c seq)

def kvOpen (s : State) (c : Nat) : State :=
  let seq := s.kvSeq c
  let g := s.fld .KVP_CMD1 c 12 11
  let rank := s.fld .KVP_CMD1 c 10 0
  let list := (s.rd .KVP_CMD2 c).toNat
  let cap := s.fld .KVP_CMD3 c 14 0
  let ok := decide (seq < s.kvSeqCount c) && seqState (s.seqNow c seq) == 0 && decide (g ≤ 2)
    && rank % (32 * 2 ^ g) == 0 && decide (32 ≤ rank ∧ rank ≤ 1024) && decide (1 ≤ cap ∧ cap ≤ 16384)
    && list % 256 == 0 && decide (64 * s.kvSeqCount c + 4 * s.kvPages c ≤ list)
    && decide (list + 16 * cap ≤ (s.rd .KVP_TABLE_SIZE c).toNat * 4096)
  if !ok then s.kvResult c .faultAddress
  else s.kvRun c seq ((List.range cap).map fun k => s.kvTableBase c + list + 16 * k) fun s n =>
    let s := s.putHalf c seq (BitVec.ofNat 32 (2 ^ 30 + g * 2 ^ 28 + rank)) 0 0 list cap n
    (List.range cap).foldl (fun s k =>
      let a := s.kvTableBase c + list + 16 * k
      s.putEntry a noPage (sext 8 (s.mem.rd (a + 12)).toNat) n) s

def kvTrunc (s : State) (c : Nat) : State :=
  let seq := s.kvSeq c
  let n := s.fld .KVP_CMD1 c 22 0
  let w1 := s.seqNow c seq
  if !(decide (seq < s.kvSeqCount c) && seqState w1 == 1 && decide (n ≤ s.seqAlen c seq)) then s.kvResult c .faultAddress
  else
    let xs := s.heldPages c seq (ceilDiv n 256)
    s.kvRun c seq (s.listAddrs c seq (xs.map (·.1))) fun s g =>
      let s := ((s.discardStaged c seq n).dropUpdates c seq n g).dropPages c seq xs g
      s.putHalf c seq w1 (min (s.seqLen c seq) n) n (s.seqList c seq) (s.seqCap c seq) g

def kvClose (s : State) (c : Nat) : State :=
  let seq := s.kvSeq c
  let w1 := s.seqNow c seq
  if !(decide (seq < s.kvSeqCount c) && (seqState w1 == 1 || seqState w1 == 2)) then s.kvResult c .faultAddress
  else
    let xs := s.heldPages c seq 0
    s.kvRun c seq (s.listAddrs c seq (xs.map (·.1))) fun s g =>
      let s := ((s.discardStaged c seq 0).dropUpdates c seq 0 g).dropPages c seq xs g
      s.putHalf c seq (setBits w1 31 30 0) (s.seqLen c seq) (s.seqAlen c seq) (s.seqList c seq) (s.seqCap c seq) g

def kvOffload (s : State) (c : Nat) : State :=
  let seq := s.kvSeq c
  let w1 := s.seqNow c seq
  if !(decide (seq < s.kvSeqCount c) && seqState w1 == 1 && s.seqAlen c seq == s.seqLen c seq) then
    s.kvResult c .faultAddress
  else
    let xs := s.heldPages c seq 0
    s.kvRun c seq (s.listAddrs c seq (xs.map (·.1))) fun s g =>
      ((s.dropUpdates c seq 0 g).dropPages c seq xs g).putHalf c seq (setBits w1 31 30 2) (s.seqLen c seq) (s.seqAlen c seq) (s.seqList c seq)
        (s.seqCap c seq) g

def kvAdopt (s : State) (c : Nat) : State :=
  let seq := s.kvSeq c
  let n := s.fld .KVP_CMD1 c 22 0
  let w1 := s.seqNow c seq
  let k := ceilDiv n 256
  if !(decide (seq < s.kvSeqCount c)
      && ((seqState w1 == 2 && s.seqLen c seq == n) || (seqState w1 == 1 && s.seqAlen c seq == 0))
      && decide (k ≤ s.seqCap c seq)) then s.kvResult c .faultAddress
  else if (s.kv c).freeCount < k then s.kvResult c .pageExhausted
  else s.kvRun c seq (s.listAddrs c seq (List.range k)) fun s g =>
    let s := (List.range k).foldl (fun s i => match s.takePage c with
      | some (t, p) => t.putList c seq i p (sext 8 (bits (s.listW c seq i 3) 7 0)) g
      | none => s) s
    s.putHalf c seq (setBits w1 31 30 1) n n (s.seqList c seq) (s.seqCap c seq) g

/-- Bytes of a range become 0. -/
def zeroRange (m : Memory) (lo hi : Nat) : Memory := m.filter fun x => decide (x.1 < lo) || decide (hi ≤ x.1)

/-- RESET (R322, R337). -/
def kvReset (s : State) (c : Nat) : State :=
  if s.running c ∨ (s.kv c).walks ≠ [] ∨ s.kvSeq c ≠ 0 ∨ s.fld .KVP_CMD0 c 23 18 ≠ 0 ∨ s.rd .KVP_CMD1 c ≠ 0
      ∨ s.rd .KVP_CMD2 c ≠ 0 ∨ s.rd .KVP_CMD3 c ≠ 0 then s.kvResult c .faultAddress
  else
    let base := s.kvTableBase c
    let n := 64 * s.kvSeqCount c
    let s := s.applyMem (zeroRange s.mem base (base + n)) [(base, n)]
    let s := (List.range (s.kvPages c)).foldl (fun s p => s.kvStore32 (s.kvFreeBase c + 4 * p) (BitVec.ofNat 32 p)) s
    let s := s.modKv c fun k => { k with gen := 0, alen := [], freeHead := 0, freeCount := s.kvPages c, reclaim := []
                                         held := false, stage := [], lab := [], labTree := 0, seqCache := [] }
    s.kvResult c .ok

/-- The command in `KVP_CMD0` to `KVP_CMD3` (R322). -/
def kvCommand (s : State) (c : Nat) : State :=
  match s.fld .KVP_CMD0 c 31 24 with
  | 1 => s.kvOpen c
  | 2 => s.kvTrunc c
  | 3 => s.kvClose c
  | 4 => s.kvOffload c
  | 5 => s.kvAdopt c
  | 6 => s.kvReset c
  | _ => s.kvResult c .versionMismatch

/-! Reads (R326, R327). -/

/-- Was a sequence last updated after a walk began (R318, R321)? -/
def walkOld (s : State) (c seq : Nat) (g : Word) : Bool := genNewer (s.seqW c seq (s.seqHalf c seq (s.kv c).gen) 0) g

/-- The staging row that holds a token, as a walk of start generation `g` finds it: rows of a page that was flushed after the walk
began, and rows discarded after it began, stand for it (R318, R326). -/
def stagedRow (s : State) (c seq tok : Nat) (g : Word) : Option (Nat × Nat × Nat) :=
  (List.range 8).findSome? fun core => [false, true].findSome? fun sec =>
    let p := (s.stageOf c core).page sec
    let n := if p.st = .draining then (if genNewer p.gen g then 256 else 0) else p.fill
    ((List.range n).find? fun j =>
      let t := s.tagAt c core sec j
      (t.2.2 || s.walkOld c seq g) && t.1 == seq && t.2.1 == tok).map fun j => s.stagedAddrs c core sec j

/-- Where a token's row lies as a walk of start generation `g` that found `alen` tokens resolves it, with its Base, and the
bound that its page gives to the tile's Base (R318, R326, R327); none for a row at a reserved address (R283). -/
def kvRow (s : State) (c seq tok : Nat) (g : Word) (alen : Nat) : Option ((Nat × Nat × Nat) × Int × Int) :=
  let h := s.seqHalf c seq g
  let ok := fun (a : Nat × Nat × Nat) => inMap a.1 1024 && inMap a.2.1 16 && inMap a.2.2 1
  if s.kvSeqCount c ≤ seq ∨ seqState (s.seqW c seq h 1) ≠ 1 ∨ alen ≤ tok then none
  else if tok < bits (s.seqW c seq h 2) 22 0 then
    let e := s.entryAt (s.kvTableBase c + (s.seqW c seq h 4).toNat + 16 * (tok / 256)) g
    let a := s.slotAddrs c e.1 (tok % 256)
    if ok a then some (a, sext 8 (s.mem.rd a.2.2).toNat, e.2) else none
  else
    (s.stagedRow c seq tok g).bind fun a =>
      let b := sext 8 (s.mem.rd a.2.2).toNat
      if ok a then some (a, b, b) else none

end State

end Sys2Proof.Machine
end

