-- ==== Sys2Proof/Machine/Move.lean ====
section
/-!
DEFINITION. How the Move Engine moves bytes: segments, sources and destinations in this device, in host memory and in a
peer, and what each of its opcodes does to a source image (08 R219, R220; 11 R299 to R306; 12 R323 to R329;
13 R345, R346, R358).
-/

namespace Sys2Proof.Machine

/-- The first `n` bytes of some ranges. -/
def takeRanges : Nat → List (Nat × Nat) → List (Nat × Nat)
  | _, [] => []
  | n, r :: rs => if n = 0 then [] else (r.1, min n r.2) :: takeRanges (n - r.2) rs

/-- Bytes laid at some ranges in turn. -/
def imageOf : Memory → List (Nat × Nat) → List Byte → Memory
  | m, [], _ => m
  | m, r :: rs, bs => imageOf (m.wrN r.1 (bs.take r.2)) rs (bs.drop r.2)

/-- The bytes at some ranges. -/
def bytesOf (m : Memory) (rs : List (Nat × Nat)) : List Byte := rs.flatMap fun r => m.rdN r.1 r.2

namespace State

/-! Sources. -/

/-- Read ranges of a peer: one READ_REQ for each segment (R299, R346). -/
def readPeer (s : State) (core eng seq dev : Nat) (rs : List (Nat × Nat)) : State × List (Nat × Nat) :=
  (cutRanges 4096 rs).foldl (fun x r =>
    let key := flowKey (dieOfCore core) dev (addrDie r.1)
    let tag := x.1.fab.tag
    let ops := BitVec.ofNat 96 (r.1 % 2 ^ 48 + (tag * 2 ^ 16 + ceilDiv r.2 4) * 2 ^ 64)
    let y := x.1.queueFrame key 1 ops [] false (some (core, eng, seq))
    (y.1.modFab fun f =>
      { f with tag := (tag + 1) % 65536, reads := f.reads ++ [⟨tag, key, y.2.2, r.1, r.2, (core, eng, seq)⟩] },
     x.2 ++ [y.2])) (s, [])

/-- What a source descriptor reads from inside the device, or from host memory through `ext`. -/
def sourceImage (s : State) (d : Desc) (ext : List Byte) : Memory :=
  if Tile.space d = 4 then imageOf [] (Tile.exact d) ext else s.mem

/-! Destinations. -/

/-- One range goes to host memory through a window that is granted for writing; the flag says that it is (R416). -/
def putHostRange (s : State) (core : Nat) (r : Nat × Nat) (img : Memory) : State × Bool :=
  let (w, o) := hostWinOf r.1
  let p := s.partOf (clOfCore core)
  match s.hostWin p w with
  | none => (s, false)
  | some h =>
    if s.hostRangeOk p true r.1 r.2 then ({ s with hostMem := s.hostMem.wrN (h.base.toNat + o) (img.rdN r.1 r.2) }, true)
    else (s, false)

/-- Bytes go to host memory; a segment whose window is gone is not written (R416). -/
def putHost (s : State) (core : Nat) (rs : List (Nat × Nat)) (img : Memory) : State × Bool :=
  (cutRanges 4096 rs).foldl (fun x r =>
    let y := x.1.putHostRange core r img
    (y.1, x.2 && y.2)) (s, true)

/-- WRITE frames of at most 4,096 bytes to a peer; the last one asks for the notify of a COPY (R220, R346). -/
def putPeer (s : State) (core eng seq : Nat) (d : Desc) (rs : List (Nat × Nat)) (img : Memory)
    (notify : Option (Nat × Nat)) : State × List (Nat × Nat) :=
  let segs := cutRanges 4096 rs
  let segs := if segs = [] ∧ notify.isSome then [(Tile.addr d, 0)] else segs
  segs.zipIdx.foldl (fun x r =>
    let a := r.1.1
    let last := r.2 + 1 == segs.length
    let nt := match notify with
      | some (f, e) => if last then f * 2 ^ 16 + e * 2 ^ 26 else 0
      | none => 0
    let ops := BitVec.ofNat 96 (a % 2 ^ 48 + nt * 2 ^ 32)
    let y := x.1.queueFrame (flowKey (dieOfCore core) (Tile.devid d) (addrDie a)) 0 ops (img.rdN a r.1.2)
      (last && notify.isSome) (some (core, eng, seq))
    (y.1, x.2 ++ [y.2])) (s, [])

/-- What an image written for a destination starts from. -/
def destBase (s : State) (d : Desc) : Memory := if Tile.space d ≤ 2 then s.mem else []

end State

/-- What placing data did: the state, statuses met, frames to wait for, and segments that have not landed, with their
bytes. -/
structure Moved where
  st : State
  met : List Status
  waits : List (Nat × Nat)
  segs : List (Nat × Nat)
  img : Memory

/-- Nothing is left to wait for. -/
def Moved.of (st : State) (met : List Status) : Moved := ⟨st, met, [], [], []⟩

namespace State

/-- Ranges of an image land in memory of this device or of the host: a write that reaches a Table Region, or a window that is
gone, ends the instruction with FAULT_ADDRESS (R315, R416). -/
def landRanges (s : State) (core : Nat) (d : Desc) (rs : List (Nat × Nat)) (img : Memory) : State × List Status :=
  if Tile.space d = 4 then
    let r := s.putHost core rs img
    (r.1, keepIf (!r.2) [Status.faultAddress])
  else
    let r := s.commitMem img (rs.map fun r => (phys core (Tile.space d) r.1, r.2))
    (r.1, keepIf r.2 [Status.faultAddress])

/-- The old bytes of some ranges of a destination stay. -/
def keepRanges (s : State) (core : Nat) (d : Desc) (img : Memory) (rs : List (Nat × Nat)) : Memory :=
  rs.foldl (fun m r => m.copyInto s.mem (phys core (Tile.space d) r.1) (phys core (Tile.space d) r.1) r.2) img

/-- The bytes of some ranges of an image of a destination, at the addresses of its space. -/
def segBytes (core : Nat) (d : Desc) (img : Memory) (rs : List (Nat × Nat)) : Memory :=
  rs.foldl (fun m r => m.wrN r.1 (img.rdN (if Tile.space d ≤ 2 then phys core (Tile.space d) r.1 else r.1) r.2)) []

/-- An image's ranges land at a destination: memory of this device, host memory, or a peer, which is waited for
(R220, R299). The segments that `apart` numbers land in steps of their own. -/
def putDest (s : State) (core eng seq : Nat) (apart : List Nat) (d : Desc) (rs : List (Nat × Nat)) (img : Memory)
    (notify : Option (Nat × Nat)) : Moved :=
  if Tile.space d = 3 then
    let r := s.putPeer core eng seq d rs img notify
    ⟨r.1, [], r.2, [], []⟩
  else if apart = [] then
    let r := s.landRanges core d rs img
    Moved.of r.1 r.2
  else
    let xs := (cutRanges 4096 rs).zipIdx
    let later := (xs.filter fun x => apart.contains x.2).map (·.1)
    let now := (xs.filter fun x => !apart.contains x.2).map (·.1)
    let r := s.landRanges core d now (if Tile.space d = 4 then img else s.keepRanges core d img later)
    ⟨r.1, r.2, [], later, segBytes core d img later⟩

/-- A descriptor names a peer that cannot be reached (R358). -/
def unreachable (s : State) (core : Nat) (d : Desc) : Bool :=
  Tile.space d == 3 && !s.reachable (dieOfCore core) (Tile.devid d)

end State

/-- What an opcode does with a source image; the list numbers the segments that land in steps of their own. -/
abbrev MoveOp := State → Nat → Nat → Nat → List Nat → TWord → List Desc → Memory → Moved

/-! COPY (R220). -/

/-- The notify of a COPY that stays on this device, an ADDF of 1 (R220, R242, R248): the target die's ranges are
tested, also when it is the own die (log entry 29). -/
def copyNotify (s : State) (core f ndie : Nat) : State × List Status :=
  let c := clOfCore core
  if ndie = dieOfCore core then
    if s.rangeHolders ndie f = [] then (s.setterRefused ndie f, [.faultAddress])
    else if s.localSetterOk c true f core 5 then (s.updateFlag c true f true 1, [])
    else (s, [.faultAddress])
  else
    let r := s.remoteUpdate ndie f s.devId (dieOfCore core) true 1
    (r.1, keepIf (!r.2) [Status.faultAddress])

/-- Every byte has landed: no segment failed all its sendings, and no write was refused (R220). -/
def landedAll (met : List Status) : Bool := !met.contains .faultAddress && !met.contains .restored

/-- A COPY whose every byte has landed on this device or in host memory makes its notify. -/
def copyLanded (s : State) (core : Nat) (w : TWord) (b : Desc) : State × List Status :=
  if bit w 68 && Tile.space b != 3 then copyNotify s core (bits w 67 58) (bits w 57 56) else (s, [])

def copyOp : MoveOp := fun s core eng seq apart w ds img =>
  let a := ds.getD 0 0
  let b := ds.getD 1 0
  let m := copyTile img (s.destBase b) core a b
  let r := s.putDest core eng seq apart b (Tile.exact b) m
    (if bit w 68 && Tile.space b == 3 then some (bits w 67 58, bits w 57 56) else none)
  if r.segs = [] && landedAll r.met then
    let k := copyLanded r.st core w b
    { r with st := k.1, met := r.met ++ k.2 }
  else r

/-- PREFETCH copies as COPY does, with no notify (R301). -/
def prefetchOp : MoveOp := fun s core eng seq apart _ ds img =>
  let a := ds.getD 0 0
  let b := ds.getD 1 0
  s.putDest core eng seq apart b (Tile.exact b) (copyTile img (s.destBase b) core a b) none

/-- FURL (R304, R305). -/
def furlOp : MoveOp := fun s core eng seq apart _ ds img =>
  let a := ds.getD 0 0
  let b := ds.getD 1 0
  if Tile.empty a then Moved.of s []
  else
    let bs := furlBytes img core a
    let src := Tile.lines a * Tile.lineBytes a + Tile.shiftBytes a
    let s := (s.countWrap .XFR_FURL_IN core (ceilDiv src 256)).countWrap .XFR_FURL_OUT core (ceilDiv bs.length 256)
    s.putDest core eng seq apart b (takeRanges bs.length (Tile.pieces b)) (putBytes (s.destBase b) core b 0 bs) none

/-- Element data and Shift plane of a Furl tile's bytes; none on a decode error (R305, R306). A tile that ends before
its Shift plane does is one. -/
def unfurl (b : Desc) (bs : List Byte) : Option (List Byte × List Byte) :=
  let slen := furlField bs 7
  let body := bs.drop 16
  let total := Tile.lines b * Tile.groups b * Tile.gs b
  if body.length < slen + Tile.shiftBytes b then none
  else (unfurlStream (ceilDiv total 256) total (body.take slen)).map fun e => (e, (body.drop slen).take (Tile.shiftBytes b))

/-- A Furl tile that decodes with an error at its second reading too: its producer writes it again, if it is still logged; the
bytes that stand being what they were, the error is then persistent, and nothing is written (R307, R308; log entry 32). -/
def furlPersistent (s : State) (core : Nat) (a : Desc) : State :=
  if Tile.space a ≤ 2 then
    let p := phys core (Tile.space a) (Tile.addr a)
    (s.recompute (p / 256)).1.restoreFor core p
  else s.modPart (s.partOf (clOfCore core)) fun p => { p with restoreDue := true }

/-- UNFURL (R306). -/
def unfurlOp : MoveOp := fun s core eng seq apart _ ds img =>
  let a := ds.getD 0 0
  let b := ds.getD 1 0
  if Tile.empty b then Moved.of s []
  else
    match unfurl b ((List.range (Tile.rows a * Tile.cols a)).map fun k => byteAt img core a k) with
    | some (els, plane) => s.putDest core eng seq apart b (Tile.exact b) (putUnfurled (s.destBase b) core b els plane) none
    | none => Moved.of (furlPersistent s core a) [.restored]

/-- KVAPPEND stages its rows from the token its log entry names (R283, R323 to R325, R328, R329). -/
def kvappendOp : MoveOp := fun s core eng seq _ w ds img =>
  let c := clOfCore core
  let sq := bits w 76 59
  let tok := match (s.q core eng).log.find? fun e => e.seq == seq with
    | some e => e.aux
    | none => s.seqAlen c sq - bits w 58 43
  let r := s.stageRows img core sq (ds.getD 0 0) tok 0 (bits w 58 43)
  let stalled := keepIf (r.1.flushStalled c (core % 8)) [Status.pageExhausted]
  if r.2.1 then Moved.of ((r.1.setFlag .KVP_STATUS c 30).holdCore core 0x10 eng .faultAddress) (.faultAddress :: stalled)
  else Moved.of r.1 (keepIf r.2.2 [Status.faultAddress] ++ stalled)

end Sys2Proof.Machine
end

