-- ==== Sys2Proof/Machine/Collective.lean ====
section
/-!
DEFINITION. The Collective Engines: collectives, nodes and their homes, narrowed edges, node formation, the fan-out of
results, CSEND and CRECV (13 R362 to R371; 06 R155 to R161).
-/

namespace Sys2Proof.Machine

/-- An entry of a Collective Table (R364). -/
structure Col where
  die : Nat
  cid : Nat
  op : Nat
  depth : Nat
  rs : Bool
  u32 : Bool
  nfmt : Nat
  ngsize : Nat
  nlevel : Nat
  rnarrow : Bool
  members : Nat
  chunks : Nat
  elems : Nat
  smap : Nat
  mmap : Nat

/-- Level of the root (R158). -/
def Col.top (e : Col) : Nat := 6 * e.depth
/-- Blocks of 512 elements (R366). -/
def Col.blocks (e : Col) : Nat := ceilDiv e.elems 512
/-- Elements of a block. -/
def Col.blockLen (e : Col) (b : Nat) : Nat := min 512 (e.elems - 512 * b)
/-- The chunk a block lies in (R366). -/
def Col.chunkOf (e : Col) (b : Nat) : Nat :=
  ((List.range e.chunks).find? fun c => decide (b < State.chunkStart e.blocks e.chunks (c + 1))).getD 0
/-- Does an operation move bytes unchanged (R367)? -/
def Col.moves (e : Col) : Bool := decide (4 ≤ e.op)

/-- A key for a collective of a die. -/
def colKey (die cid : Nat) : Nat := die * 4096 + cid

/-- Children, by relative rank, to which a member at relative rank `q` forwards; a lost child's children stand in its
place (R362). `fuel` bounds the depth of lost children. -/
def fanChildren (lost : Nat → Bool) (p : Nat) : Nat → Nat → List Nat
  | 0, _ => []
  | fuel + 1, q =>
    (((List.range 18).map fun k => 2 ^ k).filter fun x => decide (q < x) && decide (q + x < p)).flatMap fun x =>
      if lost (q + x) then fanChildren lost p fuel (q + x) else [q + x]

/-! Payloads of blocks (R369, R370). -/

/-- The binary32 words of a block, as bytes. -/
def wordsLe (ws : List Word) : List Byte := ws.flatMap fun w => natLe 4 w.toNat

/-- Binary32 words from bytes. -/
def leWords : Nat → List Byte → List Word
  | 0, _ => []
  | n + 1, bs => BitVec.ofNat 32 (leNat (bs.take 4)) :: leWords n (bs.drop 4)

/-- Pairs from bytes. -/
def lePairs : Nat → List Byte → List Pair
  | 0, _ => []
  | n + 1, bs =>
    (BitVec.ofNat 32 (leNat (bs.take 4)), BitVec.ofNat 32 (leNat ((bs.drop 4).take 4))) :: lePairs n (bs.drop 8)

/-- The element format that `NFMT` names (R364). -/
def nfmtOf (n : Nat) : Nat := if n = 3 then 0 else n

/-- A block's payload: its bytes, `BASE` and `ESC`, and what narrowing it counted. -/
structure BlockOut where
  bytes : List Byte
  base : Int
  esc : Bool
  sat : Nat
  van : Nat
  clamped : Bool

/-- Nibbles as bytes, two in a byte, the first low. -/
def packNibbles : List Nat → List Byte
  | [] => []
  | [a] => [BitVec.ofNat 8 (a % 16)]
  | a :: b :: r => BitVec.ofNat 8 (a % 16 + 16 * (b % 16)) :: packNibbles r

/-- The nibbles of some bytes. -/
def unpackNibbles (bs : List Byte) : List Nat := bs.flatMap fun b => [b.toNat % 16, b.toNat / 16]

/-- Narrow a block of s values (R369): a block with a non-finite value goes out as binary32. -/
def narrowBlock (e : Col) (ss : List Word) : BlockOut :=
  if ss.any isNonfinite32 then ⟨wordsLe ss, 0, true, 0, 0, false⟩
  else
    let f := nfmtOf e.nfmt
    let gs := 32 * 2 ^ e.ngsize
    let vs := ss.map dec32
    let raw : Int := match finiteMax vs with
      | .fin _ m x => if m = 0 then 0 else eOf f m x
      | _ => 0
    let base := clampBase raw
    let gr := (List.range (ceilDiv ss.length gs)).map fun g =>
      convGroup f base ((List.range gs).map fun k => if g * gs + k < ss.length then vs[g * gs + k]? else none)
    let codes := gr.flatMap (·.1)
    { bytes := (if f = 0 then packNibbles codes else codes.map (BitVec.ofNat 8)) ++ packNibbles (gr.map (·.2.1))
      base := base
      esc := false
      sat := (gr.map (·.2.2.1)).sum
      van := (gr.map (·.2.2.2)).sum
      clamped := base != raw }

/-- The `n` values of a narrowed block (R38, R369). -/
def widenBlock (e : Col) (n : Nat) (base : Int) (bs : List Byte) : List Word :=
  let f := nfmtOf e.nfmt
  let gs := 32 * 2 ^ e.ngsize
  let total := ceilDiv n gs * gs
  let nb := if f = 0 then total / 2 else total
  let codes := if f = 0 then unpackNibbles (bs.take nb) else (bs.take nb).map (·.toNat)
  let shifts := unpackNibbles (bs.drop nb)
  (List.range n).map fun k =>
    encFlushExact ((decNarrow f (codes.getD k 0)).scale (base - (shifts.getD (k / gs) 0 : Nat)))
where
  /-- A widened narrow value is exact in binary32. -/
  encFlushExact (v : FV) : Word := enc32 v

/-- Is the edge above a child at a level narrowed (R160, R364)? -/
def Col.narrows (e : Col) (level : Nat) : Bool := decide (e.nfmt ≠ 0) && decide (e.nlevel ≠ 31) && decide (e.nlevel ≤ level)

/-- Combine the pairs of two children (R365). -/
def colCombine (e : Col) (x y : Pair) : Pair :=
  match e.op with
  | 0 => combine x y
  | 1 => (if e.u32 then (if x.1.toNat < y.1.toNat then y.1 else x.1) else max32 x.1 y.1, 0)
  | 2 => (x.1 ||| y.1, 0)
  | _ => (BitVec.ofNat 32 (satAdd 16 (bits x.1 15 0) (bits y.1 15 0)
      + satAdd 16 (bits x.1 31 16) (bits y.1 31 16) * 65536), 0)

namespace State

/-- Entry `cid` of a die. -/
def col (s : State) (die cid : Nat) : Col :=
  let w := s.colW die cid
  { die := die, cid := cid, op := bits (w 0) 30 28, depth := bits (w 0) 27 26, rs := bit (w 0) 25, u32 := bit (w 0) 24
    nfmt := bits (w 0) 23 21, ngsize := bits (w 0) 20 19, nlevel := bits (w 0) 18 14, rnarrow := bit (w 0) 13
    members := bits (w 1) 31 14 + 1, chunks := bits (w 1) 13 0 + 1, elems := (w 2).toNat
    smap := (w 3).toNat + bits (w 4) 15 0 * 2 ^ 32, mmap := (w 5).toNat + bits (w 6) 15 0 * 2 ^ 32 }

/-- Rank that holds a shard. -/
def holder (s : State) (e : Col) (j : Nat) : Option Nat :=
  let r := s.mem.rd32 (e.smap + 4 * j)
  if r = 0xFFFFFFFF#32 then none else some r.toNat

/-- Device and die of a rank. -/
def member (s : State) (e : Col) (r : Nat) : Nat × Nat :=
  let w := s.mem.rd32 (e.mmap + 4 * r)
  (bits w 17 0, bits w 19 18)

/-- Is a node present: has one of its shards a holder (R365)? -/
def present (s : State) (e : Col) (h j : Nat) : Bool :=
  (List.range (2 ^ h)).any fun k => (s.holder e (j * 2 ^ h + k)).isSome

/-- Home of a node for a chunk (R366); where that shard is empty, the next held shard of the node in turn. -/
def homeOf (s : State) (e : Col) (h j c : Nat) : Option (Nat × Nat) :=
  ((List.range (2 ^ h)).findSome? fun k => s.holder e (j * 2 ^ h + (c + k) % 2 ^ h)).map (s.member e)

/-- This die's rank in a collective. -/
def rankOf (s : State) (e : Col) : Nat :=
  ((List.range e.members).find? fun r => s.member e r == (s.devId, e.die)).getD 0

/-- Instances of a collective that have completed on a die (R371). -/
def colUses (s : State) (die cid : Nat) : Nat := SMap.get 0 s.fab.uses (colKey die cid)

/-- Is some member reported lost (R371)? -/
def colLost (s : State) (e : Col) : Bool := (List.range e.members).any fun r => s.isLost (s.member e r).1

/-- Encode a block of pairs for an edge or for the result, and count what narrowing found (R368 to R370). -/
def blockOut (s : State) (e : Col) (narrow result : Bool) (ps : List Pair) : State × BlockOut :=
  let ss := ps.map (·.1)
  if e.op = 0 ∧ narrow then
    let b := narrowBlock e ss
    let s := if b.van = 0 then s else (s.countSat .COL_VANISH_COUNT e.die b.van).setFlag .COL_STATUS e.die 30
    let s := if b.clamped then (s.countSat .COL_CLAMP_COUNT e.die b.sat).setFlag .COL_STATUS e.die 29 else s
    (s, b)
  else if e.op = 0 ∧ !result then
    (s, ⟨ps.flatMap fun p => natLe 4 p.1.toNat ++ natLe 4 p.2.toNat, 0, false, 0, 0, false⟩)
  else (s, ⟨wordsLe ss, 0, false, 0, 0, false⟩)

/-- Decode a block. -/
def blockIn (e : Col) (narrow result esc : Bool) (base : Int) (n : Nat) (bs : List Byte) : List Pair :=
  if e.op = 0 ∧ narrow ∧ !esc then (widenBlock e n base bs).map fun w => (w, 0#32)
  else if e.op = 0 ∧ !result ∧ !narrow then lePairs n bs
  else (leWords n bs).map fun w => (w, 0#32)

/-- Operand words of a COLL frame (R346). -/
def colOps (cid level inst node block : Nat) (base : Int) (esc : Bool) : BitVec 96 :=
  BitVec.ofNat 96 (cid + level * 2 ^ 12 + inst % 256 * 2 ^ 17 + node * 2 ^ 32
    + (block + wrapN 8 base * 2 ^ 23 + (if esc then 2 ^ 31 else 0)) * 2 ^ 64)

/-! Results (R370). -/

def addResult (s : State) (x : CBlock) : State := s.modFab fun f => { f with results := f.results ++ [x] }

/-- A member takes a result block and passes it on to its children in the fan-out; members of this device take it in
turn (R362, R370). `q` is the member's rank relative to the root's home `hr`. -/
def fanResult (s : State) (e : Col) (inst block hr : Nat) (b : BlockOut) (n : Nat) : Nat → Nat → State
  | 0, _ => s
  | fuel + 1, q =>
    let me := (s.member e ((q + hr) % e.members)).2
    let s := s.addResult ⟨me, e.cid, inst, e.top, 0, block, blockIn e e.rnarrow true b.esc b.base n b.bytes, [], 0⟩
    let kids := fanChildren (fun x => s.isLost (s.member e ((x + hr) % e.members)).1) e.members 18 q
    kids.foldl (fun s k =>
      let m := s.member e ((k + hr) % e.members)
      if m.1 = s.devId then s.fanResult e inst block hr b n fuel k
      else (s.queueFrame (flowKey me m.1 m.2) 4 (colOps e.cid e.top inst 0 block b.base b.esc) b.bytes false none).1) s

/-! Nodes (R366, R368). -/

/-- The pairs of a node for a block, when its present children have arrived (R365, R368). -/
def formable (s : State) (die cid inst level node block : Nat) : Option (List Pair) :=
  let e := s.col die cid
  let kid := fun j => s.fab.nodes.find? fun x => x.die == die && x.cid == cid && x.inst == inst
    && x.level + 1 == level && x.node == j && x.block == block
  let l := kid (2 * node)
  let r := kid (2 * node + 1)
  let need := fun j => s.present e (level - 1) j
  if (l.isNone && need (2 * node)) || (r.isNone && need (2 * node + 1)) then none
  else match l, r with
    | some a, some b => some (List.zipWith (colCombine e) a.pairs b.pairs)
    | some a, none => some a.pairs
    | none, some b => some b.pairs
    | none, none => none

/-- A node has been formed: its children leave the store, and it counts (R368). -/
def formed (s : State) (die cid inst level node block : Nat) (ps : List Pair) : State :=
  let s := s.modFab fun f => { f with nodes := f.nodes.filter fun x =>
    !(x.die == die && x.cid == cid && x.inst == inst && x.level + 1 == level && x.node / 2 == node && x.block == block) }
  (s.countWrap .COL_NODE_COUNT die 1).flagIf ((s.col die cid).op == 0 && ps.any fun p => isNonfinite32 p.1)
    .COL_STATUS die 31

/-- A block of a node travels to the home of its parent, or, at the root, to every member; a home forms each node whose
present children have arrived. Frames that carry the contribution itself are returned. `fuel` bounds the number of
levels. -/
def raise (s : State) (die cid inst level node block : Nat) (ps : List Pair) (owner : Option (Nat × Nat × Nat)) :
    Nat → State × List (Nat × Nat)
  | 0 => (s, [])
  | fuel + 1 =>
    let e := s.col die cid
    let n := e.blockLen block
    if e.top ≤ level then
      let r := s.blockOut e e.rnarrow true ps
      (r.1.fanResult e inst block (s.rankOf e) r.2 n 20 0, [])
    else
      match s.homeOf e (level + 1) (node / 2) (e.chunkOf block) with
      | none => (s, [])
      | some (dev, dd) =>
        let r := s.blockOut e (e.narrows level) false ps
        let s := r.1
        let b := r.2
        if dev = s.devId then
          let x : CBlock := ⟨dd, cid, inst, level, node, block,
            blockIn e (e.narrows level) false b.esc b.base n b.bytes, [], 0⟩
          let s := s.modFab fun f => { f with nodes := f.nodes ++ [x] }
          if s.colUses dd cid = inst then
            match s.formable dd cid inst (level + 1) (node / 2) block with
            | none => (s, [])
            | some qs => (((s.formed dd cid inst (level + 1) (node / 2) block qs).raise dd cid inst (level + 1) (node / 2)
                block qs none fuel).1, [])
          else (s, [])
        else
          let y := s.queueFrame (flowKey die dev dd) 4 (colOps cid level inst node block b.base b.esc) b.bytes false owner
          (y.1, [y.2])

/-! Bytes moved unchanged: ALLGATHER and ALLTOALL (R367). -/

/-- The bytes of a tile: element data line by line, then its Shift plane. -/
def tileStream (m : Memory) (core : Nat) (d : Desc) : List Byte :=
  bytesOf m ((Tile.exact d).map fun r => (phys core (Tile.space d) r.1, r.2))

/-- Bytes of one block of a piece. -/
def byteBlock : Nat := 2048

/-- A member gives a piece to a member of rank `to`: as blocks of bytes, with the tile's `BASE`. -/
def sendPiece (s : State) (e : Col) (inst dstRank node src : Nat) (base : Nat) (bs : List Byte)
    (owner : Option (Nat × Nat × Nat)) : State × List (Nat × Nat) :=
  let (dev, dd) := s.member e dstRank
  ((chunksOf byteBlock bs).zipIdx).foldl (fun x b =>
    if dev = s.devId then
      (x.1.addResult ⟨dd, e.cid, inst, 0, src, b.2, [], b.1, base⟩, x.2)
    else
      let y := x.1.queueFrame (flowKey e.die dev dd) 4 (colOps e.cid 0 inst node b.2 (sext 8 base) false) b.1 false owner
      (y.1, x.2 ++ [y.2])) (s, [])

/-! CSEND (R367, R371). -/

/-- The instance a contribution belongs to: the first, from the current one, to which its node has not been given. -/
def sendInst (s : State) (die cid level node : Nat) : Nat :=
  let u := s.colUses die cid
  ((List.range 256).find? fun k => !(s.fab.sent.contains (colKey die cid, u + k, level, node))).getD 0 + u

/-- Elements of a tile in ascending index, as pairs. -/
def tilePairs (img : Memory) (core : Nat) (d : Desc) (k0 n : Nat) : List Pair :=
  (List.range n).map fun k =>
    let i := (k0 + k) / Tile.cols d
    let j := (k0 + k) % Tile.cols d
    (BitVec.ofNat 32 (Tile.code img core d i j), if Tile.isPair d then Tile.pairE img core d i j else 0)

/-- An instance leaves the node store of a die (R371). -/
def discardInst (s : State) (die cid inst : Nat) : State := s.modFab fun f => { f with
  nodes := f.nodes.filter fun b => !(b.die == die && b.cid == cid && b.inst == inst)
  results := f.results.filter fun b => !(b.die == die && b.cid == cid && b.inst == inst)
  sent := f.sent.filter fun b => !(b.1 == colKey die cid && b.2.1 == inst) }

/-- An instruction of a collective ends with PEER_LOST at issue: one that has a lost member discards its instance (R358,
R371). -/
def colPeerLost (s : State) (e : Col) (inst : Nat) : Moved :=
  let s := if s.colLost e then s.discardInst e.die e.cid inst else s
  Moved.of (s.setFlag .COL_STATUS e.die 28) [.peerLost]

/-- Devices that a CSEND sends to: destinations of pieces, or the homes of its node's parent; for a node at the root, and for a
CRECV, whom the result comes from or goes to (R366, R367, R370; log entry 121). -/
def colPeers (s : State) (e : Col) (send : Bool) (level node : Nat) : List Nat :=
  let all := (List.range e.members).map fun r => (s.member e r).1
  if e.moves then (if send ∧ e.op ≠ 4 then [(s.member e node).1] else all)
  else if e.top ≤ level ∧ send = true then all
  else (List.range e.chunks).filterMap fun c =>
    (if send then s.homeOf e (level + 1) (node / 2) c else s.homeOf e e.top 0 c).map (·.1)

/-- A collective has a member reported lost, or a peer of the instruction has no valid route (R358, R371). -/
def colCut (s : State) (e : Col) (send : Bool) (level node : Nat) : Bool :=
  s.colLost e || (s.colPeers e send level node).any fun dev => dev != s.devId && !s.reachable e.die dev

def csendOp : MoveOp := fun s core eng seq _ w ds img =>
  let die := dieOfCore core
  let d := ds.getD 0 0
  let cid := bits w 76 65
  let level := bits w 64 60
  let node := bits w 59 42
  let e := s.col die cid
  if Tile.empty d then Moved.of s []
  else if s.colCut e true level node then s.colPeerLost e (s.sendInst die cid level node)
  else
    let inst := s.sendInst die cid level node
    let s := s.modFab fun f => { f with sent := f.sent ++ [(colKey die cid, inst, level, node)] }
    let own := some (core, eng, seq)
    if e.moves then
      let bs := tileStream img core d
      let me := s.rankOf e
      let dsts := if e.op = 4 then List.range e.members else [node]
      let r := dsts.foldl (fun x t =>
        let y := x.1.sendPiece e inst t node me (Tile.baseRaw d) bs own
        (y.1, x.2 ++ y.2)) ((s, []) : State × List (Nat × Nat))
      ⟨r.1, [], r.2, [], []⟩
    else
      let r := (List.range e.blocks).foldl (fun x b =>
        let y := x.1.raise die cid inst level node b (tilePairs img core d (512 * b) (e.blockLen b)) own 20
        (y.1, x.2 ++ y.2)) ((s, []) : State × List (Nat × Nat))
      ⟨r.1, [], r.2, [], []⟩

/-! CRECV (R367, R370). -/

/-- A die's result block of an instance: by source rank for the operations that move bytes. -/
def resultBlock (s : State) (die cid inst node block : Nat) : Option CBlock :=
  s.fab.results.find? fun x => x.die == die && x.cid == cid && x.inst == inst && x.node == node && x.block == block

/-- Bytes of one piece of a CRECV's tile. -/
def pieceBytes (e : Col) (d : Desc) : Nat :=
  let els := ((Tile.pieces d).map (·.2)).sum / e.members
  els + (if Tile.grouped d then ceilDiv (Tile.lines d * Tile.groups d / e.members) 2 else 0)

/-- Has everything a CRECV writes arrived? -/
def resultReady (s : State) (e : Col) (d : Desc) (inst : Nat) : Bool :=
  if e.moves then
    (List.range e.members).all fun r => (List.range (ceilDiv (pieceBytes e d) byteBlock)).all fun b =>
      (s.resultBlock e.die e.cid inst r b).isSome
  else (List.range e.blocks).all fun b => (s.resultBlock e.die e.cid inst 0 b).isSome

/-- The image of a CRECV's tile (R367): element data and Shifts of the pieces in rank order, or the elements of the
result, a PAIR tile taking (v, +0.0). -/
def resultImage (s : State) (e : Col) (core : Nat) (d : Desc) (inst node : Nat) (base : Memory) : Memory :=
  if e.moves then
    let piece := fun r => (List.range (ceilDiv (pieceBytes e d) byteBlock)).flatMap fun b =>
      match s.resultBlock e.die e.cid inst r b with
      | some x => x.bytes
      | none => []
    let els := ((Tile.pieces d).map (·.2)).sum / e.members
    let nsh := if Tile.grouped d then Tile.lines d * Tile.groups d / e.members else 0
    let ps := (List.range e.members).map piece
    let stream := (ps.flatMap fun p => p.take els) ++ packNibbles (ps.flatMap fun p => (unpackNibbles (p.drop els)).take nsh)
    imageOf base ((Tile.exact d).map fun r => (phys core (Tile.space d) r.1, r.2)) stream
  else
    let lo := if e.rs then chunkStart e.blocks e.chunks node else 0
    let hi := if e.rs then chunkStart e.blocks e.chunks (node + 1) else e.blocks
    (List.range (hi - lo)).foldl (fun m b =>
      match s.resultBlock e.die e.cid inst 0 (lo + b) with
      | none => m
      | some x => (x.pairs.zipIdx).foldl (fun m p =>
        let k := 512 * b + p.2
        let i := k / Tile.cols d
        let j := k % Tile.cols d
        if Tile.isPair d then Tile.putPair m core d i j (p.1.1, 0#32) else Tile.putCode m core d i j p.1.1.toNat) m) base

/-- An instance has completed on a die: its results leave, and nodes held for the next instance are formed (R371). -/
def colComplete (s : State) (die cid inst : Nat) : State :=
  let s := s.modFab fun f => { f with
    results := f.results.filter fun x => !(x.die == die && x.cid == cid && x.inst == inst)
    sent := f.sent.filter fun x => !(x.1 == colKey die cid && x.2.1 == inst)
    uses := SMap.set 0 f.uses (colKey die cid) (inst + 1) }
  let held := s.fab.nodes.filter fun x => x.die == die && x.cid == cid && x.inst == inst + 1
  held.foldl (fun s x => match s.formable die cid (inst + 1) (x.level + 1) (x.node / 2) x.block with
    | none => s
    | some qs => ((s.formed die cid (inst + 1) (x.level + 1) (x.node / 2) x.block qs).raise die cid (inst + 1)
        (x.level + 1) (x.node / 2) x.block qs none 20).1) s

/-- A summed result of an instance holds an infinity or NaN. -/
def resultNonfinite (s : State) (e : Col) (inst : Nat) : Bool :=
  e.op == 0 && s.fab.results.any fun x =>
    x.die == e.die && x.cid == e.cid && x.inst == inst && x.pairs.any fun p => isNonfinite32 p.1

/-- A CRECV writes its result and its instance completes. A sum of more than one element in the B-stream is gradient
accumulation (R22, R76; log entry 106). -/
def crecvLand : Land := fun s core eng f =>
  let die := dieOfCore core
  let cid := bits f.word 76 65
  let inst := s.colUses die cid
  let d := f.descs.getD 0 0
  let e := s.col die cid
  let m := s.resultImage e core d inst (bits f.word 59 42) (s.destBase d)
  let r := s.putDest core eng f.seq [] d (Tile.exact d) m none
  let s := if e.moves && Tile.grouped d then
      match s.resultBlock die cid inst 0 0 with
      | some x => r.st.writeDesc core (bits f.word 84 77) (Tile.withBase (s.desc core (bits f.word 84 77)) (sext 8 x.base))
      | none => r.st
    else r.st
  let s := s.gradNonfinite (clOfCore core) (s.resultNonfinite e inst && decide (1 < e.elems) && Tile.stream d)
  (s.colComplete die cid inst, r.met, r.waits)

/-- Give finished results to the CRECVs of a die that wait for them. -/
def deliver (s : State) (die cid : Nat) : State :=
  (s.flights.filter fun x => dieOfCore x.1 == die && x.2.2.col == some (cid, s.colUses die cid)).foldl (fun s x =>
    if s.resultReady (s.col die cid) (x.2.2.descs.getD 0 0) (s.colUses die cid) then
      s.settle crecvLand x.1 x.2.1 { x.2.2 with col := none }
    else s) s

/-- Give finished results to every CRECV of the device that waits for them, until none is ready. -/
def deliverAll (s : State) : Nat → State
  | 0 => s
  | n + 1 =>
    let ks := (s.flights.filterMap fun x => x.2.2.col.map fun c => (dieOfCore x.1, c.1)).eraseDups
    (ks.foldl (fun s k => s.deliver k.1 k.2) s).deliverAll n

end State
end Sys2Proof.Machine
end

