-- ==== Sys2Proof/Machine/ExecMove.lean ====
section
/-!
DEFINITION. The Move Engine's instructions and the refetches of Source Watch: COPY, PREFETCH, KVAPPEND, FURL, UNFURL,
CSEND, CRECV, STALE_REFETCH and STALE_REFETCH_LAND (08 R219, R220; 09 R237; 11 R299 to R306; 12 R323; 13 R364 to R371).
-/

namespace Sys2Proof.Machine

/-- What an opcode does with its source image. -/
def moveOp (w : TWord) : MoveOp :=
  match TW.opcode w with
  | 0x90 => copyOp
  | 0x91 => prefetchOp
  | 0x94 => kvappendOp
  | 0x96 => furlOp
  | 0x97 => unfurlOp
  | _ => State.csendOp

/-- A flight of the Move Engine has its last answer or segment: data read from a peer go on as a source image; a CRECV writes
its result; a COPY whose segments have all landed makes its notify (R220). -/
def moveLand : Land := fun s core eng f =>
  if TW.opcode f.word = 0x99 then State.crecvLand s core eng f
  else if Tile.space (f.descs.getD 0 0) = 3 then
    let r := moveOp f.word s core eng f.seq [] f.word f.descs f.img
    (r.st, r.met, r.waits)
  else if TW.opcode f.word = 0x90 && landedAll f.met then
    let r := copyLanded s core f.word (f.descs.getD 1 0)
    (r.1, r.2, [])
  else (s, [], [])

/-- Run an opcode that has a source: at once, or when a peer has delivered the source (R299, R358). -/
def startMove (s : State) (core eng : Nat) (w : TWord) (env : Env) : Run :=
  let seq := (s.q core eng).seq.toNat
  let ds := s.descsOf core w
  let a := ds.getD 0 0
  let reads := s.descBlocks core (TW.ins w)
  let writes := s.descBlocks core (TW.outs w)
  if ds.any (s.unreachable core) then Run.of s [.peerLost] reads writes
  else if Tile.space a = 3 ∧ Tile.exact a ≠ [] then
    let r := s.readPeer core eng seq (Tile.devid a) (Tile.exact a)
    ⟨r.1, [], r.2, [], [], none, true, false, reads, writes⟩
  else
    let r := moveOp w s core eng seq env.apart w ds (s.sourceImage a env.ext)
    ⟨r.st, r.met, r.waits, r.segs, r.img, none, r.segs != [], false, reads, writes⟩

/-- COPY: a grouped tile's `BASE` is written into D at issue (R220). -/
def bodyCopy : Body := fun s core eng w env =>
  let i := dfield w 76
  let a := s.desc core (dfield w 84)
  let t := if Tile.grouped a && !Tile.empty a then s.writeDesc core i (Tile.withBase (s.desc core i) (Tile.base a)) else s
  startMove t core eng w env

/-- PREFETCH: a range is armed at issue (R301). -/
def bodyPrefetch : Body := fun s core eng w env =>
  let i := dfield w 76
  let a := s.desc core (dfield w 84)
  let b := s.desc core i
  let t := if Tile.grouped a && !Tile.empty a then s.writeDesc core i (Tile.withBase b (Tile.base a)) else s
  let r := bits w 68 63
  let t := t.modCore core fun c =>
    { c with
      watchOrder := c.watchOrder + 1
      watch := SMap.set WRange.reset c.watch r
        ⟨true, blocksOf (Tile.physRanges core a), TW.pcons w, (TW.post w).getD 0, c.watchOrder, false, 0, false, a, b⟩ }
  startMove t core eng w env

/-- KVAPPEND: the walk raises `ALEN` and sets `OWNER` at issue, and the log entry keeps the first token (R323, R325). -/
def bodyKvappend : Body := fun s core eng w env =>
  let c := clOfCore core
  let sq := bits w 76 59
  let tok := s.seqAlen c sq
  let n := bits w 58 43
  let h := s.seqHalf c sq (s.kv c).gen
  let w1 := s.seqNow c sq
  let t := (s.seqLook c sq false).modKv c fun k => { k with alen := SMap.set 0 k.alen sq (tok + n) }
  let t := if n = 0 ∨ State.seqOwned w1 then t
    else t.kvStore32 (s.kvTableBase c + 64 * sq + 32 * h + 4) (setBits (setBit w1 27) 26 24 (core % 8))
  let t := t.logMod core eng (s.q core eng).seq.toNat fun e => { e with aux := tok }
  startMove t core eng w env

/-- FURL (R304, R305). -/
def bodyFurl : Body := fun s core eng w env => startMove s core eng w env

/-- UNFURL: the header's `BASE` is written into D at issue (R306). -/
def bodyUnfurl : Body := fun s core eng w env =>
  let i := dfield w 76
  let b := s.desc core i
  let h := s.furlHeaderOf core (s.desc core (dfield w 84)) env.ext
  let t := if Tile.empty b then s else s.writeDesc core i (Tile.withBase b (sext 8 (furlField h 4)))
  startMove t core eng w env

/-- CSEND (R367). -/
def bodyCsend : Body := fun s core eng w env =>
  let r := startMove s core eng w env
  { r with st := r.st.deliverAll 8 }

/-- CRECVs of a collective that wait on a die. -/
def State.recvBefore (s : State) (die cid : Nat) : Nat :=
  (s.flights.filter fun x => dieOfCore x.1 == die && TW.opcode x.2.2.word == 0x99
    && bits x.2.2.word 76 65 == cid && x.2.2.col.isSome).length

/-- CRECV waits for its result (R367). -/
def bodyCrecv : Body := fun s core _ w _ =>
  let die := dieOfCore core
  let cid := bits w 76 65
  let d := s.desc core (dfield w 84)
  let e := s.col die cid
  if Tile.empty d then Run.of s [] [] []
  else if s.colCut e false 0 0 then
    let r := s.colPeerLost e (s.colUses die cid + s.recvBefore die cid)
    Run.of r.st r.met [] []
  else if s.unreachable core d then Run.of s [.peerLost] [] []
  else
    ⟨s, [], [], [], [], some (cid, s.colUses die cid + s.recvBefore die cid), true, false, [], s.descBlocks core (TW.outs w)⟩

def execCopy (core : CoreId) (env : Env) (s : State) : Host.Outcome State Fault Refusal :=
  .next (s.runHead core 5 0x90 env bodyCopy)
def execPrefetch (core : CoreId) (env : Env) (s : State) : Host.Outcome State Fault Refusal :=
  .next (s.runHead core 5 0x91 env bodyPrefetch)
def execKvappend (core : CoreId) (env : Env) (s : State) : Host.Outcome State Fault Refusal :=
  .next (s.runHead core 5 0x94 env bodyKvappend)
def execFurl (core : CoreId) (env : Env) (s : State) : Host.Outcome State Fault Refusal :=
  .next (s.runHead core 5 0x96 env bodyFurl)
def execUnfurl (core : CoreId) (env : Env) (s : State) : Host.Outcome State Fault Refusal :=
  .next (s.runHead core 5 0x97 env bodyUnfurl)
def execCsend (core : CoreId) (env : Env) (s : State) : Host.Outcome State Fault Refusal :=
  .next (s.runHead core 5 0x98 env bodyCsend)
/-- A CRECV whose result has already come writes it as soon as it has issued. -/
def execCrecv (core : CoreId) (env : Env) (s : State) : Host.Outcome State Fault Refusal :=
  .next ((s.runHead core 5 0x99 env bodyCrecv).deliverAll 8)

/-! Refetches (R237, R303). -/

/-- The stale tokens that the head of a queue waits on, its waits being satisfied (R237). -/
def staleTokens (s : State) (core eng : Nat) (w : TWord) : List Nat :=
  (TW.waits w).filter fun t => (s.tok core eng t).stale

/-- The refetch of a queue's head begins: every range bound to a stale token of the head that has seen a write is copied again,
as one refetch (R303; log entry 33). -/
def staleRefetch (s : State) (core eng : Nat) : State :=
  match s.headOf core eng with
  | none => s
  | some w =>
    if (s.core core).hold.isNone && s.waitsMet core eng w && s.waitsStale core eng w && !(s.q core eng).refetching then
      let ts := staleTokens s core eng w
      let due := (s.core core).watch.filter fun x => x.2.armed && x.2.eng == eng && ts.contains x.2.tok && x.2.seen
      (s.refetchRanges core due).modQ core eng fun q => { q with refetching := true, restale := true }
    else s

def execStaleRefetch (core : CoreId) (eng : Eng) (s : State) : Host.Outcome State Fault Refusal :=
  .next (staleRefetch s core eng.num)

/-- The refetch has landed: its ranges are copied and stay armed, and `STALE` clears on each token of the head none of
whose ranges has seen a further write (R237, R303). -/
def staleRefetchLand (s : State) (core eng : Nat) : State :=
  match s.headOf core eng with
  | none => s
  | some w =>
    if (s.q core eng).refetching then
      let busy := (s.core core).watch.filter fun x => x.2.busy && x.2.eng == eng
      let s := busy.foldl (fun s x => s.copyRange core x.2) s
      let clear := fun (_ : Nat) (r : WRange) => if r.eng = eng then { r with busy := false } else r
      let s := s.modCore core fun c => { c with watch := SMap.mapVals WRange.reset clear c.watch }
      let again := fun t => (s.core core).watch.any fun x => x.2.armed && x.2.eng == eng && x.2.tok == t && x.2.seen
      let s := (staleTokens s core eng w).foldl (fun s t =>
        if again t then s else s.modTok core eng t fun k => { k with stale := false }) s
      s.modQ core eng fun q => { q with refetching := false }
    else s

def execStaleRefetchLand (core : CoreId) (eng : Eng) (s : State) : Host.Outcome State Fault Refusal :=
  .next (staleRefetchLand s core eng.num)

end Sys2Proof.Machine
end

