-- ==== Sys2Proof/Machine/Host.lean ====
section
/-!
DEFINITION. The host interface as operations: vectors, rings and their completions, and Data Port windows
(15_host_interface.md R396 to R418).
-/

namespace Sys2Proof.Machine

namespace State

def modHif (s : State) (f : HostIf → HostIf) : State := { s with hif := f s.hif }
def ring (s : State) (r : Nat) : RingQ := SMap.get RingQ.reset s.hif.rings r
def modRing (s : State) (r : Nat) (f : RingQ → RingQ) : State :=
  s.modHif fun h => { h with rings := SMap.set RingQ.reset h.rings r (f (SMap.get RingQ.reset h.rings r)) }
def vec (s : State) (fn v : Nat) : Vec := SMap.get Vec.reset s.hif.vecs (256 * fn + v)
def setVec (s : State) (fn v : Nat) (x : Vec) : State :=
  s.modHif fun h => { h with vecs := SMap.set Vec.reset h.vecs (256 * fn + v) x }
def win (s : State) (w : Nat) : Option PWin := SMap.get none s.hif.wins w
def setWin (s : State) (w : Nat) (x : Option PWin) : State :=
  s.modHif fun h => { h with wins := SMap.set none h.wins w x }

/-! Vectors (R417). -/

/-- Signal a vector of a function; a masked vector becomes pending. -/
def signal (s : State) (fn v : Nat) : State :=
  let x := s.vec fn v
  if x.masked then s.setVec fn v { x with pend := true } else s.emit (.msix fn v x.addr x.data)

/-- The event vector of a function (R411). -/
def raiseEvent (s : State) (fn : Nat) : State :=
  if s.flag .FN_IRQ fn 1 then s.signal fn (s.fld .FN_IRQ fn 23 16) else s

/-- The metrics vector of a function (R393). -/
def raiseMetrics (s : State) (fn : Nat) : State :=
  if s.flag .FN_IRQ fn 0 then s.signal fn (s.fld .FN_IRQ fn 15 8) else s

/-! Ranges of a function (R398). -/

/-- Device ring pairs of a function: first, and count. -/
def fnRings (s : State) (fn : Nat) : Nat × Nat := (s.fld .HIF_FN_RINGS fn 7 0, s.fld .HIF_FN_RINGS fn 24 16)
def fnPorts (s : State) (fn : Nat) : Nat × Nat := (s.fld .HIF_FN_PORTS fn 3 0, s.fld .HIF_FN_PORTS fn 20 16)

/-- The function a device ring pair belongs to. -/
def ringFn (s : State) (r : Nat) : Option Nat :=
  (List.range 8).find? fun fn => decide ((s.fnRings fn).1 ≤ r) && decide (r < (s.fnRings fn).1 + (s.fnRings fn).2)

/-- The function a device window belongs to. -/
def winFn (s : State) (w : Nat) : Option Nat :=
  (List.range 8).find? fun fn => decide ((s.fnPorts fn).1 ≤ w) && decide (w < (s.fnPorts fn).1 + (s.fnPorts fn).2)

/-- The device window of a function's local window. -/
def localWin (s : State) (fn w : Nat) : Option Nat :=
  if w < (s.fnPorts fn).2 then some ((s.fnPorts fn).1 + w) else none

def enabled (s : State) (r : Nat) : Bool := s.flag .RP_CFG r 31

/-- Feature `b` of `HIF_DRV_FEATURES` is in use (R401, R421): 0 FENCE, 1 COAL, 2 HOSTWIN, 3 RO, 4 PORT_READ. -/
def feature (s : State) (fn b : Nat) : Bool := s.flag .HIF_DRV_FEATURES fn b

/-! Completions (R408 to R411). -/

def cqSize (s : State) (r : Nat) : Nat := 2 ^ s.fld .RP_SIZE r 20 16
def sqSize (s : State) (r : Nat) : Nat := 2 ^ s.fld .RP_SIZE r 4 0

/-- The completion queue is full (R409). -/
def cqFull (s : State) (r : Nat) : Bool :=
  (s.fld .RP_CQ_TAIL r 15 0 + 1) % s.cqSize r == s.fld .RP_CQ_HEAD r 15 0 % s.cqSize r

/-- Queue a completion on a ring. -/
def complete (s : State) (r : Nat) (x : Compl) : State := s.modRing r fun q => { q with comps := q.comps ++ [x] }

/-- The ring a job's completion goes to: its own, or the function's lowest enabled one (R411). -/
def jobRing (s : State) (p r : Nat) : Option Nat :=
  if s.enabled r then some r
  else (List.range (s.fnRings p).2).map (fun i => (s.fnRings p).1 + i) |>.find? s.enabled

/-- Queue a job completion, or hold it until a ring of the function is enabled (R411). -/
def completeJob (s : State) (p r : Nat) (x : Compl) : State :=
  match s.jobRing p r with
  | some k => s.complete k x
  | none => s.modHif fun h => { h with jobComps := h.jobComps ++ [(p, x)] }

/-- The bytes of a completion entry (R408). -/
def complBytes (s : State) (r : Nat) (x : Compl) : List Byte :=
  natLe 1 (s.fld .RP_CFG r 23 16) ++ natLe 1 x.status ++ natLe 1 ((s.fld .RP_CQ_TAIL r 16 16) + (if x.more then 2 else 0))
    ++ natLe 1 x.op ++ natLe 4 x.tag.toNat ++ natLe 2 (s.fld .RP_SQ_HEAD r 15 0) ++ natLe 2 0 ++ natLe 2 x.mask
    ++ natLe 2 0 ++ (x.result ++ List.replicate 16 0).take 16

/-- The device writes host memory. -/
def writeHost (s : State) (a : Nat) (bs : List Byte) : State :=
  { s with hostMem := s.hostMem.wrN a bs }.emit (.hostWrite a bs)

/-- Write the first completion of a ring at the tail of its queue, and signal it unless it is coalesced (R409, R417). -/
def writeCompl (s : State) (r : Nat) : State :=
  match (s.ring r).comps with
  | [] => s
  | x :: xs =>
    if s.cqFull r then s.setFlag .RP_STATUS r 30
    else
      let t := s.fld .RP_CQ_TAIL r 15 0
      let base := s.fld .RP_CQ_LO r 31 12 * 4096 + (s.rd .RP_CQ_HI r).toNat * 2 ^ 32
      let s := s.writeHost (base + 32 * t) (s.complBytes r x)
      let next := (t + 1) % s.cqSize r
      let s := s.setFld .RP_CQ_TAIL r 15 0 next
      let s := if next = 0 then s.setFld .RP_CQ_TAIL r 16 16 (1 - s.fld .RP_CQ_TAIL r 16 16) else s
      let s := if s.cqFull r then s.setFlag .RP_STATUS r 30 else s
      let n := (s.ring r).unsig + 1
      let now := x.irq || decide (s.fld .RP_COAL r 7 0 = 0) || decide (s.fld .RP_COAL r 7 0 ≤ n)
      let s := s.modRing r fun q => { q with comps := xs, unsig := if now then 0 else n }
      if now then
        match s.ringFn r with
        | some fn => s.signal fn (s.fld .RP_CFG r 15 8)
        | none => s
      else s

/-- A job that a ring pair's entry submitted has its second completion to come: it has been loaded and has not ended (R379, R410). -/
def secondDue (s : State) (r : Nat) : Bool :=
  (List.range 8).any fun p => decide (3 ≤ s.jobState p) && decide (s.jobState p ≤ 7) && match (s.part p).job with
    | some j => j.ring == r
    | none => false

/-- A ring pair still has entries in the device, or their completions, wherever they wait to be written (R401, R411). -/
def ringActive (s : State) (r : Nat) : Bool :=
  let q := s.ring r
  q.entries != [] || decide (q.due ≠ 0) || s.secondDue r || (s.hif.rings.any fun k => k.2.comps.any fun x => x.src == r)
    || s.hif.jobComps.any fun x => x.2.src == r

end State

/-- A completion with no result and one status, of an entry of ring pair `r`. -/
def Compl.plain (r : Nat) (st : Status) (op : Nat) (tag : Word) (irq : Bool) : Compl := ⟨st.num, false, op, tag, 2 ^ st.num, [], irq, r⟩

end Sys2Proof.Machine
end

