-- ==== Sys2Proof/Machine/Links.lean ====
section
/-!
DEFINITION. What a received frame passes on its way in: link checks, transport checks, acknowledgements, and the notices'
fan-out; and what a port's lanes do (13_fabric_collectives.md R342 to R363).
-/

namespace Sys2Proof.Machine

/-- What a receiver answers to a frame it takes: acknowledge, refuse, nothing of its own, or leave it unreceived. -/
inductive Ans where
  | ack | nack | quiet | hold
  deriving DecidableEq, Repr

/-- Moves and collectives finish by what they are. -/
def anyLand : Land := fun s core eng f => if TW.opcode f.word = 0x99 then State.crecvLand s core eng f else moveLand s core eng f

namespace State

/-! Ports (R342, R352, R359). -/

/-- Lanes in use, as the status register shows them. -/
def setLanes (s : State) (p n : Nat) : State := (s.modPort p fun x => { x with lanes := n }).setFld .FAB_PORT_STATUS p 3 0 n

/-- Ports that are up, counted in `FAB_STATUS`. -/
def countPorts (s : State) : State := s.setFld .FAB_STATUS 0 4 0 s.portsUp.length

/-- A port goes down to be retrained whole: what its link held is gone, and the transport sends it again; input buffers of what it
held are free (R351, R352, R359). -/
def portDown (s : State) (p : Nat) : State :=
  let s := ((s.port p).held.foldl (fun s f => s.creditBack f.back) s).modPort p fun _ => { Port.reset with lanes := 0 }
  ((s.setFld .FAB_PORT_STATUS p 3 0 0).clrFlag .FAB_PORT_STATUS p 31).countPorts

/-- In Direct framing a lane retrains while the port goes on with the other three (R359). -/
def startRetrain (s : State) (p lane : Nat) : State :=
  ((s.modPort p fun y => { y with retrain := some lane, toRetrain := y.toRetrain.erase lane }).setLanes p (15 - 2 ^ lane)).emit
    (.control p 2 0 (15 - 2 ^ lane))

/-- A lane fails, and leaves service for retraining: in Direct framing the port goes on with the other three unless one is out
already; in Ethernet framing the port goes down (R359). -/
def laneOut (s : State) (p lane : Nat) : State :=
  if !s.portUp p then s
  else
    let x := s.port p
    let s := s.setFlag .FAB_PORT_STATUS p 30
    if s.ethernet then s.portDown p
    else match x.retrain with
      | some l => if l = lane then s else s.portDown p
      | none => s.startRetrain p lane

/-- The next lane that waits is retrained, when none is out (R359). -/
def nextRetrain (s : State) (p : Nat) : State :=
  match (s.port p).retrain, (s.port p).toRetrain with
  | none, l :: _ => (s.setFlag .FAB_PORT_STATUS p 30).startRetrain p l
  | _, _ => s

/-- Software retrains the lanes of a mask: in Direct framing one at a time, a lane that waits staying in service; in Ethernet
framing the port retrains whole (R359). -/
def retrainLanes (s : State) (p mask : Nat) : State :=
  let ls := (List.range 4).filter fun l => mask.testBit l
  if !s.portUp p || ls == [] then s
  else if s.ethernet then (s.setFlag .FAB_PORT_STATUS p 30).portDown p
  else (s.modPort p fun x => { x with
    toRetrain := x.toRetrain ++ ls.filter fun l => !x.toRetrain.contains l && x.retrain != some l }).nextRetrain p

/-! Receiving on a link (R349, R351, R352, R354). -/

/-- A frame of a link's own protocol is dropped. -/
def dropped (s : State) : State := s.countSat .FAB_DROP_COUNT 0 1

/-- A Direct frame for another device, which FRAME_FORWARD passes on (R350). -/
def passesOn (s : State) (f : Frame) : Bool :=
  match f.link with
  | .direct rdst _ _ _ _ _ => rdst != s.devId
  | .ether _ _ _ _ _ _ _ _ => false

/-- The link takes a frame: the new state, and whether the frame goes on. A Direct frame is accepted in `LSEQ` order
and its credits go back, but those of one for another device, which keeps its input buffer until it leaves (R351); an Ethernet frame
is judged by R354. -/
def linkTake (s : State) (p : Nat) (f : Frame) : State × Bool :=
  if !s.portUp p then (s, false)
  else match f.link with
    | .direct _ _ vc lseq crcOk stomp =>
      if s.ethernet then (s, false)
      else if stomp then (s.countSat .FAB_PORT_STOMP p 1, false)
      else if !crcOk || lseq != (s.port p).rxSeq then (s, false)
      else
        let s := s.modPort p fun x => { x with rxSeq := (x.rxSeq + 1) % 65536 }
        (if s.passesOn f then s else s.creditBack (some (p, vc, State.frameCredits f.data)), true)
    | .ether dmac fcsOk udp6 addr uport extHdr sumOk _ =>
      if !s.ethernet then (s, false)
      else
        if fcsOk && decide (dmac = s.macOf .FAB_PORT_MAC_LO .FAB_PORT_MAC_HI p) && udp6 && decide (addr = s.addrOf s.devId)
            && decide (uport.toNat = s.fld .FAB_ETH 0 15 0) && !extHdr && sumOk && hDst f.hdr == s.devId then (s, true)
        else (s.dropped, false)

/-- A Congestion Experienced mark (R354). -/
def marked (f : Frame) : Bool :=
  match f.link with
  | .ether _ _ _ _ _ _ _ ce => ce
  | _ => false

/-! The transport's checks (R348, R355 to R357). -/

/-- Is incarnation `a` newer than `b`, modulo 2^16? -/
def newerInc (a b : Nat) : Bool :=
  let d := (a + 65536 - b) % 65536
  decide (0 < d) && decide (d < 32768)

/-- A flow meets an incarnation of its peer: it records a first one, starts anew on a newer one, and refuses an older
one. -/
def meetInc (s : State) (key sinc : Nat) : State × Bool :=
  let note := fun (s : State) => s.modFab fun f => { f with incs := SMap.set 65536 f.incs (keyDev key) sinc }
  match (s.flow key).inc with
  | none => ((note (s.modFlow key fun f => { f with inc := some sinc })).openWindow key, true)
  | some r =>
    if sinc = r then (s, true)
    else if newerInc sinc r then
      ((note (s.modFlow key fun f => { f with inc := some sinc, expect := 0 })).setFlag .FAB_STATUS 0 29, true)
    else (s, false)

/-- A flow's frames are sent again from the first unacknowledged one (R355). -/
def resend (s : State) (key : Nat) : State :=
  let fs := (s.flow key).unacked
  fs.foldl (fun s x => (s.countSat .FAB_RETX_COUNT 0 1).sendFrame key x) s

/-- An acknowledgement number comes: as a place in the flow, frames before it leave. -/
def takeAck (s : State) (key apsn : Nat) : State :=
  match (s.flow key).unacked with
  | [] => s
  | x :: _ =>
    let d := wrapN 32 ((apsn : Int) - x.psn)
    if d ≤ 256 then s.ackUpTo anyLand key (x.psn + d) else s

/-- A flow is sent again, and each port that sends of it reports how many frames (R355, R423). -/
def retryFlow (s : State) (key : Nat) : State :=
  let fs := (s.flow key).unacked
  let s := s.resend key
  let at' := fs.filterMap fun x => s.pickPort (keyDie key) s.devId (keyDev key) (frameClass x.typ)
  at'.eraseDups.foldl (fun s p => s.post (p / 6) .linkRetry (BitVec.ofNat 32 p) (BitVec.ofNat 32 (at'.filter fun q => q == p).length)) s

/-- An ECE halves the flow's rate, at most once per 10 µs; after a first halving, whether 10 µs have passed is open (R354; log
entry 123). -/
def takeEce (s : State) (key : Nat) : State :=
  let halve := fun (s : State) => s.modFlow key fun f => { f with rate := f.rate / 2, halved := true }
  if (s.flow key).halved then
    let r := s.drawWord
    if bit r.2 0 then halve r.1 else r.1
  else halve s

/-- An ACK that brings no progress while frames are unacknowledged calls for a resend, once per RTO (R354, R355). -/
def takeAckFrame (s : State) (key : Nat) (h : BitVec 256) : State :=
  let before := (s.flow key).unacked.length
  let s := if hAckV h then s.takeAck key (hApsn h) else s
  let f := s.flow key
  let s := if hEce h then s.takeEce key else s
  if hAckV h && decide (f.unacked.length = before) && decide (before ≠ 0) && !f.resent then
    (s.modFlow key fun f => { f with resent := true }).retryFlow key
  else s

/-- A NACK names a PSN that counts as received; its instruction ends with FAULT_ADDRESS (R356). -/
def takeNack (s : State) (key : Nat) (h : BitVec 256) : State :=
  let psn := hOp h 63 32
  let hit := (s.flow key).unacked.filter fun x => x.psn % 2 ^ 32 == psn
  let s := s.modFlow key fun f => { f with unacked := f.unacked.filter fun x => x.psn % 2 ^ 32 != psn }
  let s := hit.foldl (fun s x => match x.owner with
    | some o => (s.modFab fun f => { f with reads := f.reads.filter fun r => !(r.key == key && r.psn == x.psn) }).answer
        anyLand o (key, x.psn) (some .faultAddress)
    | none => s) s
  if hAckV h then s.takeAck key (hApsn h) else s.openWindow key

/-- The COLL frame that a flow expects next, when its payload fails its CRC for the fourth time, marks its path: its port is retrained (R371). -/
def collCrc (s : State) (p key : Nat) : State :=
  let n := (s.flow key).crcFail + 1
  if n ≤ 3 then s.modFlow key fun f => { f with crcFail := n }
  else (s.modFlow key fun f => { f with crcFail := 0 }).portDown p

/-- A received frame of type `typ` takes its way in; `apply` does what the type asks. -/
def receive (s : State) (p : Nat) (f : Frame) (typ : Nat) (apply : State → Nat → State × Ans) : State :=
  let h := f.hdr
  let sound := hVer h == 1 && decide (hType h < 8) && !(hType h == 7 && decide (4 < hOp h 3 0))
  if sound && hType h != typ then s
  else if s.passesOn f then s
  else
    let r := s.linkTake p f
    let s := r.1
    let key := flowKey (hDdie h) (hSrc h) (hSdie h)
    if !r.2 then s
    else if !sound then s.dropped
    else if !f.crcOk then (if typ = 4 ∧ hPsn h = (s.flow key).expect % 2 ^ 32 then s.dropped.collCrc p key else s.dropped)
    else if hDinc h != s.ownInc && !(typ == 5 && hDinc h == 0) then s.dropped
    else if s.isLost (hSrc h) && typ != 7 then s.dropped
    else
      let m := s.meetInc key (hSinc h)
      let s := m.1
      if !m.2 then s.dropped
      else if typ = 5 then
        let s := s.takeAckFrame key h
        if hDinc h = 0 then s.sendAck key false else s
      else if typ = 6 then s.takeNack key h
      else
        let s := if hAckV h then s.takeAck key (hApsn h) else s
        let d := wrapN 32 ((hPsn h : Int) - (s.flow key).expect)
        let ece := marked f && (typ == 0 || typ == 2 || typ == 4)
        if d = 0 then
          let a := apply s key
          match a.2 with
          | .hold => a.1
          | .ack => (a.1.modFlow key fun x => { x with expect := x.expect + 1, crcFail := 0 }).sendAck key ece
          | .quiet => a.1.modFlow key fun x => { x with crcFail := 0 }
          | .nack => (a.1.modFlow key fun x => { x with expect := x.expect + 1, crcFail := 0 }).sendNack key (hPsn h)
        else if d < 2 ^ 31 then s.sendAck key false
        else (s.countSat .FAB_DUP_COUNT 0 1).sendAck key ece

/-! Notices (R347, R362). -/

/-- Devices of the Job Member Table, by rank. -/
def memberTable (s : State) : List Nat :=
  let base := s.fld .FAB_MEMBERS_LO 0 31 0 + s.fld .FAB_MEMBERS_HI 0 15 0 * 2 ^ 32
  (List.range (s.fld .FAB_MEMBERS_N 0 17 0 + 1)).map fun r => bits (s.mem.rd32 (base + 4 * r)) 17 0

def noticeOps (kind origin subject inc nseq : Nat) : BitVec 96 :=
  BitVec.ofNat 96 (kind + origin * 256 + subject * 2 ^ 32 + (inc + nseq * 2 ^ 16) * 2 ^ 64)

/-- Send a notice on to this device's children in the fan-out from `origin`; notices travel from die 0 to die 0. -/
def forwardNotice (s : State) (kind origin subject inc nseq : Nat) : State :=
  let t := s.memberTable
  let n := t.length
  let start := t.idxOf origin
  let q := (t.idxOf s.devId + n - start) % n
  if n ≤ start ∨ n ≤ t.idxOf s.devId then s
  else
    let dev := fun x => t.getD ((x + start) % n) 0
    (fanChildren (fun x => s.isLost (dev x)) n 18 q).foldl (fun s k =>
      (s.queueFrame (flowKey 0 (dev k) 0) 7 (noticeOps kind origin subject inc nseq) [] false none).1) s

/-- Originate a notice. -/
def originate (s : State) (kind subject inc nseq : Nat) : State :=
  let s := s.modFab fun f => { f with seen := f.seen ++ [(kind, subject, inc, nseq)] }
  s.forwardNotice kind s.devId subject inc nseq

/-- A notice that is no repeat is passed on; the flag says that it is to be applied. -/
def noticeIn (s : State) (h : BitVec 256) : State × Bool :=
  let kind := hOp h 3 0
  let x := (kind, hOp h 49 32, hOp h 79 64, if kind ≤ 2 then 0 else hOp h 95 80)
  if s.fab.seen.contains x then (s, false)
  else
    let s := s.modFab fun f => { f with seen := f.seen ++ [x] }
    ((s.forwardNotice kind (hOp h 25 8) (hOp h 49 32) (hOp h 79 64) (hOp h 95 80)).setFlag .FAB_STATUS 0 30, true)

/-- A RESTORE or a REPLAY notice about this device (R347). -/
def originateCounted (s : State) (replay : Bool) : State :=
  let n := if replay then s.fab.nReplay else s.fab.nRestore
  let s := s.modFab fun f => if replay then { f with nReplay := (n + 1) % 65536 } else { f with nRestore := (n + 1) % 65536 }
  s.originate (if replay then 4 else 3) s.devId s.ownInc ((n + 1) % 65536)

end State

end Sys2Proof.Machine
end

