-- ==== Sys2Proof/Machine/ExecFlow.lean ====
section
/-!
DEFINITION. Queue control and deadlocks: NOP, WAITF, SETF, ADDF, UPASS_OPEN, UPASS_CLOSE, and the reports of R241,
R250 and R251 (08 R206, R221, R222; 09 R239 to R251).
-/

namespace Sys2Proof.Machine

open State (routeOf)

/-- An instruction that does nothing but its waits and post. -/
def bodyNone : Body := fun s _ _ _ _ => Run.of s [] [] []

/-- SETF and ADDF: local flags, flags of another die of this device, and flags of another device (R243, R244, R246,
R248, R358). -/
def bodyFlag (add : Bool) : Body := fun s core eng w _ =>
  let f := bits w 82 73
  let v := BitVec.ofNat 32 (bits w 31 0)
  let c := clOfCore core
  match s.flagScope core w with
  | 0 => Run.of (s.updateFlag c false f add v) [] [] []
  | 1 => Run.of (s.updateFlag c true f add v) [] [] []
  | 2 =>
    let r := s.remoteUpdate (bits w 54 53) f s.devId (dieOfCore core) add v
    Run.of r.1 (keepIf (!r.2) [Status.faultAddress]) [] []
  | _ =>
    let dev := bits w 72 55
    if s.reachable (dieOfCore core) dev then
      let ops := BitVec.ofNat 96 (v.toNat + (f + (if add then 1024 else 0)) * 2 ^ 32)
      let r := s.queueFrame (flowKey (dieOfCore core) dev (bits w 54 53)) 3 ops [] false
        (some (core, eng, (s.q core eng).seq.toNat))
      ⟨r.1, [], [r.2], [], [], none, false, false, [], []⟩
    else Run.of s [Status.peerLost] [] []

/-- UPASS_OPEN and UPASS_CLOSE (R222). -/
def bodyUpass (o : Bool) : Body := fun s core eng _ _ => Run.of (s.modQ core eng fun q => { q with upass := o }) [] [] []

def execNop (core : CoreId) (eng : Eng) (env : Env) (s : State) : Host.Outcome State Fault Refusal :=
  .next (s.runHead core eng.num 0x00 env bodyNone)

/-- WAITF reaches the head: with its condition true, or a check that fails, it issues at once; else it holds the queue
(R245). -/
def waitf (s : State) (core eng : Nat) (env : Env) : State :=
  match s.headOf core eng with
  | none => s
  | some w =>
    if TW.opcode w == 1 && s.mayIssue core eng w && (s.blockedWait core eng).isSome && !s.skipped core eng w then
      (s.waitStall core eng env.stall).modQ core eng fun q => { q with waiting := true }
    else s.runHead core eng 0x01 env bodyNone

def execWaitf (core : CoreId) (eng : Eng) (env : Env) (s : State) : Host.Outcome State Fault Refusal :=
  .next (waitf s core eng.num env)

/-- The condition of a WAITF that holds its queue has become true: it completes with OK (R245). -/
def waitfSatisfied (s : State) (core eng : Nat) : State :=
  match s.headOf core eng with
  | none => s
  | some w =>
    if (s.q core eng).waiting && TW.opcode w == 1 && s.mayIssue core eng w && s.waitHolds core w then
      s.issue core eng w Env.quiet bodyNone
    else s

def execWaitfSatisfied (core : CoreId) (eng : Eng) (s : State) : Host.Outcome State Fault Refusal :=
  .next (waitfSatisfied s core eng.num)

def execSetf (core : CoreId) (eng : Eng) (env : Env) (s : State) : Host.Outcome State Fault Refusal :=
  .next (s.runHead core eng.num 0x02 env (bodyFlag false))

def execAddf (core : CoreId) (eng : Eng) (env : Env) (s : State) : Host.Outcome State Fault Refusal :=
  .next (s.runHead core eng.num 0x03 env (bodyFlag true))

def execUpassOpen (core : CoreId) (eng : Eng) (env : Env) (s : State) : Host.Outcome State Fault Refusal :=
  .next (s.runHead core eng.num 0x04 env (bodyUpass true))

def execUpassClose (core : CoreId) (eng : Eng) (env : Env) (s : State) : Host.Outcome State Fault Refusal :=
  .next (s.runHead core eng.num 0x05 env (bodyUpass false))

/-! Deadlocks and timeouts. -/

/-- The head waits on a token whose every pending post stands behind it (R239), or, while the Chanter holds a dispatch
for this full queue, on one that no dispatched instruction can post (R240). -/
def tokenDead (s : State) (core eng : Nat) (w : TWord) : Bool :=
  let heldHere := match (s.chn (clOfCore core)).held with
    | some h => routeOf h.word == eng && bit h.word (109 + core % 8) && decide (64 ≤ (s.q core eng).items.length)
    | none => false
  (TW.waits w).any fun t =>
    let k := s.tok core eng t
    k.count == 0 && ((k.pend != 0 && k.pend == k.pendOwn) || (heldHere && k.pend == 0))

/-- A token deadlock: the head completes with DEADLOCK without executing or posting (R232, R241). -/
def tokenDeadlock (s : State) (core eng : Nat) : State :=
  match s.headOf core eng with
  | none => s
  | some w =>
    if tokenDead s core eng w && (s.core core).hold.isNone then
      let s := (s.headDropped core eng).modQ core eng fun q =>
        { q with items := q.items.drop 1, seq := q.seq + 1, restale := false, waiting := false }
      let s := s.dropPend core w
      let s := match TW.post w with
        | some id => if TW.pcons w = TW.engine w then s.modTok core (TW.pcons w) id fun t => { t with pendOwn := t.pendOwn - 1 } else s
        | none => s
      let c := clOfCore core
      let s := s.putEvent c (s.eventWords core w false (s.streamBit core w) [.deadlock] (s.q core eng).seq)
      ((s.setFlag .SHR_STATUS c 30).countSat .SHR_TOKDL_COUNT c 1).holdCore core 0x08 eng .deadlock
    else s

def execTokenDeadlock (core : CoreId) (eng : Eng) (s : State) : Host.Outcome State Fault Refusal :=
  .next (tokenDeadlock s core eng.num)

/-- Every WAITF of the closed sets of a die completes with DEADLOCK (R249, R250). -/
def flagDeadlock (s : State) (die : Nat) : State :=
  (s.deadWaits die).foldl (fun s n =>
    let c := clOfCore n.1
    ((s.endWait n.1 n.2.1 n.2.2 .deadlock).setFlag .SHR_STATUS c 31).countSat .SHR_DEADLOCK_COUNT c 1) s

def execFlagDeadlock (die : DieId) (s : State) : Host.Outcome State Fault Refusal := .next (flagDeadlock s die)

/-- The timer of a WAITF on an open flag expires while its context runs (R251). -/
def waitfTimeout (s : State) (core eng : Nat) : State :=
  match s.blockedWait core eng with
  | none => s
  | some w =>
    let c := clOfCore core
    if s.fld .SHR_CTRL c 31 16 ≠ 0 ∧ s.running c ∧ !s.flagClosed core w ∧ (s.core core).hold.isNone then
      ((s.endWait core eng w .timeout).setFlag .SHR_STATUS c 29).countSat .SHR_TIMEOUT_COUNT c 1
    else s

def execWaitfTimeout (core : CoreId) (eng : Eng) (s : State) : Host.Outcome State Fault Refusal :=
  .next (waitfTimeout s core eng.num)

end Sys2Proof.Machine
end

