-- ==== Sys2Proof/Machine/ExecGather.lean ====
section
/-!
DEFINITION. The Gather Engine's instructions GATHER, ROUTE and KVREAD (08 R216 to R218; 11 R283, R300; 12 R326, R327).
-/

namespace Sys2Proof.Machine

/-- Blocks that a GATHER reads: its index list, and the rows that an index names (R283, R300). -/
def State.gatherReads (s : State) (core : Nat) (di dt : Desc) : List Nat :=
  let rows := ((List.range (Tile.rows di)).map fun i => Tile.code s.mem core di i 0).filter fun x => x < Tile.rows dt && rowInMap core dt x
  let phys' := fun (rs : List (Nat × Nat)) => rs.map fun r => (phys core (Tile.space dt) r.1, r.2)
  blocksOf ((if Tile.space di ≤ 2 then Tile.physRanges core di else []) ++ (if Tile.space dt ≤ 2 then rows.flatMap fun x =>
    phys' [(Tile.byteAddr dt x 0, Tile.lineBytes dt)]
      ++ (if Tile.grouped dt then phys' ((List.range (Tile.groups dt)).map fun g =>
        (Tile.shiftAddr dt + (x * Tile.groups dt + g) / 2, 1)) else []) else []))

/-- GATHER: rows of TBL by index, with TBL's Base; with an operand that has no element it writes nothing (R205, R217, R283). -/
def bodyGather : Body := fun s core _ w _ =>
  let di := s.desc core (dfield w 84)
  let dt := s.desc core (dfield w 76)
  let i := dfield w 68
  let dd := s.desc core i
  if Tile.empty dd || Tile.empty dt then s.ran core w s []
  else
  let r := runGather s.mem core di dt dd
  let t := (s.commitMem r.1 (Tile.physRanges core dd)).1
  let t := if Tile.grouped dd then t.writeDesc core i (Tile.withBase dd (Tile.base dt)) else t
  Run.of t (keepIf r.2 [Status.faultAddress]) (s.gatherReads core di dt) (s.descBlocks core (TW.outs w))

/-- ROUTE: per-expert lists and counts; of an EID without an element it writes nothing (R205, R218). -/
def bodyRoute : Body := fun s core _ w _ =>
  let de := s.desc core (dfield w 84)
  let dl := s.desc core (dfield w 76)
  let dc := s.desc core (dfield w 68)
  if Tile.empty de then s.ran core w s []
  else
  let r := runRoute s.mem core de dl dc (bits w 60 50)
  let t := (s.commitMem r.1 (Tile.physRanges core dl ++ Tile.physRanges core dc)).1
  s.ran core w t (keepIf r.2 [Status.faultAddress])

/-- One row of a KVREAD at tile Base `b`: codes, Shifts, and groups rounded again (R327). -/
def kvRebase (m : Memory) (rank gs : Nat) (a : Nat × Nat × Nat) (rb b : Int) : List Nat × List Nat × Nat :=
  let rows := (List.range (ceilDiv rank gs)).map fun g =>
    let old := ((m.rd (a.2.1 + g / 2)).toNat >>> (4 * (g % 2))) % 16
    let new := (old : Int) + (b - rb)
    let codes := (List.range (min gs (rank - g * gs))).map fun k => (m.rd (a.1 + g * gs + k)).toNat
    if 0 ≤ new ∧ new ≤ 15 then (codes, new.toNat, 0)
    else
      let sh : Int := if new < 0 then 0 else 15
      (codes.map fun c => (encNarrow 1 ((decNarrow 1 c).scale (rb - old + sh - b))).1, sh.toNat, 1)
  (rows.flatMap (·.1), rows.map (·.2.1), (rows.map (·.2.2)).sum)

/-- Write one row of D: its codes, and its Shifts where groups run along rows. Where they run along columns, a row has
no Shift of its own to keep, and each Shift is a free value. -/
def putKvRow (s : State) (core : Nat) (dd : Desc) (i : Nat) (codes shifts : List Nat) : State :=
  let m := (codes.zipIdx).foldl (fun m x => Tile.putCode m core dd i x.2 x.1) s.mem
  if Tile.gaxis dd then
    forN (Tile.cols dd) (fun s j =>
      let (s, v) := s.drawWord
      { s with mem := Tile.putShift s.mem core dd j (i / Tile.gs dd) (v.toNat % 16) }) { s with mem := m }
  else
    let m := (shifts.zipIdx).foldl (fun m x => Tile.putShift m core dd i x.2 x.1) m
    { s with mem := m }

/-- KVREAD: its walk began at the current generation, or before `env.walk`'s number of generations were made (R318, R326,
R327). -/
def bodyKvread : Body := fun s core _ w env =>
  let c := clOfCore core
  let i := dfield w 84
  let dd := s.desc core i
  let seq := bits w 76 59
  let n := bits w 36 21
  let (rank, gs) := s.seqShape c seq
  let (lag, alen) := env.walk.getD (0, s.seqAlen c seq)
  let g := (s.kv c).gen - BitVec.ofNat 32 lag
  let len := bits (s.seqW c seq (s.seqHalf c seq g) 2) 22 0
  let rows := (List.range n).map fun k => s.kvRow c seq (bits w 58 37 + k) g alen
  let live := rows.filterMap id
  let b := match live with
    | [] => Tile.base dd
    | r :: rs => rs.foldl (fun a x => max a x.2.2) r.2.2
  let pages := ((List.range n).filterMap fun k =>
    let t := bits w 58 37 + k
    if t < len then some (t / 256) else none).eraseDups
  let by' := s.walkOld c seq g
  let t := pages.foldl (fun x p => x.labLook c seq p by') (s.seqLook c seq by')
  let old := t
  let (t, redo) := (rows.zipIdx).foldl (fun (x : State × Nat) r => match r.1 with
    | none => (putKvRow x.1 core dd r.2 (List.replicate rank 0) (List.replicate (ceilDiv rank gs) 15), x.2)
    | some (a, rb, _) =>
      let (codes, sh, k) := kvRebase s.mem rank gs a rb b
      (putKvRow x.1 core dd r.2 codes sh, x.2 + k)) (t, 0)
  let t := ({ t with mem := old.mem }.commitMem t.mem (Tile.physRanges core dd)).1
  let t := t.countSat .KVP_REBASE_COUNT c redo
  let t := if redo ≠ 0 then t.setFlag .KVP_STATUS c 27 else t
  let t := if live = [] then t else t.writeDesc core i (Tile.withBase dd b)
  let reads := blocksOf (live.flatMap fun r => [(r.1.1, rank), (r.1.2.1, 16), (r.1.2.2, 1)])
  Run.of t (keepIf (rows.any (·.isNone)) [Status.faultAddress]) reads (s.descBlocks core [i])

def execGather (core : CoreId) (env : Env) (s : State) : Host.Outcome State Fault Refusal :=
  .next (s.runHead core 4 0x80 env bodyGather)

def execKvread (core : CoreId) (env : Env) (s : State) : Host.Outcome State Fault Refusal :=
  .next (s.runHead core 4 0x82 env bodyKvread)

def execRoute (core : CoreId) (env : Env) (s : State) : Host.Outcome State Fault Refusal :=
  .next (s.runHead core 4 0x83 env bodyRoute)

end Sys2Proof.Machine
end

