-- ==== Sys2Proof/Machine/Transc.lean ====
section
/-!
DEFINITION. The transcendental operations, each the exactly rounded binary32 value of its exact mathematical result
(06_vector_accumulation.md R145). Each is computed as an integer at a fixed point 2^-P with a known error bound; both
ends of the enclosure are rounded, and where they differ the precision is raised. Rational cases are exact.
-/

namespace Sys2Proof.Machine

/-- Slack, in units of the fixed point, that covers the truncations of every series below. -/
def slack : Int := 4096

/-- ln 2 at fixed point 2^-`p`: 2 × Σ 1 / ((2k+1) 3^(2k+1)). -/
def ln2From : Nat → Nat → Nat → Nat
  | 0, _, _ => 0
  | n + 1, k, t => t / (2 * k + 1) + ln2From n (k + 1) (t / 9)

def ln2Fix (p : Nat) : Nat := 2 * ln2From (p / 3 + 4) 0 (2 ^ p / 3)

/-- arctan (1/`d`) at fixed point, alternating series. -/
def atanInvFrom (d : Nat) : Nat → Nat → Nat → Int
  | 0, _, _ => 0
  | n + 1, k, t => (t / (2 * k + 1) : Nat) - atanInvFrom d n (k + 1) (t / (d * d))

/-- π at fixed point 2^-`p` (16 arctan 1/5 − 4 arctan 1/239), computed with 16 guard bits. -/
def piFix (p : Nat) : Nat :=
  let q := p + 16
  let x := 16 * atanInvFrom 5 (q / 4 + 4) 0 (2 ^ q / 5) - 4 * atanInvFrom 239 (q / 15 + 4) 0 (2 ^ q / 239)
  x.toNat >>> 16

/-- Σ `t`·r^k/k! from term `k` on: the exponential series at fixed point 2^-`p`. -/
def expSeries (p r : Nat) : Nat → Nat → Nat → Nat
  | 0, _, _ => 0
  | n + 1, k, t => t + expSeries p r n (k + 1) (((t * r) >>> p) / (k + 1))

/-- exp of `r`/2^p, 0 ≤ r < 2^p. -/
def expFix (p r : Nat) : Nat := expSeries p r (p / 2 + 8) 0 (2 ^ p)

/-- The alternating series of sine (from t = r, k = 1) and cosine (from t = 1, k = 0). -/
def trigSeries (p r2 : Nat) : Nat → Nat → Nat → Int
  | 0, _, _ => 0
  | n + 1, k, t => (t : Int) - trigSeries p r2 n (k + 2) (((t * r2) >>> p) / ((k + 1) * (k + 2)))

def sinFix (p r : Nat) : Int := trigSeries p ((r * r) >>> p) (p / 3 + 8) 1 r
def cosFix (p r : Nat) : Int := trigSeries p ((r * r) >>> p) (p / 3 + 8) 0 (2 ^ p)

/-- Σ z^(2k+1)/(2k+1): the series of artanh at fixed point. -/
def atanhSeries (p z2 : Nat) : Nat → Nat → Nat → Nat
  | 0, _, _ => 0
  | n + 1, k, t => t / (2 * k + 1) + atanhSeries p z2 n (k + 1) ((t * z2) >>> p)

/-- Natural logarithm of `m`/2^`b` for 2^b ≤ m < 2^(b+1), at fixed point 2^-`p`. -/
def lnFix (p m b : Nat) : Nat :=
  let z := ((m - 2 ^ b) <<< p) / (m + 2 ^ b)
  2 * atanhSeries p ((z * z) >>> p) (p / 3 + 8) 0 z

/-- An enclosure: the value lies within `slack` of `v` × 2^`e`. -/
structure Enc where
  v : Int
  e : Int

def Enc.at (x : Enc) (d : Int) : Word :=
  let y := x.v + d
  enc32 (.fin (decide (y < 0)) y.natAbs x.e)

/-- Round an enclosure, raising the precision until both ends round alike. -/
def roundEnc (f : Nat → Enc) : List Nat → Word
  | [] => (f 1024).at 0
  | p :: ps =>
    let x := f p
    let lo := x.at (-slack)
    if lo = x.at slack then lo else roundEnc f ps

def precisions : List Nat := [112, 192, 384, 768]

/-- e^(±m·2^e): reduce by ln 2, then the series. -/
def expEnc (s : Bool) (m : Nat) (e : Int) (p : Nat) : Enc :=
  let q := p + 16
  let x : Int := if s then -(if 0 ≤ e + q then (m <<< (e + q).toNat : Nat) else (m >>> (-(e + q)).toNat : Nat))
    else (if 0 ≤ e + q then (m <<< (e + q).toNat : Nat) else (m >>> (-(e + q)).toNat : Nat))
  let l : Int := ln2Fix q
  let k := x / l
  let r := (x - k * l).toNat >>> 16
  ⟨expFix p r, k - p⟩

/-- 2^(±m·2^e): the fraction part times ln 2. -/
def exp2Enc (s : Bool) (m : Nat) (e : Int) (p : Nat) : Enc :=
  let q := p + 16
  let x : Int := if s then -(if 0 ≤ e + q then (m <<< (e + q).toNat : Nat) else (m >>> (-(e + q)).toNat : Nat))
    else (if 0 ≤ e + q then (m <<< (e + q).toNat : Nat) else (m >>> (-(e + q)).toNat : Nat))
  let k := x / (2 ^ q : Nat)
  let f := (x - k * (2 ^ q : Nat)).toNat
  ⟨expFix p ((f * ln2Fix q) >>> (q + 16)), k - p⟩

/-- ln (m·2^e) at fixed point. -/
def lnEnc (m : Nat) (e : Int) (p : Nat) : Enc :=
  let b := bitLen m - 1
  ⟨(lnFix p m b : Int) + (e + b) * (ln2Fix p : Int), -p⟩

def log2Enc (m : Nat) (e : Int) (p : Nat) : Enc :=
  let b := bitLen m - 1
  ⟨((lnFix p m b <<< p) / ln2Fix p : Nat) + (e + b) * (2 ^ p : Nat), -p⟩

/-- A value that is 2^`e` for an integer `e`, as that integer. -/
def pow2Exp (m : Nat) (e : Int) : Option Int :=
  let b := bitLen m - 1
  if m = 2 ^ b then some (e + b) else none

/-- The integer a finite value holds, if it is one. -/
def intOf (s : Bool) (m : Nat) (e : Int) : Option Int :=
  let x : Option Nat := if 0 ≤ e then some (m <<< e.toNat) else if m % 2 ^ (-e).toNat = 0 then some (m >>> (-e).toNat) else none
  x.map (fun n => if s then -(n : Int) else (n : Int))

def exp32 (a : Word) : Word :=
  match dec32 a with
  | .nan => nan32
  | .inf s => if s then 0#32 else enc32 (.inf false)
  | .fin s m e =>
    if m = 0 then enc32 (.fin false 1 0)
    else if magLe 1 8 m e then (if s then 0#32 else enc32 (.inf false))
    else roundEnc (expEnc s m e) precisions

def exp2_32 (a : Word) : Word :=
  match dec32 a with
  | .nan => nan32
  | .inf s => if s then 0#32 else enc32 (.inf false)
  | .fin s m e =>
    if magLe 1 8 m e then (if s then 0#32 else enc32 (.inf false))
    else match intOf s m e with
      | some k => enc32 (.fin false 1 k)
      | none => roundEnc (exp2Enc s m e) precisions

def log32 (a : Word) : Word :=
  match dec32 a with
  | .nan => nan32
  | .inf s => if s then nan32 else enc32 (.inf false)
  | .fin s m e =>
    if m = 0 then enc32 (.inf true)
    else if s then nan32
    else if pow2Exp m e = some 0 then 0#32
    else roundEnc (lnEnc m e) precisions

def log2_32 (a : Word) : Word :=
  match dec32 a with
  | .nan => nan32
  | .inf s => if s then nan32 else enc32 (.inf false)
  | .fin s m e =>
    if m = 0 then enc32 (.inf true)
    else if s then nan32
    else match pow2Exp m e with
      | some k => enc32 (.fin (decide (k < 0)) k.natAbs 0)
      | none => roundEnc (log2Enc m e) precisions

def rcp32 (a : Word) : Word := enc32 ((FV.fin false 1 0).div (dec32 a))
def rsqrt32 (a : Word) : Word := enc32 (dec32 a).rsqrt

/-- (1 − e^−2x) / (1 + e^−2x). -/
def tanhEnc (s : Bool) (m : Nat) (e : Int) (p : Nat) : Enc :=
  let x := expEnc true m (e + 1) p
  let t : Nat := if 0 ≤ x.e + p then x.v.toNat <<< (x.e + p).toNat else x.v.toNat >>> (-(x.e + p)).toNat
  let y : Int := (((2 ^ p - t) <<< p) / (2 ^ p + t) : Nat)
  ⟨if s then -y else y, -p⟩

/-- TANH; below 2^−13 the result is the operand, and from 16 on it is ±1, by the first terms of the series. -/
def tanh32 (a : Word) : Word :=
  match dec32 a with
  | .nan => nan32
  | .inf s => enc32 (.fin s 1 0)
  | .fin s m e =>
    if !(magLe 1 (-13) m e) then enc32 (.fin s m e)
    else if magLe 1 4 m e then enc32 (.fin s 1 0)
    else roundEnc (tanhEnc s m e) precisions

/-- The argument reduced exactly: quadrant, and remainder below π/2 at fixed point 2^-`p`. -/
def trigReduce (m : Nat) (e : Int) (p : Nat) : Nat × Nat :=
  let n := p + e.toNat + 64
  let x := if 0 ≤ e + n then m <<< (e + n).toNat else m >>> (-(e + n)).toNat
  let h := piFix (n + 1) >>> 2
  (x / h % 4, (x % h) >>> (n - p))

/-- sine (`co` false) or cosine (`co` true) by quadrant. -/
def trigEnc (co : Bool) (s : Bool) (m : Nat) (e : Int) (p : Nat) : Enc :=
  let (q, r) := trigReduce m e p
  let k := if co then q + 1 else q
  let y := if k % 2 = 0 then sinFix p r else cosFix p r
  let y := if 2 ≤ k % 4 then -y else y
  ⟨if s && !co then -y else y, -p⟩

def sin32 (a : Word) : Word :=
  match dec32 a with
  | .fin s m e =>
    if !(magLe 1 (-13) m e) then enc32 (.fin s m e) else roundEnc (trigEnc false s m e) precisions
  | _ => nan32

def cos32 (a : Word) : Word :=
  match dec32 a with
  | .fin s m e =>
    if !(magLe 1 (-13) m e) then enc32 (.fin false 1 0) else roundEnc (trigEnc true s m e) precisions
  | _ => nan32

end Sys2Proof.Machine
end

