-- ==== Sys2Proof/Machine/VecOps.lean ====
section
/-!
DEFINITION. What the Vector Engine computes, as functions of memory: operands widened and flushed, one result per
element, reductions, pairs and the optimizers (06_vector_accumulation.md R144 to R154, R162, R163; 02 R54, R55;
08 R210, R212).
-/

namespace Sys2Proof.Machine

/-- A value with the number of subnormals flushed on its way (R55). -/
structure Fl where
  v : Word
  n : Nat

/-- Flush a binary32 subnormal when `FTZ` is 1, counting it (R54, R55). -/
def flushIf (ftz : Bool) (x : Word) : Fl := if ftz && isSub32 x then ⟨x &&& 0x80000000#32, 1⟩ else ⟨x, 0⟩

/-- Widen an element code to binary32 (R210); a widened FP16 value is never a binary32 subnormal. -/
def widen (fmt c : Nat) : Word :=
  match fmt with
  | 3 => BitVec.ofNat 32 (c * 2 ^ 16)
  | 4 => enc32 (decFp16 c)
  | _ => BitVec.ofNat 32 c

/-- Read a floating-point operand. -/
def readF (ftz : Bool) (fmt c : Nat) : Fl := flushIf ftz (widen fmt c)

/-- Code of a binary32 result in the destination format: a subnormal result is flushed under `FTZ`, then converted, and
a subnormal BF16 flushed again (R54, R210). -/
def narrowF (ftz : Bool) (fmt : Nat) (x : Word) : Nat × Nat :=
  let y := flushIf ftz x
  match fmt with
  | 3 =>
    let c := encBf16 (dec32 y.v)
    if ftz && isSubBf16 c then (c &&& 0x8000, y.n + 1) else (c, y.n)
  | 4 => (encFp16 (dec32 y.v), y.n)
  | _ => (y.v.toNat, y.n)

/-- Is a code of a floating-point format an infinity or a NaN? -/
def codeNonfinite (fmt c : Nat) : Bool :=
  match fmt with
  | 3 => !(decBf16 c).isFinite
  | 4 => !(decFp16 c).isFinite
  | 5 => isNonfinite32 (BitVec.ofNat 32 c)
  | _ => false

/-- The floating-point operations of one result from up to three operands, by opcode (R206, R144 to R146). -/
def floatOp (op : Nat) (a b c : Word) : Word :=
  match op with
  | 0x30 => add32 a b
  | 0x31 => sub32 a b
  | 0x32 => mul32 a b
  | 0x33 => min32 a b
  | 0x34 => max32 a b
  | 0x36 => fma32 a b c
  | 0x38 => abs32 a
  | 0x39 => neg32 a
  | 0x40 => exp32 a
  | 0x41 => exp2_32 a
  | 0x42 => log32 a
  | 0x43 => log2_32 a
  | 0x44 => rcp32 a
  | 0x45 => rsqrt32 a
  | 0x46 => sqrt32 a
  | 0x47 => div32 a b
  | 0x48 => tanh32 a
  | 0x49 => sin32 a
  | 0x4A => cos32 a
  | _ => if isNan32 a then nan32 else a

/-- The U32 operations (R144, R210). -/
def intOp (op cond : Nat) (a b : Word) : Word :=
  match op with
  | 0x58 => a + b
  | 0x59 => a - b
  | 0x5A => if a.toNat ≤ b.toNat then a else b
  | 0x5B => if a.toNat ≤ b.toNat then b else a
  | 0x5C => icmp32 cond a b
  | 0x5D => a &&& b
  | 0x5E => a ||| b
  | 0x5F => a ^^^ b
  | 0x60 => a <<< (b.toNat % 32)
  | _ => a >>> (b.toNat % 32)

/-- State of an elementwise run: memory, values flushed, a non-finite value written, elements combined. -/
structure VRun where
  mem : Memory
  flushed : Nat
  nonfinite : Bool
  comb : Nat

/-- Row and column of B that element (`i`, `j`) takes (R209 `BMODE`). -/
def bIndex (bmode i j : Nat) : Nat × Nat :=
  match bmode with
  | 1 => (i, 0)
  | 2 => (0, j)
  | _ => (i, j)

/-- A second operand: a tile under a `BMODE`, or the immediate. -/
def bCode (m : Memory) (core : Nat) (bmode : Nat) (db : Desc) (imm i j : Nat) : Nat × Nat :=
  if bmode = 3 then (5, imm) else
    let (r, c) := bIndex bmode i j
    (Tile.fmt db, Tile.code m core db r c)

/-- The operations whose second operand is B (R209). -/
def usesB (op : Nat) : Bool :=
  decide (op ∈ [0x30, 0x31, 0x32, 0x33, 0x34, 0x35, 0x36, 0x37, 0x47, 0x50]) || decide (0x58 ≤ op ∧ op ≤ 0x61)

/-- The operations that have a third operand C: FMA and SEL (R209). -/
def usesC (op : Nat) : Bool := decide (op = 0x36) || decide (op = 0x37)

/-- Operands of an elementwise instruction. -/
structure VArgs where
  op : Nat
  dd : Desc
  da : Desc
  db : Desc
  dc : Desc
  bmode : Nat
  cond : Nat
  imm : Nat

/-- One element of a floating-point operation: code written, values flushed. A repeated or immediate operand counts at every
element that uses it, the model's choice (R169; log entry 150). -/
def floatElem (m : Memory) (core : Nat) (ftz : Bool) (x : VArgs) (i j : Nat) : Nat × Nat :=
  let a := readF ftz (Tile.fmt x.da) (Tile.code m core x.da i j)
  let b := if usesB x.op then
      let (f, c) := bCode m core x.bmode x.db x.imm i j
      readF ftz f c
    else ⟨0, 0⟩
  let c := if usesC x.op then readF ftz (Tile.fmt x.dc) (Tile.code m core x.dc i j) else ⟨0, 0⟩
  if x.op = 0x35 then ((cmp32 x.cond a.v b.v).toNat, a.n + b.n)
  else
    let (r, k) := narrowF ftz (Tile.fmt x.dd) (floatOp x.op a.v b.v c.v)
    (r, a.n + b.n + c.n + k)

/-- An elementwise floating-point instruction. Elements are read from the memory as it stood at issue. -/
def runFloat (m : Memory) (core : Nat) (ftz : Bool) (x : VArgs) : VRun :=
  forTile (Tile.rows x.dd) (Tile.cols x.dd) (fun s i j =>
    let (c, k) := floatElem m core ftz x i j
    { s with mem := Tile.putCode s.mem core x.dd i j c, flushed := s.flushed + k,
             nonfinite := s.nonfinite || codeNonfinite (Tile.fmt x.dd) c }) ⟨m, 0, false, 0⟩

/-- An elementwise U32 instruction. -/
def runInt (m : Memory) (core : Nat) (x : VArgs) : VRun :=
  forTile (Tile.rows x.dd) (Tile.cols x.dd) (fun s i j =>
    let a := BitVec.ofNat 32 (Tile.code m core x.da i j)
    let b := BitVec.ofNat 32 (bCode m core x.bmode x.db x.imm i j).2
    { s with mem := Tile.putCode s.mem core x.dd i j (intOp x.op x.cond a b).toNat }) ⟨m, 0, false, 0⟩

/-- SEL copies the second or third operand unchanged (R146, R210). -/
def runSel (m : Memory) (core : Nat) (x : VArgs) : VRun :=
  forTile (Tile.rows x.dd) (Tile.cols x.dd) (fun s i j =>
    let pick := Tile.code m core x.da i j ≠ 0
    let (r, c) := bIndex x.bmode i j
    let mem :=
      if Tile.isPair x.dd then
        let (d, i', j') := if pick then (x.db, r, c) else (x.dc, i, j)
        Tile.putPair s.mem core x.dd i j
          (BitVec.ofNat 32 (Tile.code m core d i' j'), Tile.pairE m core d i' j')
      else
        let v := if pick then Tile.code m core x.db r c else Tile.code m core x.dc i j
        Tile.putCode s.mem core x.dd i j v
    { s with mem := mem }) ⟨m, 0, false, 0⟩

def pairAt (m : Memory) (core : Nat) (d : Desc) (i j : Nat) : Pair :=
  (BitVec.ofNat 32 (Tile.code m core d i j), Tile.pairE m core d i j)

/-- COMB (R151); `FTZ` does not govern it (R149). -/
def runComb (m : Memory) (core : Nat) (x : VArgs) : VRun :=
  forTile (Tile.rows x.dd) (Tile.cols x.dd) (fun s i j =>
    let (r, c) := bIndex x.bmode i j
    let v := combine (pairAt m core x.da i j) (pairAt m core x.db r c)
    { s with mem := Tile.putPair s.mem core x.dd i j v, comb := s.comb + 1,
             nonfinite := s.nonfinite || isNonfinite32 v.1 }) ⟨m, 0, false, 0⟩

/-- One level of the balanced tree: neighbours combined (R153). -/
def combLevel : List Pair → List Pair
  | a :: b :: r => combine a b :: combLevel r
  | r => r

/-- The RSUM pair of a list of values (R153). -/
def rsumPair (xs : List Word) : Pair :=
  let n := xs.length
  let lane := fun l => forN (ceilDiv (n - l) 128) (fun (p : Pair) k => combine p (xs.getD (l + 128 * k) 0#32, 0#32))
    (0#32, 0#32)
  ((List.range 128).map lane |> combLevel |> combLevel |> combLevel |> combLevel |> combLevel |> combLevel
    |> combLevel).headD (0#32, 0#32)

/-- RSUM of each row; it follows gradual underflow (R149, R153). -/
def runRsum (m : Memory) (core : Nat) (x : VArgs) : VRun :=
  forN (Tile.rows x.da) (fun s i =>
    let xs := (List.range (Tile.cols x.da)).map fun j => widen (Tile.fmt x.da) (Tile.code m core x.da i j)
    let p := rsumPair xs
    let mem := if Tile.isPair x.dd then Tile.putPair s.mem core x.dd i 0 p
      else Tile.putCode s.mem core x.dd i 0 p.1.toNat
    { s with mem := mem, nonfinite := s.nonfinite || isNonfinite32 p.1 }) ⟨m, 0, false, 0⟩

/-- RMAX of each row (R154). -/
def runRmax (m : Memory) (core : Nat) (ftz : Bool) (x : VArgs) : VRun :=
  forN (Tile.rows x.da) (fun s i =>
    let (v, n) := forN (Tile.cols x.da) (fun (a : Word × Nat) j =>
      let y := readF ftz (Tile.fmt x.da) (Tile.code m core x.da i j)
      (max32 a.1 y.v, a.2 + y.n)) (0xFF800000#32, 0)
    let (c, k) := narrowF ftz (Tile.fmt x.dd) v
    { s with mem := Tile.putCode s.mem core x.dd i 0 c, flushed := s.flushed + n + k,
             nonfinite := s.nonfinite || codeNonfinite (Tile.fmt x.dd) c }) ⟨m, 0, false, 0⟩

/-- Word `k` of a parameter block (R212). -/
def prmWord (m : Memory) (core : Nat) (d : Desc) (k : Nat) : Word := BitVec.ofNat 32 (Tile.code m core d 0 k)

/-- A result of the optimizer arithmetic, flushed where `FTZ` is 1, added to a running count. -/
def step1 (ftz : Bool) (x : Word) (n : Nat) : Fl := let y := flushIf ftz x; ⟨y.v, n + y.n⟩

/-- The words of a parameter block as they are read, and how many of those in `used` were flushed (R212); only the words
that the opcode uses are read, the model's choice (log entry 52). -/
def prmRead (m : Memory) (core : Nat) (ftz : Bool) (d : Desc) (used : List Nat) : (Nat → Word) × Nat :=
  (fun k => (flushIf ftz (prmWord m core d k)).v,
   (used.map fun k => (flushIf ftz (prmWord m core d k)).n).sum)

/-- Adaptive moments of one weight: new w, m, v and values flushed (R162). -/
def adamElem (ftz : Bool) (p : Nat → Word) (acc w mo v : Word) : Word × Word × Word × Nat :=
  let a := flushIf ftz acc
  let w := step1 ftz w a.n
  let mo := step1 ftz mo w.n
  let v := step1 ftz v mo.n
  let g0 := step1 ftz (mul32 a.v (p 5)) v.n
  let g := step1 ftz (mul32 g0.v (p 6)) g0.n
  let t1 := step1 ftz (mul32 (p 8) g.v) g.n
  let m' := step1 ftz (fma32 (p 7) mo.v t1.v) t1.n
  let gg := step1 ftz (mul32 g.v g.v) m'.n
  let t2 := step1 ftz (mul32 (p 10) gg.v) gg.n
  let v' := step1 ftz (fma32 (p 9) v.v t2.v) t2.n
  let vc := step1 ftz (mul32 v'.v (p 4)) v'.n
  let sq := step1 ftz (sqrt32 vc.v) vc.n
  let den := step1 ftz (add32 sq.v (p 11)) sq.n
  let mc := step1 ftz (mul32 m'.v (p 3)) den.n
  let u := step1 ftz (div32 mc.v den.v) mc.n
  let d := step1 ftz (fma32 (p 13) w.v u.v) u.n
  let w' := step1 ftz (fma32 (neg32 (p 12)) d.v w.v) d.n
  (w'.v, m'.v, v'.v, w'.n)

/-- Momentum of one weight: new w, m and values flushed (R163). -/
def momElem (ftz : Bool) (p : Nat → Word) (acc w mo : Word) : Word × Word × Nat :=
  let a := flushIf ftz acc
  let w := step1 ftz w a.n
  let mo := step1 ftz mo w.n
  let g0 := step1 ftz (mul32 a.v (p 5)) mo.n
  let g := step1 ftz (mul32 g0.v (p 6)) g0.n
  let m' := step1 ftz (fma32 (p 14) mo.v g.v) g.n
  let d := step1 ftz (fma32 (p 13) w.v m'.v) m'.n
  let w' := step1 ftz (fma32 (neg32 (p 12)) d.v w.v) d.n
  (w'.v, m'.v, w'.n)

/-- OPT_ADAM over a tile (R162, R211, R212). -/
def runAdam (m : Memory) (core : Nat) (ftz : Bool) (dw dm dv da dp : Desc) : VRun :=
  let (p, n0) := prmRead m core ftz dp [3, 4, 5, 6, 7, 8, 9, 10, 11, 12, 13]
  let rd := fun (d : Desc) i j => BitVec.ofNat 32 (Tile.code m core d i j)
  let s : VRun := ⟨m, 0, false, 0⟩
  let r := forTile (Tile.rows dw) (Tile.cols dw) (fun s i j =>
    let (w, mo, v, n) := adamElem ftz p (rd da i j) (rd dw i j) (rd dm i j) (rd dv i j)
    { s with
      mem := Tile.putCode (Tile.putCode (Tile.putCode s.mem core dw i j w.toNat) core dm i j mo.toNat) core dv i j v.toNat
      flushed := s.flushed + n
      nonfinite := s.nonfinite || isNonfinite32 w || isNonfinite32 mo || isNonfinite32 v }) s
  { r with flushed := r.flushed + n0 }

/-- OPT_MOM over a tile (R163, R211). -/
def runMom (m : Memory) (core : Nat) (ftz : Bool) (dw dm da dp : Desc) : VRun :=
  let (p, n0) := prmRead m core ftz dp [5, 6, 12, 13, 14]
  let rd := fun (d : Desc) i j => BitVec.ofNat 32 (Tile.code m core d i j)
  let r := forTile (Tile.rows dw) (Tile.cols dw) (fun (s : VRun) i j =>
    let (w, mo, n) := momElem ftz p (rd da i j) (rd dw i j) (rd dm i j)
    { s with
      mem := Tile.putCode (Tile.putCode s.mem core dw i j w.toNat) core dm i j mo.toNat
      flushed := s.flushed + n
      nonfinite := s.nonfinite || isNonfinite32 w || isNonfinite32 mo }) ⟨m, 0, false, 0⟩
  { r with flushed := r.flushed + n0 }

/-- OPT_STEP: t, p1, p2, c1, c2, ls and lr of a parameter block, with EXP from `CVT_LOSS_SCALE` (R162, R212); subnormal
p1 and p2 are flushed and counted as they are read (log entry 52), and a NaN of the learning-rate table is copied with its
payload (log entry 146), the model's choices. -/
def runOptStep (m : Memory) (core : Nat) (ftz : Bool) (dp dl : Desc) (exp : Nat) : VRun :=
  let (p, n0) := prmRead m core ftz dp [1, 2, 7, 9]
  let t := prmWord m core dp 0 + 1#32
  let p1 := step1 ftz (mul32 (p 1) (p 7)) n0
  let p2 := step1 ftz (mul32 (p 2) (p 9)) p1.n
  let one := 0x3F800000#32
  let d1 := step1 ftz (sub32 one p1.v) p2.n
  let d2 := step1 ftz (sub32 one p2.v) d1.n
  let c1 := step1 ftz (rcp32 d1.v) d2.n
  let c2 := step1 ftz (rcp32 d2.v) c1.n
  let ls := step1 ftz (enc32 (.fin false 1 (-(exp : Int)))) c2.n
  let lr := step1 ftz (BitVec.ofNat 32 (Tile.code m core dl 0 (min t.toNat (Tile.cols dl - 1)))) ls.n
  let out : List (Nat × Word) :=
    [(0, t), (1, p1.v), (2, p2.v), (3, c1.v), (4, c2.v), (5, ls.v), (12, lr.v)]
  { mem := out.foldl (fun m kv => Tile.putCode m core dp 0 kv.1 kv.2.toNat) m
    flushed := lr.n
    nonfinite := out.any fun kv => kv.1 ≠ 0 && isNonfinite32 kv.2
    comb := 0 }

end Sys2Proof.Machine
end

