-- ==== Sys2Proof/Machine/ExecVector.lean ====
section
/-!
DEFINITION. The Vector Engine's instructions (06_vector_accumulation.md R143 to R169; 08 R209 to R212): the operands
of each, its work, and the engine's status and counters.
-/

namespace Sys2Proof.Machine

/-- Operands of an elementwise, pair or reduction instruction (R209). -/
def vargs (s : State) (core : Nat) (w : TWord) : VArgs :=
  { op := TW.opcode w, dd := s.desc core (bits w 84 77), da := s.desc core (bits w 76 69), db := s.desc core (bits w 68 61)
    dc := s.desc core (bits w 60 53), bmode := TW.bmode w, cond := TW.cond w, imm := TW.imm w }

/-- The mode in force (R148, R167). -/
def ftzOf (s : State) (core : Nat) : Bool := s.flag .VEC_MODE core 0

/-- What a vector run leaves: memory, flushed values, non-finite results and canonical nodes (R55, R152, R168, R169). -/
def vecDone (s : State) (core : Nat) (w : TWord) (r : VRun) : Run :=
  let outs := ((TW.outs w).map (s.desc core)).flatMap (Tile.physRanges core)
  let t := (s.commitMem r.mem outs).1
  let t := t.countSat .VEC_FLUSH_COUNT core r.flushed
  let t := t.countWrap .VEC_COMB_COUNT core r.comb
  let t := if r.flushed ≠ 0 then t.setFlag .VEC_STATUS core 31 else t
  let t := if r.nonfinite then t.setFlag .VEC_STATUS core 30 else t
  s.ran core w t []

/-- An elementwise floating-point instruction (R144, R145, R209, R210). -/
def bodyFloat : Body := fun s core _ w _ => vecDone s core w (runFloat s.mem core (ftzOf s core) (vargs s core w))

/-- An elementwise U32 instruction (R144, R210). -/
def bodyInt : Body := fun s core _ w _ => vecDone s core w (runInt s.mem core (vargs s core w))

/-- SEL (R146, R210). -/
def bodySel : Body := fun s core _ w _ => vecDone s core w (runSel s.mem core (vargs s core w))

/-- COMB (R151, R152). In the B-stream it is gradient accumulation, whose non-finite node the overflow verdict finds (R22,
R76; log entry 106). -/
def bodyComb : Body := fun s core _ w _ =>
  let r := runComb s.mem core (vargs s core w)
  vecDone (s.gradNonfinite (clOfCore core) (r.nonfinite && s.streamBit core w)) core w r

/-- RSUM (R153). -/
def bodyRsum : Body := fun s core _ w _ => vecDone s core w (runRsum s.mem core (vargs s core w))

/-- RMAX (R154). -/
def bodyRmax : Body := fun s core _ w _ =>
  vecDone s core w (runRmax s.mem core (ftzOf s core) (vargs s core w))

/-- VMODE sets `VEC_MODE.FTZ` at its place in the queue (R148, R210). -/
def bodyVmode : Body := fun s core _ w _ =>
  Run.of (s.setFld .VEC_MODE core 0 0 (bits w 0 0)) [] [] []

/-- OPT_ADAM (R162, R211, R212). -/
def bodyAdam : Body := fun s core _ w _ =>
  let d := fun hi => s.desc core (bits w hi (hi - 7))
  vecDone s core w (runAdam s.mem core (ftzOf s core) (d 84) (d 76) (d 68) (d 60) (d 52))

/-- OPT_MOM (R163, R211, R212). -/
def bodyMom : Body := fun s core _ w _ =>
  let d := fun hi => s.desc core (bits w hi (hi - 7))
  vecDone s core w (runMom s.mem core (ftzOf s core) (d 84) (d 76) (d 60) (d 52))

/-- OPT_STEP, with `EXP` of the cluster's `CVT_LOSS_SCALE` (R162, R212). -/
def bodyOptStep : Body := fun s core _ w _ =>
  let d := fun hi => s.desc core (bits w hi (hi - 7))
  vecDone s core w (runOptStep s.mem core (ftzOf s core) (d 84) (d 76) (s.fld .CVT_LOSS_SCALE (clOfCore core) 7 0))

def execAdd (core : CoreId) (env : Env) (s : State) : Host.Outcome State Fault Refusal :=
  .next (s.runHead core 2 0x30 env bodyFloat)

def execSub (core : CoreId) (env : Env) (s : State) : Host.Outcome State Fault Refusal :=
  .next (s.runHead core 2 0x31 env bodyFloat)

def execMul (core : CoreId) (env : Env) (s : State) : Host.Outcome State Fault Refusal :=
  .next (s.runHead core 2 0x32 env bodyFloat)

def execMinF (core : CoreId) (env : Env) (s : State) : Host.Outcome State Fault Refusal :=
  .next (s.runHead core 2 0x33 env bodyFloat)

def execMaxF (core : CoreId) (env : Env) (s : State) : Host.Outcome State Fault Refusal :=
  .next (s.runHead core 2 0x34 env bodyFloat)

def execCmp (core : CoreId) (env : Env) (s : State) : Host.Outcome State Fault Refusal :=
  .next (s.runHead core 2 0x35 env bodyFloat)

def execFma (core : CoreId) (env : Env) (s : State) : Host.Outcome State Fault Refusal :=
  .next (s.runHead core 2 0x36 env bodyFloat)

def execSel (core : CoreId) (env : Env) (s : State) : Host.Outcome State Fault Refusal :=
  .next (s.runHead core 2 0x37 env bodySel)

def execAbsF (core : CoreId) (env : Env) (s : State) : Host.Outcome State Fault Refusal :=
  .next (s.runHead core 2 0x38 env bodyFloat)

def execNeg (core : CoreId) (env : Env) (s : State) : Host.Outcome State Fault Refusal :=
  .next (s.runHead core 2 0x39 env bodyFloat)

def execCvt (core : CoreId) (env : Env) (s : State) : Host.Outcome State Fault Refusal :=
  .next (s.runHead core 2 0x3A env bodyFloat)

def execExp (core : CoreId) (env : Env) (s : State) : Host.Outcome State Fault Refusal :=
  .next (s.runHead core 2 0x40 env bodyFloat)

def execExp2 (core : CoreId) (env : Env) (s : State) : Host.Outcome State Fault Refusal :=
  .next (s.runHead core 2 0x41 env bodyFloat)

def execLog (core : CoreId) (env : Env) (s : State) : Host.Outcome State Fault Refusal :=
  .next (s.runHead core 2 0x42 env bodyFloat)

def execLog2 (core : CoreId) (env : Env) (s : State) : Host.Outcome State Fault Refusal :=
  .next (s.runHead core 2 0x43 env bodyFloat)

def execRcp (core : CoreId) (env : Env) (s : State) : Host.Outcome State Fault Refusal :=
  .next (s.runHead core 2 0x44 env bodyFloat)

def execRsqrt (core : CoreId) (env : Env) (s : State) : Host.Outcome State Fault Refusal :=
  .next (s.runHead core 2 0x45 env bodyFloat)

def execSqrt (core : CoreId) (env : Env) (s : State) : Host.Outcome State Fault Refusal :=
  .next (s.runHead core 2 0x46 env bodyFloat)

def execDiv (core : CoreId) (env : Env) (s : State) : Host.Outcome State Fault Refusal :=
  .next (s.runHead core 2 0x47 env bodyFloat)

def execTanh (core : CoreId) (env : Env) (s : State) : Host.Outcome State Fault Refusal :=
  .next (s.runHead core 2 0x48 env bodyFloat)

def execSin (core : CoreId) (env : Env) (s : State) : Host.Outcome State Fault Refusal :=
  .next (s.runHead core 2 0x49 env bodyFloat)

def execCos (core : CoreId) (env : Env) (s : State) : Host.Outcome State Fault Refusal :=
  .next (s.runHead core 2 0x4A env bodyFloat)

def execComb (core : CoreId) (env : Env) (s : State) : Host.Outcome State Fault Refusal :=
  .next (s.runHead core 2 0x50 env bodyComb)

def execRsum (core : CoreId) (env : Env) (s : State) : Host.Outcome State Fault Refusal :=
  .next (s.runHead core 2 0x51 env bodyRsum)

def execRmax (core : CoreId) (env : Env) (s : State) : Host.Outcome State Fault Refusal :=
  .next (s.runHead core 2 0x52 env bodyRmax)

def execIadd (core : CoreId) (env : Env) (s : State) : Host.Outcome State Fault Refusal :=
  .next (s.runHead core 2 0x58 env bodyInt)

def execIsub (core : CoreId) (env : Env) (s : State) : Host.Outcome State Fault Refusal :=
  .next (s.runHead core 2 0x59 env bodyInt)

def execImin (core : CoreId) (env : Env) (s : State) : Host.Outcome State Fault Refusal :=
  .next (s.runHead core 2 0x5A env bodyInt)

def execImax (core : CoreId) (env : Env) (s : State) : Host.Outcome State Fault Refusal :=
  .next (s.runHead core 2 0x5B env bodyInt)

def execIcmp (core : CoreId) (env : Env) (s : State) : Host.Outcome State Fault Refusal :=
  .next (s.runHead core 2 0x5C env bodyInt)

def execAndU (core : CoreId) (env : Env) (s : State) : Host.Outcome State Fault Refusal :=
  .next (s.runHead core 2 0x5D env bodyInt)

def execOrU (core : CoreId) (env : Env) (s : State) : Host.Outcome State Fault Refusal :=
  .next (s.runHead core 2 0x5E env bodyInt)

def execXorU (core : CoreId) (env : Env) (s : State) : Host.Outcome State Fault Refusal :=
  .next (s.runHead core 2 0x5F env bodyInt)

def execShl (core : CoreId) (env : Env) (s : State) : Host.Outcome State Fault Refusal :=
  .next (s.runHead core 2 0x60 env bodyInt)

def execShr (core : CoreId) (env : Env) (s : State) : Host.Outcome State Fault Refusal :=
  .next (s.runHead core 2 0x61 env bodyInt)

def execVmode (core : CoreId) (env : Env) (s : State) : Host.Outcome State Fault Refusal :=
  .next (s.runHead core 2 0x68 env bodyVmode)

def execOptAdam (core : CoreId) (env : Env) (s : State) : Host.Outcome State Fault Refusal :=
  .next (s.runHead core 2 0x6A env bodyAdam)

def execOptMom (core : CoreId) (env : Env) (s : State) : Host.Outcome State Fault Refusal :=
  .next (s.runHead core 2 0x6B env bodyMom)

def execOptStep (core : CoreId) (env : Env) (s : State) : Host.Outcome State Fault Refusal :=
  .next (s.runHead core 2 0x6C env bodyOptStep)

end Sys2Proof.Machine
end

