-- ==== Sys2Proof/Machine/Replay.lean ====
section
/-!
DEFINITION. What a reset at context or engine level does to cores, and the fault replay (16_resilience_snapshots.md R440 to R444; 17_hang_recovery.md R456, R457, R460; 09 R238; 12 R325).
-/

namespace Sys2Proof.Machine

/-- What carries out an opcode again; a KVAPPEND writes its rows at the tokens of its first execution (R325). -/
def bodyOf (op : Nat) : Option Body :=
  if op = 0 ∨ op = 1 then some bodyNone
  else if op = 2 then some (bodyFlag false)
  else if op = 3 then some (bodyFlag true)
  else if op = 4 then some (bodyUpass true)
  else if op = 5 then some (bodyUpass false)
  else if op = 0x10 then some bodyFmm
  else if op = 0x20 then some bodyBmm
  else if op = 0x37 then some bodySel
  else if 0x30 ≤ op ∧ op ≤ 0x4A then some bodyFloat
  else if op = 0x50 then some bodyComb
  else if op = 0x51 then some bodyRsum
  else if op = 0x52 then some bodyRmax
  else if 0x58 ≤ op ∧ op ≤ 0x61 then some bodyInt
  else if op = 0x68 then some bodyVmode
  else if op = 0x6A then some bodyAdam
  else if op = 0x6B then some bodyMom
  else if op = 0x6C then some bodyOptStep
  else if op = 0x70 then some bodyConv
  else if op = 0x71 then some bodyConv2
  else if op = 0x72 then some bodyConvx
  else if op = 0x80 then some bodyGather
  else if op = 0x82 then some bodyKvread
  else if op = 0x83 then some bodyRoute
  else if op = 0x90 then some bodyCopy
  else if op = 0x91 then some bodyPrefetch
  else if op = 0x94 then some fun s core eng w env => startMove s core eng w env
  else if op = 0x96 then some bodyFurl
  else if op = 0x97 then some bodyUnfurl
  else if op = 0x98 then some bodyCsend
  else if op = 0x99 then some bodyCrecv
  else none

namespace State

/-! Cutting off (R456). -/

/-- An instruction that a reset cuts off in execution writes an event record with HANG_RESET; its log entry stays not
done. -/
def cutFlight (s : State) (core : Nat) (f : Flight) : State :=
  if f.done then s
  else s.putEvent (clOfCore core) (s.eventWords core f.word false ((f.descs.head?.map Tile.stream).getD false)
    [.hangReset] (BitVec.ofNat 32 f.seq))

/-- Every instruction in execution in a core is cut off; those that wait only for queue order complete first. -/
def cutCore (s : State) (core : Nat) : State :=
  (List.range 6).foldl (fun s eng =>
    let s := s.drainAll core eng
    let s := (s.q core eng).flight.foldl (fun s f => s.cutFlight core f) s
    s.modQ core eng fun q => { q with flight := [], waiting := false, refetching := false, restale := false }) s

/-- A pending shadow sample is discarded (R183). -/
def dropShadow (s : State) (core : Nat) : State :=
  if (s.core core).shadow.isSome then
    (s.modCore core fun c => { c with shadow := none }).countSat .TTL_SHADOW_LOST 0 1
  else s

/-- What a context-level reset clears in a core: tokens, Source Watch ranges, the shadow sample, the issue hold (R457).
-/
def clearContext (s : State) (core : Nat) : State :=
  (s.dropShadow core).modCore core fun c => { c with tok := [], watch := [], hold := none, miss := [] }

/-- ABANDON of a core, whose Vector queue's head stalls until then: queue contents and Replay Logs go too (R457, R460). -/
def abandonCore (s : State) (core : Nat) : State :=
  (((s.headDropped core 2).cutCore core).clearContext core).modCore core fun c =>
    { c with q := SMap.mapVals EngQ.reset (fun _ q => { q with items := [], upass := false, log := [] }) c.q, journal := [] }

/-- ABANDON of a cluster's cores; its context stops (R272, R457). -/
def abandonCluster (s : State) (c : Nat) : State :=
  let s := ((List.range 8).foldl (fun s i => s.abandonCore (8 * c + i)) s).endHold c
  (s.modChn c fun h => { h with held := none, ld := h.ld.map fun l => { l with startAfter := false } }).clrFlag .CHN_CTRL c 0

/-! Fault replay (R443, R460). -/

/-- One post comes back to a token, as its oldest. -/
def unconsume (s : State) (core eng : Nat) (t : Option Nat) (src : Word) : State :=
  match t with
  | none => s
  | some t => s.modTok core eng t fun x => { x with count := x.count + 1, srcs := src :: x.srcs }

/-- The tokens as if exactly the completed instructions had run: what the instructions that have not completed had
consumed comes back, once where both waits name one token (R234); `STALE` is 0 (R238, R443). What the queue of a stopped array has
issued stays so until its engine-level reset (R109). -/
def rewindTokens (s : State) (core : Nat) : State :=
  let calm := fun (_ : Nat) (t : Tok) => { t with pend := 0, pendOwn := 0, stale := false }
  let s := s.modCore core fun c => { c with tok := SMap.mapVals Tok.reset calm c.tok }
  ((List.range 6).filter fun eng => !s.arrayStopped core eng).foldl (fun s eng =>
    ((s.q core eng).log.filter fun e => !e.done).reverse.foldl (fun s e =>
      (s.unconsume core eng (if TW.waitB e.word = TW.waitA e.word then none else TW.waitB e.word) e.srcB).unconsume core eng (TW.waitA e.word) e.srcA) s) s

/-- PEND counts what can still post: the instructions in the queues and those to be replayed; PEND_OWN those in the
owner's queue (R232, R460). -/
def recountPend (s : State) (core : Nat) : State :=
  (List.range 6).foldl (fun s eng =>
    let q := s.q core eng
    let s := q.items.foldl (fun s w => match TW.post w with
      | none => s
      | some id => s.modTok core (TW.pcons w) id fun t =>
          { t with pend := t.pend + 1, pendOwn := if TW.pcons w = TW.engine w then t.pendOwn + 1 else t.pendOwn }) s
    (q.log.filter fun e => !e.done).foldl (fun s e => match TW.post e.word with
      | none => s
      | some id => s.modTok core (TW.pcons e.word) id fun t => { t with pend := t.pend + 1 }) s) s

/-- Run `f` with the descriptors as of version `v` in force; what it changes in them stands (R441, R443). -/
def withDescAt (s : State) (core v : Nat) (is : List Nat) (f : State → State) : State :=
  let now := is.map fun i => (i, s.desc core i)
  let old := is.map fun i => (i, s.descAt core v i)
  let t := f (old.foldl (fun s x => s.setDesc core x.1 x.2) s)
  (now.zip old).foldl (fun t x =>
    if t.desc core x.1.1 = x.2.2 then t.setDesc core x.1.1 x.1.2 else t) t

/-- Carry out one unfinished log entry again; one with NOREPLAY stops the replay and a restore follows (R443, R444). The
flag says that the replay goes on. -/
def replayEntry (s : State) (core eng : Nat) (e : LogEntry) (env : Env) : State × Bool :=
  if e.noReplay then
    ((s.setFlag .RES_LOG_STATUS 0 30).modPart (s.partOf (clOfCore core)) fun x => { x with restoreDue := true }, false)
  else
    match bodyOf (TW.opcode e.word) with
    | none => (s, true)
    | some body =>
      let s := s.countSat .RES_REPLAY_COUNT 0 1
      let s := (TW.waits e.word).foldl (fun s t => s.consumeTok core eng t) s
      let seq := (s.q core eng).seq
      let s := s.modQ core eng fun q => { q with seq := BitVec.ofNat 32 e.seq }
      let s := s.withDescAt core e.dver (TW.ins e.word ++ TW.outs e.word)
        fun s => s.carry core eng e.word e.seq env [.recomputed] body
      (s.modQ core eng fun q => { q with seq := seq }, true)

/-- Replay entries in order, each with what its run meets. -/
def replayList (s : State) (core : Nat) : List (Nat × LogEntry) → List Env → State
  | [], _ => s
  | (eng, e) :: es, envs =>
    let r := s.replayEntry core eng e (envs.headD Env.quiet)
    if r.2 then r.1.replayList core es (envs.drop 1) else r.1

/-- RESUME of a core: what was in execution is cut off, its context is cleared, tokens are set back, and the entries
not done are replayed, but those of a stopped array; instructions not yet issued stay in their queues (R109, R131, R443, R457,
R460). -/
def resumeCore (s : State) (core : Nat) (envs : List Env) : State :=
  let s := s.cutCore core
  let tok := (s.core core).tok
  let s := (s.clearContext core).modCore core fun c => { c with tok := tok }
  let s := (s.rewindTokens core).recountPend core
  let es := ((List.range 6).filter fun eng => !s.arrayStopped core eng).flatMap fun eng =>
    ((s.q core eng).log.filter fun e => !e.done).map fun e => (eng, e)
  s.replayList core es envs

end State

end Sys2Proof.Machine
end

