-- ==== Sys2Proof/Machine/Snapshot.lean ====
section
/-!
DEFINITION. Epochs, restores, the hold, and what a lost peer brings: the shared operations (16_resilience_snapshots.md
R427 to R439; 13 R358, R361; 17 R470; 18 R486).
-/

namespace Sys2Proof.Machine

namespace State

/-- The partition's function's event vector (R411). -/
def eventVector (s : State) (p : Nat) : State := s.raiseEvent p

/-! A partition's clusters. -/

/-- Image values of the flags of a partition's contexts (R242). -/
def resetFlags (s : State) (p : Nat) : State :=
  let plan := (s.part p).plan
  let s := (s.partClusters p).foldl (fun s c =>
    let s := s.modCluster c fun x => { x with flags := [] }
    let hit := ((List.range 1024).filter fun f => s.inDflagRange c f)
    s.modDie (dieOfCl c) fun d => { d with dflags := d.dflags.filter fun x => !hit.contains x.1 }) s
  match plan with
  | none => s
  | some pl =>
    let s := pl.flags.foldl (fun s x => s.setFlagVal x.1 false x.2.1 x.2.2) s
    pl.dflags.foldl (fun s x => s.setFlagVal (8 * x.1.val) true x.2.1 x.2.2) s

/-- A context-level ABANDON of every cluster of a partition (R457). -/
def abandonPart (s : State) (p : Nat) : State := (s.partClusters p).foldl (fun s c => s.abandonCluster c) s

/-- The step's marks in a partition go: what R76, R389 and R427 keep for the step in progress. That an update-pass instruction has
issued stays until the step ends or begins again (R462). -/
def clearStepMarks (s : State) (p : Nat) : State :=
  (s.partClusters p).foldl (fun s c => s.modCluster c fun x => { x with posts := [], ovfKeep := [] })
    ({ s with nwQ := s.nwQ.filter fun y => y.due || y.part != p }.modPart p fun x => { x with
      gradNf := false, verdict := none, reefDone := false, ready := none, reqOr := false, nfOr := false, nf := false
      inputHold := false, stallUs := 0, satN := 0, vanN := 0 })

/-- Chanters of a partition's job start at their entries, each flag of their contexts at the image's value (R242, R266, R272,
R462). -/
def startChanters (s : State) (p : Nat) : State :=
  match (s.part p).plan with
  | none => s
  | some pl => (pl.code.map (·.1.val)).eraseDups.foldl (fun s c => if s.clusterHeld c then s else chnRun s c true) (s.resetFlags p)

/-- Halyard of each cluster of a partition is reset while its context is stopped (R322, R337). -/
def resetHalyards (s : State) (p : Nat) : State :=
  (s.partClusters p).foldl (fun s c =>
    let s := (((s.wr .KVP_CMD0 c 0x06000000#32).wr .KVP_CMD1 c 0).wr .KVP_CMD2 c 0).wr .KVP_CMD3 c 0
    (s.modKv c fun k => { k with walks := [], held := false }).kvReset c) s

/-! Boundary Records and images (R429, R461). -/

/-- The at-capture items of a partition's job. -/
def capture (s : State) (p : Nat) (step : Word) : Capture :=
  let params := match (s.part p).plan with
    | some pl => pl.params
    | none => []
  { step := step
    reef := (s.partClusters p).map fun c => (c, (s.cluster c).reef)
    ls := (s.partClusters p).map fun c => (c, s.rd .CVT_LOSS_SCALE c)
    skips := (s.part p).skips
    params := params.map fun x => (x.1, s.mem.rdN x.1 64) }

/-- The at-capture items come back. -/
def recapture (s : State) (p : Nat) (x : Capture) : State :=
  let s := x.reef.foldl (fun s y => s.modCluster y.1 fun c => { c with reef := y.2 }) s
  let s := x.ls.foldl (fun s y => s.wr .CVT_LOSS_SCALE y.1 y.2) s
  let s := x.params.foldl (fun s y => s.store y.1 y.2) s
  s.modPart p fun y => { y with skips := x.skips }

/-- A Boundary Record as it lies in its area at `base` (R461): the step, the skipped-step count, the loss scale of each cluster, the Reef
Tables, and the parameter blocks. The layout is the model's choice (log entry 169). -/
def recordMem (base : Nat) (x : Capture) : Memory :=
  let m := (Memory.wr32 [] base x.step).wr32 (base + 4) (BitVec.ofNat 32 x.skips)
  let m := x.ls.foldl (fun m y => m.wr32 (base + 0x40 + 4 * y.1) y.2) m
  let m := x.reef.foldl (fun m y => y.2.foldl (fun m w => m.wr32 (base + 0x1000 + 0x20000 * y.1 + 4 * w.1) w.2) m) m
  (x.params.zipIdx).foldl (fun m y => m.wrN (base + 0x401000 + 64 * y.2) y.1.2) m

/-- Address of a partition's Boundary Record area. -/
def recordAt (s : State) (p : Nat) (second : Bool) : Nat :=
  match (s.part p).plan with
  | none => 0
  | some pl => if second then pl.brec1 else pl.brec0

/-- A Boundary Record is written into its area; none for a job without a plan. -/
def putRecordArea (s : State) (p : Nat) (second : Bool) (x : Capture) : State :=
  if (s.part p).plan.isNone then s else s.putArea (s.recordAt p second) recordBytes (recordMem (s.recordAt p second) x)

/-! Epochs (R428 to R435). -/

/-- Address of a Snapshot Slot of a partition. -/
def slotBase (s : State) (p : Nat) (second : Bool) : Nat :=
  match (s.part p).plan with
  | none => 0
  | some pl => if second then pl.slot1 else pl.slot0

/-- The slot that holds the committed epoch, when one does. -/
def slotOfC (s : State) : Option Bool :=
  let e := s.epochC
  if e = noEpoch then none else some (s.record 8 != e)

/-- An epoch starts: the slot, its Stay register emptied, the at-capture items, and the protection of every state page
(R431); then the copy begins. -/
def startEpoch (s : State) (p : Nat) (e : Word) : State :=
  let second := s.slotOfC == some false
  let head := s.capture p e
  let s := if s.record 10 = noEpoch then s else s.setEpochReg 10 noEpoch
  let s := (s.setEpochReg (if second then 9 else 8) noEpoch).setEpochReg 11 (match (s.part p).job with
    | some j => j.id
    | none => 0)
  let s := { s with snap := { s.snap with
    part := p, epoch := e, slot := second, prot := (s.part p).pages, refused := false
    head0 := if second then s.snap.head0 else some head
    head1 := if second then some head else s.snap.head1 } }
  (s.modPart p fun x => { x with epochDue := false, drainEp := x.drainDue, drainDue := false }).setEpochState 2

/-- Epoch `e` of partition `p` is committed, in the slot whose Stay register its start emptied (R431, R435 order 5). -/
def commitEpoch (s : State) (p : Nat) (e : Word) : State :=
  let s := (s.setEpochReg (if s.record 8 = noEpoch then 8 else 9) e).setEpochReg 10 noEpoch
  let s := { s with snap := { s.snap with prot := [], lastBad := [] }
                    recov := { s.recov with seen := s.recov.seen.filter fun f => f.level != 3 } }
  let s := ((s.setEpochState 0).setFlag .RES_SNAP_STATUS 0 31).post 0 .epochCommitted e
    (BitVec.ofNat 32 (s.part p).pages.length)
  let first := (s.part p).firstEpoch
  let s := s.modPart p fun x => { x with firstEpoch := false, constDue := false, old := none, replanDue := x.replanDue || x.drainEp, drainEp := false }
  if first then s.startChanters p else s

/-! Parity groups (R433). -/

/-- Groups of a job of `P` members with group size `g`. -/
def groupCount (P g : Nat) : Nat :=
  let n := ceilDiv P g
  if P / n < 4 then P / 4 else n

/-- The ranks of this device's group in ascending order, and its position among them. -/
def parityGroup (s : State) (p : Nat) : List Nat × Nat :=
  match (s.part p).job with
  | none => ([], 0)
  | some j =>
    let P := j.members.length
    let n := groupCount P ((s.part p).group + 1)
    let r := j.members.idxOf s.devId
    ((List.range P).filter fun k => k % n == r % n, r / n)

/-- Pages of a chunk: the largest image of the group, rounded up, in g − 1 parts. -/
def chunkPages (ranks : List Nat) (counts : List Nat) : Nat :=
  ceilDiv ((ranks.map fun r => counts.getD r 0).foldl max 0) (ranks.length - 1)

end State

/-- Chunk `c` of `len` bytes of an image of `size` bytes at `base`: its bytes that are not 0, by their offset. -/
def Memory.chunk (m : Memory) (base size len c : Nat) : Memory :=
  ((m.filter fun x => decide (base + c * len ≤ x.1) && decide (x.1 < base + min size ((c + 1) * len))).map fun x => (x.1 - (base + c * len), x.2))

/-- The range `[base, base + len)` holds the bitwise XOR of some pieces, in whatever order they land. -/
def Memory.xorAll (m : Memory) (base len : Nat) (pieces : List (List (Nat × Byte))) : Memory :=
  pieces.foldl (fun m d => d.foldl (fun m x => if x.1 < len then m.wr (base + x.1) (m.rd (base + x.1) ^^^ x.2) else m) m) (m.zero base len)

namespace State

/-- The XOR of some pieces is put into a range (R433). -/
def storeXor (s : State) (base len : Nat) (pieces : List (List (Nat × Byte))) : State :=
  (s.commitMem (s.mem.xorAll base len pieces) [(base, len)]).1

/-! Restores (R436 to R439). -/

/-- The larger epoch of two, none counting least. -/
def maxEpoch (a b : Word) : Word :=
  if a = noEpoch then b else if b = noEpoch then a else if a.toNat < b.toNat then b else a

/-- A member whose prepared epoch is ER commits it; any other prepared epoch, or epoch in progress, is discarded (R436,
R438). -/
def settleEpoch (s : State) (p : Nat) (er : Word) (st : Status) : State :=
  if s.record 10 = er ∧ er ≠ noEpoch ∧ s.epochC ≠ er then s.commitEpoch p er
  else
    let s := s.discardEpoch st
    if s.record 10 = noEpoch then s else s.setEpochReg 10 noEpoch

/-- A block of a slot that fails its device CRC, after both re-reads, is counted and reported, and the chunk range that holds it is
rebuilt from the parity group (R308, R310, R439). -/
def mendChunk (s : State) (p base a : Nat) (pieces : List (List (Nat × Byte))) : State :=
  let pages := (s.part p).pages.length
  let ranks := (s.parityGroup p).1
  let len := pageBytes * chunkPages ranks (match (s.part p).plan with
    | some pl => pl.images.map (·.1)
    | none => [])
  if a < base ∨ base + pageBytes * pages ≤ a ∨ ranks.length < 4 ∨ pieces.length + 1 ≠ ranks.length ∨ len = 0 then s
  else
    let k := s.reporter a
    let s := ((s.countSat .MEM_CRC_COUNT k 3).setFlag .MEM_STATUS k 31).memPersistent a
    let c := (a - base) / len
    (s.storeXor (base + c * len) (min len (pageBytes * pages - c * len)) pieces).setFlag .RES_SNAP_STATUS 0 28

/-- The state pages and the at-capture items return from the slot that holds ER, whose bad blocks are rebuilt first, or from an
image rebuilt from parity (R438, R439, R445). -/
def pagesBack (s : State) (p : Nat) (er : Word) (rebuilt : Option Rebuilt) : State :=
  let second := s.record 8 != er
  let base := s.slotBase p second
  let fromSlot := fun (s : State) =>
    let pages := (s.part p).pages
    let m := (pages.zipIdx).foldl (fun m x => m.copyInto s.mem (base + pageBytes * x.2) (pageBytes * x.1) pageBytes) s.mem
    let s := (s.commitMem m (pages.map fun pg => (pageBytes * pg, pageBytes))).1
    match (if second then s.snap.head1 else s.snap.head0) with
    | some h => s.recapture p h
    | none => s
  match rebuilt with
  | some (.image pages head) =>
    let s := pages.foldl (fun s x => s.store x.1 x.2) s
    (s.recapture p head).setFlag .RES_SNAP_STATUS 0 28
  | some (.chunks mends) => fromSlot (mends.foldl (fun s x => s.mendChunk p base x.1 x.2) s)
  | none => fromSlot s

/-- The Norm Watch Table restarts as if first loaded (R189). Observations still held are emptied without `NW_DROPPED`, the
model's choice (log entry 151). -/
def restartNorms (s : State) : State := { s with nw := s.nwLoaded, nwSeen := [], nwQ := [] }

/-- The state of a job at the start of step ER is back: pages, at-capture items, flags, the KV store, `PLC_STEP`
(R438 orders 4 to 7). -/
def toEpoch (s : State) (p : Nat) (er : Word) (rebuilt : Option Rebuilt) : State :=
  let s := s.pagesBack p er rebuilt
  let s := (s.resetHalyards p).resetFlags p
  let s := s.restartNorms
  let s := s.modPart p fun x => { x with
    restoreDue := false, rec0 := none, rec1 := none, buf0 := none, buf1 := none, updated := false, rejoin := false
    timedOut := x.timedOut && er == s.rd .PLC_STEP p }
  s.wr .PLC_STEP p er

/-- A restore of a partition's job (R438). `others` is the largest committed epoch of the other members, `origin` the
member that started it, `rebuilt` the image when this member holds no epoch ER (R436). -/
def restorePart (s : State) (p origin : Nat) (others : Word) (rebuilt : Option Rebuilt) : State :=
  let s := (s.abandonPart p).clearStepMarks p
  let er := maxEpoch s.epochC others
  let s := s.settleEpoch p er .restored
  if er = noEpoch then (if (s.part p).firstEpoch ∧ s.epochState = 0 then s.startEpoch p (s.rd .PLC_STEP p) else s)
  else
    let s := s.toEpoch p er rebuilt
    let s := (s.setFlag .RES_SNAP_STATUS 0 29).post 0 .restore er (BitVec.ofNat 32 origin)
    let s := s.modPart p fun x => { x with inputHold := x.place.input.isSome }
    (s.startChanters p).eventVector p

/-! The hold (R470). -/

/-- A member enters HOLDING: the step in progress is abandoned; a window of 0 s passes to REPLANNING at once. -/
def holdJob (s : State) (p : Nat) : State :=
  let s := (s.abandonPart p).clearStepMarks p
  (s.setFld .PLC_JOB_STATE p 3 0 (if bits s.recov.rejoin 15 0 = 0 then 6 else 5)).eventVector p

/-! A peer is reported lost (R358, R361, R371). -/

/-- The instance of a CSEND or CRECV in flight: a CRECV's own, and of the instances that a CSEND's node has been given to, the one as
many from the last as CSENDs of that node issued after it (R371). -/
def flightInst (s : State) (core eng : Nat) (f : Flight) : Nat :=
  let die := dieOfCore core
  let cid := bits f.word 76 65
  match f.col with
  | some x => x.2
  | none =>
    let mine := s.fab.sent.filter fun x => x.1 == colKey die cid && x.2.2 == (bits f.word 64 60, bits f.word 59 42)
    let later := ((s.q core eng).flight.filter fun g => TW.opcode g.word == 0x98 && bits g.word 76 42 == bits f.word 76 42
      && decide (f.seq < g.seq)).length
    match mine.reverse[later]? with
    | some x => x.2.1
    | none => s.colUses die cid

/-- A flight that waits on a lost peer ends; a CSEND or CRECV of a collective that has it as a member ends too, and its instance
is discarded. -/
def flightLost (s : State) (dev core eng : Nat) (f : Flight) : State :=
  let die := dieOfCore core
  let cid := bits f.word 76 65
  let isCol := TW.opcode f.word == 0x98 || TW.opcode f.word == 0x99
  let e := s.col die cid
  if f.done || f.stuck then s
  else if isCol && ((List.range e.members).any fun r => (s.member e r).1 == dev) then
    ((s.discardInst die cid (s.flightInst core eng f)).setFlag .COL_STATUS die 28).endFlight core eng f.seq .peerLost
  else if f.waits.any fun k => keyDev k.1 == dev then s.endFlight core eng f.seq .peerLost
  else s

/-- Everything of a queue that a lost peer ends: what it has in flight, then the WAITF at its head (R252, R358, R361). -/
def queueLost (s : State) (dev : Nat) (x : Nat × Nat) : State :=
  ((s.q x.1 x.2).flight.foldl (fun s f => s.flightLost dev x.1 x.2 f) s).waitPeerLost dev x

/-- Every queue of the device, in ascending core and engine, as their records are written (R275). -/
def queuesLost (s : State) (dev : Nat) : State := ((List.range 4).flatMap queuesOf).foldl (fun s x => s.queueLost dev x) s

/-- This device runs its own recovery of a partition at level 3, or of the device, and has not come to its replay (R472). -/
def ownRecovery (s : State) (p : Nat) : Bool :=
  s.recov.faults.any fun f => decide (4 ≤ f.level) || (decide (f.level = 3) && s.partOf f.unit == p)

/-- Jobs that have a lost peer as a member: an epoch in progress is discarded, and steps that run are held (R379,
R437, R470), or after this device's own recovery (R472); in PLACING the plan is computed again without it. -/
def jobsLose (s : State) (dev : Nat) : State :=
  (List.range 8).foldl (fun s p =>
    match (s.part p).job with
    | none => s
    | some j =>
      if !j.members.contains dev then s
      else
        let s := s.modPart p fun x => { x with
          lost := if x.lost.contains dev then x.lost else x.lost ++ [dev]
          plan := if s.jobState p = 2 then none else x.plan }
        let s := if s.snap.part = p then s.discardEpoch .peerLost else s
        if s.stepping p && !s.ownRecovery p then s.holdJob p else s) s

/-- Report a peer lost (R361). -/
def reportLost (s : State) (dev : Nat) (fromNotice : Bool) : State :=
  if s.isLost dev || dev == s.devId then s
  else
    let inc := SMap.get 65536 s.fab.incs dev % 65536
    let s := (s.setFlag .FAB_STATUS 0 31).wr .FAB_LOST 0 (BitVec.ofNat 32 (2 ^ 31 + dev))
    let s := (s.emit (.peerLost dev)).post 0 .peerLost (BitVec.ofNat 32 dev) (BitVec.ofNat 32 inc)
    let s := s.modFab fun f => { f with
      lost := f.lost ++ [(dev, inc)]
      flows := SMap.mapVals Flow.reset (fun k x => if keyDev k = dev then { x with unacked := [], backlog := [] } else x) f.flows
      reads := f.reads.filter fun r => keyDev r.key != dev }
    let s := s.queuesLost dev
    let s := if fromNotice then s else s.originate 1 dev inc 0
    s.jobsLose dev

/-- Moasozil readmits a peer: its flows open anew with the incarnation it gave (R357, R471). -/
def readmit (s : State) (dev inc : Nat) : State :=
  let s := s.modFab fun f => { f with
    lost := f.lost.filter fun x => x.1 != dev
    up := f.up.filter fun x => x.1 != dev
    incs := SMap.set 65536 f.incs dev inc
    flows := SMap.mapVals Flow.reset (fun k x => if keyDev k = dev then { Flow.reset with inc := some inc } else x) f.flows }
  (List.range 8).foldl (fun s p => s.modPart p fun x => { x with lost := x.lost.filter fun d => d != dev }) s

end State

end Sys2Proof.Machine
end

