-- ==== Sys2Proof/Machine/ExecFabric.lean ====
section
/-!
DEFINITION. The fabric's rows: received frames by type, link control frames, forwarding, timers, lanes and ports
(13_fabric_collectives.md R342 to R371).
-/

namespace Sys2Proof.Machine

namespace State

/-! Frames of the transport (R346, R356). -/

/-- A WRITE: its data, and the notify of a COPY when every byte has landed (R220, R356). -/
def applyWrite (f : Frame) (s : State) (_ : Nat) : State × Ans :=
  let h := f.hdr
  let a := hOp h 47 0
  if !inMap a f.data.length then (s, .nack)
  else
    let r := s.commitMem (s.mem.wrN a f.data) [(a, f.data.length)]
    if r.2 then (r.1, .nack)
    else if hNotify h then
      let u := r.1.remoteUpdate (hOp h 59 58) (hOp h 57 48) (hSrc h) (hSdie h) true 1
      (u.1, if u.2 then .ack else .nack)
    else (r.1, .ack)

/-- A READ_REQ is answered by READ_DATA, which acknowledges it. -/
def applyReadReq (f : Frame) (s : State) (key : Nat) : State × Ans :=
  let h := f.hdr
  let a := hOp h 47 0
  let n := 4 * hOp h 74 64
  if !inMap a n then (s, .nack)
  else
    let s := s.modFlow key fun x => { x with expect := x.expect + 1 }
    ((s.queueFrame key 2 (BitVec.ofNat 96 (hOp h 95 80 * 2 ^ 80)) (s.mem.rdN a n) false none).1, .quiet)

/-- READ_DATA goes to the instruction whose tag it names. -/
def applyReadData (f : Frame) (s : State) (key : Nat) : State × Ans :=
  match s.fab.reads.find? fun r => r.tag == hOp f.hdr 95 80 && r.key == key with
  | none => (s, .ack)
  | some r =>
    let s := s.modFab fun x => { x with reads := x.reads.erase r }
    let put := fun (g : Flight) =>
      if g.seq = r.owner.2.2 then { g with img := g.img.wrN r.addr (f.data.take r.len) } else g
    let s := s.modQ r.owner.1 r.owner.2.1 fun q => { q with flight := q.flight.map put }
    (s.answer anyLand r.owner (key, r.psn) none, .ack)

/-- A FLAG frame: SETF or ADDF of a die flag (R243, R246, R248). -/
def applyFlag (f : Frame) (s : State) (_ : Nat) : State × Ans :=
  let h := f.hdr
  let u := s.remoteUpdate (hDdie h) (hOp h 41 32) (hSrc h) (hSdie h) (hOp h 42 42 == 1) (BitVec.ofNat 32 (hOp h 31 0))
  (u.1, if u.2 then .ack else .nack)

/-- The node store of a die is full: a block in each of its 4 KiB units, of nodes and results alike (R368, R374). -/
def storeFull (s : State) (die : Nat) : Bool :=
  decide ((s.rd .COL_STORE_SIZE die).toNat ≤ ((s.fab.nodes ++ s.fab.results).filter fun x => x.die == die).length)

/-- A COLL block: a piece, a result block, or a node's block, which forms its parent when both children are there
(R366 to R371). A full node store leaves the frame unacknowledged. -/
def applyColl (f : Frame) (s : State) (_ : Nat) : State × Ans :=
  let h := f.hdr
  let die := hDdie h
  let cid := hOp h 11 0
  let level := hOp h 16 12
  let node := hOp h 49 32
  let block := hOp h 86 64
  let base := sext 8 (hOp h 94 87)
  let esc := hOp h 95 95 == 1
  let e := s.col die cid
  let u := s.colUses die cid
  let inst := u + (hOp h 24 17 + 256 - u % 256) % 256
  let n := e.blockLen block
  if !s.flag .COL_CTRL die 31 then (s, .hold)
  else if s.colLost e then (s, .ack)
  else if s.storeFull die then (s, .hold)
  else if e.moves then
    let src := ((List.range e.members).find? fun r => s.member e r == (hSrc h, hSdie h)).getD 0
    (s.addResult ⟨die, cid, inst, 0, src, block, [], f.data, hOp h 94 87⟩, .ack)
  else if e.top ≤ level then
    let hr := match s.homeOf e e.top 0 (e.chunkOf block) with
      | some m => ((List.range e.members).find? fun r => s.member e r == m).getD 0
      | none => 0
    let q := (s.rankOf e + e.members - hr) % e.members
    (s.fanResult e inst block hr ⟨f.data, base, esc, 0, 0, false⟩ n 20 q, .ack)
  else
    let x : CBlock := ⟨die, cid, inst, level, node, block, blockIn e (e.narrows level) false esc base n f.data, [], 0⟩
    let s := s.modFab fun y => { y with nodes := y.nodes ++ [x] }
    if u = inst then
      match s.formable die cid inst (level + 1) (node / 2) block with
      | none => (s, .ack)
      | some qs => (((s.formed die cid inst (level + 1) (node / 2) block qs).raise die cid inst (level + 1) (node / 2)
          block qs none 20).1, .ack)
    else (s, .ack)

/-- A NOTICE of one kind; `act` is what a receiver does for a subject, its incarnation and an origin. -/
def receiveNotice (s : State) (p : Nat) (f : Frame) (kind : Nat) (act : State → Nat → Nat → Nat → State) : State :=
  if hType f.hdr == 7 && hOp f.hdr 3 0 != kind && decide (hOp f.hdr 3 0 ≤ 4) then s
  else s.receive p f 7 fun s _ =>
    let r := s.noticeIn f.hdr
    (if r.2 then act r.1 (hOp f.hdr 49 32) (hOp f.hdr 79 64) (hOp f.hdr 25 8) else r.1, .ack)

/-- A subject with its current incarnation is reported lost (R360). -/
def noticeLost (s : State) (dev inc _ : Nat) : State :=
  let now := SMap.get 65536 s.fab.incs dev
  if now = 65536 ∨ now = inc then s.reportLost dev true else s

/-- PEER_UP: the new incarnation is known, and the peer is readmitted once Moasozil accepts it (R347, R357). -/
def noticeUp (accept : Bool) (s : State) (dev inc _ : Nat) : State :=
  if accept then s.readmit dev inc
  else s.modFab fun f => { f with up := (f.up.filter fun x => x.1 != dev) ++ [(dev, inc)] }

/-- Partitions whose job has a device as a member. -/
def partsWith (s : State) (dev : Nat) : List Nat :=
  (List.range 8).filter fun p => match (s.part p).job with
    | some j => j.members.contains dev
    | none => false

/-- RESTORE: the receiver restores its job, or, in HOLDING, at the rejoin (R438, R472). -/
def noticeRestore (others : Word) (rebuilt : Option Rebuilt) (s : State) (dev _ : Nat) (origin : Nat) : State :=
  (s.partsWith dev).foldl (fun s p =>
    if s.stepping p then s.restorePart p origin others rebuilt
    else if s.jobState p = 5 then s.modPart p fun x => { x with holdRestore := true }
    else s) s

/-- REPLAY: the receiver holds its job (R347, R470). -/
def noticeReplay (s : State) (dev _ _ : Nat) : State :=
  (s.partsWith dev).foldl (fun s p => if s.stepping p then s.holdJob p else s) s

/-! The link's own frames (R349, R351, R352, R359). -/

/-- LACK: frames up to its `LSEQ` are held no longer. -/
def lackRx (s : State) (p lseq : Nat) : State :=
  if s.portUp p then
    (s.modPort p fun x => { x with tx := x.tx.filter fun f => !decide ((lseq + 65536 - f.lseq) % 65536 < 32768) }).linkRelease p
  else s

/-- CREDIT: credits of a virtual channel come back, at most those of its 64 KiB. -/
def creditRx (s : State) (p vc n : Nat) : State :=
  if s.portUp p then
    (s.modPort p fun x => { x with credit := SMap.set 256 x.credit vc (min 256 (SMap.get 256 x.credit vc + n)) }).linkRelease p
  else s

/-- LANEMAP: striping switches to the named lanes, and the map is returned unless it is the answer to this end's own. -/
def lanemapRx (s : State) (p lanes : Nat) : State :=
  if !s.portUp p || s.ethernet || (s.port p).lanes == lanes then s
  else
    let s := (s.modPort p fun x => { x with
      retrain := if lanes = 15 then none else (List.range 4).find? fun l => !lanes.testBit l }).setLanes p lanes
    ((s.setFlag .FAB_PORT_STATUS p (if lanes = 15 then 29 else 30)).emit (.control p 2 0 lanes)).nextRetrain p

/-- A Direct frame for another device leaves by one up candidate port, or is dropped; one that fails its link CRC ends
stomped, unless it still waited for credit and no byte of it had gone out (R350, R351). -/
def frameForward (s : State) (p : Nat) (f : Frame) : State :=
  match f.link with
  | .ether _ _ _ _ _ _ _ _ => s
  | .direct rdst ttl vc _ crcOk stomp =>
    if rdst = s.devId ∨ !s.portUp p ∨ s.ethernet then s
    else
      let r := s.linkTake p f
      if stomp ∨ (crcOk ∧ !r.2) then r.1
      else
        let s := r.1
        let e := SMap.get (0 : Word) s.fab.route rdst
        let cs := if bit e 31 then s.portsUp.filter fun q => bit e q else []
        let stage := vc % 2
        let back := some (p, vc, frameCredits f.data)
        if cs = [] ∨ ttl = 0 ∨ (bit e 30 ∧ stage = 1) then (if crcOk then s.dropped.creditBack back else s.dropped)
        else
          let cls := vc / 2 % 2
          let out := cs.getD (pathHash (hSrc f.hdr) (hDst f.hdr) cls % cs.length) 0
          let vc' := 2 * cls + (if bit e 30 then 1 else stage)
          if crcOk then
            s.linkSend out { lseq := 0, vc := vc', ttl := ttl - 1, hdr := f.hdr, data := f.data, resends := 0, back := back }
          else if !s.linkRoom out vc' f.data then s
          else s.emit (.direct out vc' (ttl - 1) (s.port out).txSeq f.hdr f.data true)

/-! Timers (R352, R354, R355, R358, R360). -/

/-- 2 µs without LACK progress: every unacknowledged frame of the port goes again; the ninth time the port goes down
(R352). -/
def linkResendTimeout (s : State) (p : Nat) : State :=
  let fs := (s.port p).tx
  match fs with
  | [] => s
  | f :: _ =>
    if 8 ≤ f.resends then s.portDown p
    else
      let s := (s.countSat .FAB_PORT_LRETRY p fs.length).post (p / 6) .linkRetry (BitVec.ofNat 32 p) (BitVec.ofNat 32 fs.length)
      let s := s.modPort p fun x => { x with tx := x.tx.map fun g => { g with resends := g.resends + 1 } }
      fs.foldl (fun s g => s.emit (.direct p g.vc g.ttl g.lseq g.hdr g.data false)) s

/-- The receiver returns LACK (R352). -/
def linkAckTimer (s : State) (p : Nat) : State :=
  if s.portUp p && !s.ethernet then s.emit (.control p 0 (((s.port p).rxSeq + 65535) % 65536) 0) else s

/-- RTO passes on a flow: it resends from its first unacknowledged frame and probes with an ACK (R355, R357, R360). -/
def transportRto (s : State) (key : Nat) : State :=
  let f := s.flow key
  let s := s.modFlow key fun f => { f with resent := false }
  if f.unacked = [] ∧ f.backlog = [] then s
  else
    (s.retryFlow key).sendAck key false

/-- A frame stays unacknowledged for `ACK_TO`: its instruction ends with TIMEOUT, and the flow goes on (R358). -/
def fabricAckTimeout (s : State) (key psn : Nat) : State :=
  let f := s.flow key
  match (f.unacked ++ f.backlog).find? fun x => x.psn == psn with
  | none => s
  | some x => match x.owner with
    | none => s
    | some (core, eng, seq) =>
      match (s.q core eng).flight.find? fun g => g.seq == seq && g.waits.contains (key, psn) with
      | none => s
      | some g =>
        let op := TW.opcode g.word
        (s.flagIf (op == 0x98 || op == 0x99) .COL_STATUS (dieOfCore core) 27).endFlight core eng seq .timeout

/-- A flow with frames unacknowledged has heard nothing for `LOST_TO` (R360). -/
def lostPeerTimeout (s : State) (dev : Nat) : State :=
  if s.fab.flows.any fun x => keyDev x.1 == dev && (x.2.unacked != [] || x.2.backlog != []) then s.reportLost dev false else s

/-- Every Direct port to a peer has been down for 1 ms (R360). -/
def portsDownLost (s : State) (dev : Nat) : State :=
  let ps := (List.range 24).filter fun p => s.fld .FAB_PORT_STATUS p 21 4 == dev
  if !s.ethernet && ps != [] && ps.all (fun p => !s.portUp p) then s.reportLost dev false else s

/-! Lanes and ports (R342, R344, R359). -/

/-- Corrected symbols and uncorrectable codewords of one lane in 1 ms (R359, R373). -/
def fecMillisecond (s : State) (p lane corrected uncorrectable : Nat) : State :=
  let s := (s.countSat .FAB_PORT_FEC_CORR p corrected).countSat .FAB_PORT_FEC_UNCORR p uncorrectable
  if 2 ^ s.fld .FAB_PORT_CTRL p 25 21 < corrected then s.laneOut p lane else s

/-- A write of `FAB_PORT_CTRL`: its stored fields, a port brought down by `EN` 0, and the lanes of `RETRAIN` (R359,
R373). -/
def portCtrlWrite (s : State) (p : Nat) (v : Word) : State :=
  let s := s.wr .FAB_PORT_CTRL p (v &&& 0xC3FFE000#32)
  if bit v 31 then s.retrainLanes p (bits v 29 26) else if s.portUp p then s.portDown p else s

/-- Does the device ID suit the framing (R344)? -/
def idSuits (s : State) : Bool := s.ethernet || decide (s.devId < 4096)

/-- A port completes its training (R342, R344, R349). -/
def portComesUp (s : State) (p farId : Nat) : State :=
  if s.portUp p || !s.flag .FAB_PORT_CTRL p 31 || !s.flag .FAB_DEVID 0 31 || s.portHeld p then s
  else if !s.idSuits then s.setFlag .FAB_STATUS 0 28
  else
    let s := s.modPort p fun _ => Port.reset
    let s := (s.setFld .FAB_PORT_STATUS p 3 0 15).setFld .FAB_PORT_STATUS p 21 4 (if s.ethernet then 0 else farId)
    (s.setFlag .FAB_PORT_STATUS p 31).countPorts

/-- A lane is readmitted, and the next that waits leaves; or a port that was retrained whole comes back up (R359). -/
def laneRetrainDone (s : State) (p farId : Nat) : State :=
  if s.portUp p then
    match (s.port p).retrain with
    | none => s
    | some _ =>
      ((((s.modPort p fun x => { x with retrain := none }).setLanes p 15).setFlag .FAB_PORT_STATUS p 29).emit (.control p 2 0 15)).nextRetrain p
  else s.portComesUp p farId

end State

def execWriteFrameRx (port : PortId) (f : Frame) (s : State) : Host.Outcome State Fault Refusal :=
  .next (s.receive port f 0 (State.applyWrite f))
def execReadReqRx (port : PortId) (f : Frame) (s : State) : Host.Outcome State Fault Refusal :=
  .next (s.receive port f 1 (State.applyReadReq f))
def execReadDataRx (port : PortId) (f : Frame) (s : State) : Host.Outcome State Fault Refusal :=
  .next (s.receive port f 2 (State.applyReadData f))
def execFlagFrameRx (port : PortId) (f : Frame) (s : State) : Host.Outcome State Fault Refusal :=
  .next (s.receive port f 3 (State.applyFlag f))
def execCollFrameRx (port : PortId) (f : Frame) (s : State) : Host.Outcome State Fault Refusal :=
  .next ((s.receive port f 4 (State.applyColl f)).deliverAll 8)
def execAckRx (port : PortId) (f : Frame) (s : State) : Host.Outcome State Fault Refusal :=
  .next (s.receive port f 5 fun s _ => (s, .quiet))
def execNackRx (port : PortId) (f : Frame) (s : State) : Host.Outcome State Fault Refusal :=
  .next (s.receive port f 6 fun s _ => (s, .quiet))
def execResetNoticeRx (port : PortId) (f : Frame) (s : State) : Host.Outcome State Fault Refusal :=
  .next (s.receiveNotice port f 0 State.noticeLost)
def execPeerDownRx (port : PortId) (f : Frame) (s : State) : Host.Outcome State Fault Refusal :=
  .next (s.receiveNotice port f 1 State.noticeLost)
def execPeerUpRx (port : PortId) (f : Frame) (accept : Bool) (s : State) : Host.Outcome State Fault Refusal :=
  .next (s.receiveNotice port f 2 (State.noticeUp accept))
def execRestoreRx (port : PortId) (f : Frame) (others : Word) (rebuilt : Option Rebuilt) (s : State) :
    Host.Outcome State Fault Refusal :=
  .next (s.receiveNotice port f 3 (State.noticeRestore others rebuilt))
def execReplayRx (port : PortId) (f : Frame) (s : State) : Host.Outcome State Fault Refusal :=
  .next (s.receiveNotice port f 4 State.noticeReplay)
def execLackRx (port : PortId) (lseq : Fin 65536) (s : State) : Host.Outcome State Fault Refusal :=
  .next (s.lackRx port lseq)
def execCreditRx (port : PortId) (vc : Fin 4) (n : Fin 1024) (s : State) : Host.Outcome State Fault Refusal :=
  .next (s.creditRx port vc n)
def execLanemapRx (port : PortId) (lanes : Fin 16) (s : State) : Host.Outcome State Fault Refusal :=
  .next (s.lanemapRx port lanes)
/-- The far end announces an orderly reset; the spec gives a receiver nothing to do (R363). -/
def execRstnRx (_port : PortId) (s : State) : Host.Outcome State Fault Refusal := .next s
def execFrameForward (port : PortId) (f : Frame) (s : State) : Host.Outcome State Fault Refusal :=
  .next (s.frameForward port f)
def execLinkResendTimeout (port : PortId) (s : State) : Host.Outcome State Fault Refusal := .next (s.linkResendTimeout port)
def execLinkAckTimer (port : PortId) (s : State) : Host.Outcome State Fault Refusal := .next (s.linkAckTimer port)
def execTransportRto (die : DieId) (dev : Fin 262144) (ddie : DieId) (s : State) : Host.Outcome State Fault Refusal :=
  .next (s.transportRto (flowKey die dev ddie))
def execFabricAckTimeout (die : DieId) (dev : Fin 262144) (ddie : DieId) (psn : Nat) (s : State) :
    Host.Outcome State Fault Refusal :=
  .next (s.fabricAckTimeout (flowKey die dev ddie) psn)
def execLostPeerTimeout (dev : Fin 262144) (s : State) : Host.Outcome State Fault Refusal := .next (s.lostPeerTimeout dev)
def execPortsDownLost (dev : Fin 262144) (s : State) : Host.Outcome State Fault Refusal := .next (s.portsDownLost dev)
/-- 10 µs without an ECE (R354). -/
def execEcnRateRecover (die : DieId) (dev : Fin 262144) (ddie : DieId) (s : State) : Host.Outcome State Fault Refusal :=
  .next (s.modFlow (flowKey die dev ddie) fun f => { f with rate := min 100 (f.rate + 1), halved := false })
def execLaneMarginLow (port : PortId) (lane : Fin 4) (margin : Nat) (s : State) : Host.Outcome State Fault Refusal :=
  .next (if margin < s.fld .FAB_PORT_CTRL port 20 13 then s.laneOut port lane else s)
def execFecLimitExceeded (port : PortId) (lane : Fin 4) (corrected uncorrectable : Nat) (s : State) :
    Host.Outcome State Fault Refusal :=
  .next (s.fecMillisecond port lane corrected uncorrectable)
def execLaneRetrainWrite (req : Req) (port : PortId) (v : Word) (s : State) : Host.Outcome State Fault Refusal :=
  .next (if s.reaches req .PORT port 0 then s.portCtrlWrite port v else s)
def execLaneRetrainDone (port : PortId) (farId : Fin 4096) (s : State) : Host.Outcome State Fault Refusal :=
  .next (s.laneRetrainDone port farId)
def execPortUp (port : PortId) (farId : Fin 4096) (s : State) : Host.Outcome State Fault Refusal :=
  .next (s.portComesUp port farId)

end Sys2Proof.Machine
end

