-- ==== Sys2Proof/Machine/ExecMemory.lean ====
section
/-!
DEFINITION. The memory hierarchy's own rows: admission at an HBM controller, Data Cache fills, Move Engine segments, and
the stacks' correction reports (11_memory_hierarchy.md R284 to R310).
-/

namespace Sys2Proof.Machine

namespace State

def ctrl (s : State) (k : Nat) : Ctrl := SMap.get Ctrl.reset s.ctrls k
def setCtrl (s : State) (k : Nat) (x : Ctrl) : State := { s with ctrls := SMap.set Ctrl.reset s.ctrls k x }

/-- Pseudo-channel, and bank with its stack ID, of a stack-local address (R285). -/
def bankOf (a : Nat) : Nat × Nat :=
  ((a / 256 % 32) ^^^ (a / 2 ^ 16 % 32), a / 2 ^ 33 * 16 + ((a / 2 ^ 13 % 16) ^^^ (a / 2 ^ 23 % 16)))

/-- Pseudo-channel and bank of a 256-byte block of HBM. -/
def blockBank (s : State) (block : Nat) : Nat × Nat := bankOf (s.stackOf (256 * block)).2

/-- A controller has room for a block: fewer than 16 wait on its bank, and fewer than 64 on its pseudo-channel (R286). -/
def hasSlot (s : State) (acc : List (Nat × Nat)) (block : Nat) : Bool :=
  let b := s.blockBank block
  decide ((acc.filter fun x => s.blockBank x.2 == b).length < 16)
  && decide ((acc.filter fun x => (s.blockBank x.2).1 == b.1).length < 64)

/-- A request arrives: it is accepted, or held in its requester's miss register or transfer tag (R286, R289). A second miss to a
block that a miss register tracks joins it and asks for nothing; an engine that finds no free register, or whose core has 64 tags
held here, sends nothing (R289, R290). A port sends no request ahead of an older one of its own to the same block. -/
def arrive (s : State) (k : Nat) (a : Arrival) : State :=
  let c := s.core a.core
  let free := match a.kind with
    | .miss => !(c.miss.any fun x => x.1 == a.block) && decide (c.miss.length < 64)
    | .tag => decide ((s.ctrls.flatMap fun x => x.2.held.filter fun h => h.core == a.core && h.kind == .tag).length < 64)
    | .write => true
  if !free then s
  else
    let x := s.ctrl k
    let s := if a.kind = .miss then s.modCore a.core fun c => { c with miss := c.miss ++ [(a.block, false)] } else s
    if s.hasSlot x.accepted a.block && !(x.held.any fun h => h.core == a.core && h.block == a.block) then
      s.setCtrl k { x with accepted := x.accepted ++ [(a.core.val, a.block)] }
    else s.setCtrl k { x with held := x.held ++ [⟨a.core, a.block, a.kind, 0⟩] }

/-- The held request that has waited longest among those that fit; the lower core ID wins a tie, and of one core's
requests the older (R286). -/
def bestHeld (s : State) (x : Ctrl) : Option HeldReq :=
  (x.held.filter fun h => s.hasSlot x.accepted h.block).foldl (fun best h => match best with
    | none => some h
    | some b => if b.waited < h.waited ∨ (b.waited = h.waited ∧ h.core < b.core) then some h else some b) none

/-- A controller of a stack: `arrivals` come, `cycles` pass with every held request counted, the accepted request for
`done` completes, and its slot is granted (R286). -/
def hbmSlotGrant (s : State) (k : Nat) (arrivals : List Arrival) (cycles : Nat) (done : Nat) : State :=
  let mine := arrivals.filter fun a => 256 * a.block < hbmEnd && (s.stackOf (256 * a.block)).1 == k
  let s := mine.foldl (fun s a => s.arrive k a) s
  let x := s.ctrl k
  let s := s.countSat .MEM_HOLD_COUNT k (cycles * x.held.length)
  let x := { x with held := x.held.map fun h => { h with waited := h.waited + cycles } }
  match x.accepted.find? fun a => a.2 == done with
  | none => s.setCtrl k x
  | some a =>
    let x := { x with accepted := x.accepted.erase a }
    match s.bestHeld x with
    | none => s.setCtrl k x
    | some h => s.setCtrl k { held := x.held.erase h, accepted := x.accepted ++ [(h.core.val, h.block)] }

/-- Data of a miss return to a core's Data Cache and fill a line of the block's set, unless an invalidation came while
the miss was outstanding or the data failed their check (R287, R296, R298, R308; log entry 118). -/
def dataCacheMissFill (s : State) (core block fails : Nat) : State :=
  if block * 256 / dieHbm ≠ dieOfCore core then s
  else
    let invalidated := (s.core core).miss.any fun x => x.1 == block && x.2
    let s := s.modCore core fun c => { c with miss := c.miss.filter fun x => x.1 != block }
    let r := s.crcFailures core block (min fails 3)
    if r.2 && !invalidated then r.1.modCore core fun c => c.fill block else r.1

/-- The segment of the Move Engine that lands at an address of the device map or of host memory, and its flight; only a segment
that holds a transfer tag is on its way (R289, R299). -/
def segmentAt (s : State) (core addr : Nat) : Option (Flight × (Nat × Nat)) :=
  let xs := (s.q core 5).flight.flatMap fun f => f.segs.map fun r => (f, r)
  (xs.take (s.tagsHeld core).2).find? fun x => phys core (Tile.space (x.1.descs.getLastD 0)) x.2.1 == addr

/-- A descriptor's host window, by 16 × partition + window (R416). -/
def windowOf (s : State) (core : Nat) (d : Desc) : Option Nat :=
  if Tile.space d = 4 then some (16 * s.partOf (clOfCore core) + (hostWinOf (Tile.addr d)).1) else none

/-- A flight's source lies in host memory through a window that is not granted for reading any more (R416). -/
def sourceGone (s : State) (core : Nat) (f : Flight) : Bool :=
  let d := f.descs.headD 0
  Tile.space d == 4 && !(Tile.exact d).all fun r => s.hostRangeOk (s.partOf (clOfCore core)) false r.1 r.2

/-- A Move Engine segment lands; `fails` of its up to four sendings failed the CRC-32C, and in `cycles` an engine found no free
tag. A segment that fails in all of them is not written, and a restore is due (R290, R299, R307, R308). One that starts when the window of
its source has been revoked moves nothing (R416). -/
def segmentLand (s : State) (core addr fails cycles : Nat) : State :=
  match s.segmentAt core addr with
  | none => s
  | some (f, r) =>
    let d := f.descs.getLastD 0
    let g := s.tagsHeld core
    let short := (s.core core).gthWait.isSome || decide (g.2 < s.tagsWanted core 5)
    let s := if short then s.countSat .XFR_TAG_HOLD core cycles else s
    if s.sourceGone core f then
      (s.tagFreed core 5).settle moveLand core 5 { f with segs := f.segs.erase r, met := f.met ++ [.faultAddress] }
    else
    let a := s.segmentFailures core addr fails
    let st := keepIf (fails ≠ 0) [if a.2 then Status.recomputed else .restored]
    let t := if a.2 then
        a.1.landRanges core d [r] (if Tile.space d = 4 then f.img
          else imageOf a.1.mem [(phys core (Tile.space d) r.1, r.2)] (f.img.rdN r.1 r.2))
      else (a.1, [])
    (t.1.tagFreed core 5).settle moveLand core 5 { f with segs := f.segs.erase r, met := f.met ++ st ++ t.2 }

/-- Accesses to host window `k` that have started end: the segments that hold a tag land (R416). -/
def landStarted (s : State) (k : Nat) : State :=
  (s.cores.map (·.1)).foldl (fun s core =>
    let xs := ((s.q core 5).flight.flatMap fun f => f.segs.map fun r => (f, r)).take (s.tagsHeld core).2
    (xs.filter fun x => x.1.descs.any fun d => s.windowOf core d == some k).foldl (fun s x =>
      s.segmentLand core (phys core (Tile.space (x.1.descs.getLastD 0)) x.2.1) 0 0) s) s

end State

def execHbmSlotGrant (stack : StackId) (arrivals : List Arrival) (cycles done : Nat) (s : State) :
    Host.Outcome State Fault Refusal :=
  .next (s.hbmSlotGrant stack arrivals cycles done)

/-- `bad`: the data that return fail their device CRC; `rereads`: how many of the re-reads that follow fail it too (R307). -/
def execDataCacheMissFill (c : ClId) (core : Fin 8) (block : Nat) (bad : Bool) (rereads : Fin 3) (s : State) :
    Host.Outcome State Fault Refusal :=
  .next (s.dataCacheMissFill (8 * c + core) block (if bad then rereads + 1 else 0))

def execSegmentLand (core : CoreId) (addr : Nat) (landing : Landing) (s : State) : Host.Outcome State Fault Refusal :=
  .next (s.segmentLand core addr landing.fails landing.cycles)

/-- An on-die correction is counted, with no action on the data (R307, R310). -/
def execStackOdeccReport (stack : StackId) (s : State) : Host.Outcome State Fault Refusal :=
  .next (s.countSat .MEM_ODECC_COUNT stack 1)

end Sys2Proof.Machine
end

