-- ==== Sys2Proof/Machine/Rings.lean ====
section
/-!
DEFINITION. Rings and windows as operations: what a fetched entry may hold, how a row acts on the front entry of a ring,
doorbells, enabling, ranges, and the host's streams (15_host_interface.md R398 to R419).
-/

namespace Sys2Proof.Machine

/-- Word `i` of a submission entry (R404). -/
def entryW (e : List Byte) (i : Nat) : Word := BitVec.ofNat 32 (leNat ((e.drop (4 * i)).take 4))
def entryVer (e : List Byte) : Nat := bits (entryW e 0) 7 0
def entryOp (e : List Byte) : Nat := bits (entryW e 0) 15 8
def entryIrq (e : List Byte) : Bool := bit (entryW e 0) 16
def entryFence (e : List Byte) : Bool := bit (entryW e 0) 17
def entryTag (e : List Byte) : Word := entryW e 1

/-- Bits of operand words 2 to 15 that an opcode defines; none for a reserved opcode (R407). -/
def opMask (op : Nat) : Option (List Word) :=
  match op with
  | 0x00 => some []
  | 0x01 => some [0xFFFFFFFF#32, 0xFFFF#32, 0xFFFFFFFF#32]
  | 0x02 | 0x03 | 0x04 | 0x05 => some [0xFFFFFFFF#32]
  | 0x10 => some [0x70F#32, 0xFFFFFFFF#32, 0xFFFFFFFF#32, 0xFFFFFFFF#32]
  | 0x11 => some [0xF#32]
  | 0x20 => some [0x30F#32, 0xFFFFFFFF#32, 0xFFFFFFFF#32, 0xFFFFFFFF#32, 0xFFFFFFFF#32]
  | 0x21 => some [0xF#32]
  | _ => none

/-- Bits of PORT_OPEN's words 3 to 5 by its `KIND` (R407); reserved kinds define none. -/
def portMaskOk (e : List Byte) : Bool :=
  match bits (entryW e 2) 10 9 with
  | 0 => entryW e 4 &&& 0xFFFF0000#32 == 0
  | 1 => entryW e 4 &&& 0xFFFFFFFE#32 == 0 && entryW e 5 == 0
  | _ => false

namespace State

/-- Does an entry pass R406? -/
def entryValid (s : State) (r : Nat) (e : List Byte) : Bool :=
  let fn := (s.ringFn r).getD 0
  match opMask (entryOp e) with
  | none => false
  | some ms =>
    decide (entryVer e = s.fld .RP_CFG r 23 16) && decide (bits (entryW e 0) 31 18 = 0)
    && (List.range 14).all (fun i => entryW e (i + 2) &&& ~~~(ms.getD i 0) == 0)
    && (entryOp e != 0x10 || portMaskOk e)
    && (!entryFence e || s.feature fn 0)
    && (!(entryOp e == 0x20 || entryOp e == 0x21) || s.feature fn 2)

/-- A completion without a result. -/
def completePlain (s : State) (r : Nat) (e : List Byte) (st : Status) : State :=
  s.complete r (.plain r st (entryOp e) (entryTag e) (entryIrq e))

/-- A completion with result bytes 16 onward. -/
def completeWith (s : State) (r : Nat) (e : List Byte) (st : Status) (res : List Byte) : State :=
  s.complete r { Compl.plain r st (entryOp e) (entryTag e) (entryIrq e) with result := res }

/-- A JOB_START that would take its first epoch while the Snapshot Engine has one in progress waits for it (R428, R435). -/
def startWaits (s : State) (fn : Nat) (e : List Byte) : Bool :=
  s.fld .RES_SNAP_STATUS 0 2 0 != 0 && s.jobState fn == 3 && match (s.part fn).job with
    | some j => entryOp e == 2 && entryW e 2 == j.id && !j.resume
    | none => false

/-- May the front entry of a ring start? FENCE waits for every earlier entry (R405). -/
def startable (s : State) (r : Nat) : Bool :=
  let q := s.ring r
  match q.entries, s.ringFn r with
  | e :: _, some fn => (!entryFence e || (decide (q.due = 0) && q.comps == [])) && !s.startWaits fn e
  | _, _ => false

/-- The ring pair whose entry starts next, by round robin, one entry per ring per turn (R405). -/
def nextStart (s : State) : Option Nat := ((List.range 256).map fun k => (s.hif.turn + 1 + k) % 256).find? s.startable

/-- The front entry of a ring has started. -/
def begin (s : State) (r : Nat) : State :=
  (s.modHif fun h => { h with turn := r }).modRing r fun q => { q with entries := q.entries.tail }

/-- The row of an opcode acts on the front entry of the ring whose turn it is (R405). -/
def actEntry (s : State) (r op : Nat) (act : State → Nat → List Byte → State) : State :=
  match (s.ring r).entries, s.ringFn r with
  | e :: _, some fn => if entryOp e = op ∧ s.nextStart = some r then act (s.begin r) fn e else s
  | _, _ => s

/-! Ring pairs (R400 to R405, R419, R422). -/

def fnEnabled (s : State) (fn : Nat) : Bool :=
  (List.range (s.fnRings fn).2).any fun i => s.enabled ((s.fnRings fn).1 + i)

/-- Completions held for a partition go to a ring that is now enabled (R411). -/
def releaseJobComps (s : State) (p r : Nat) : State :=
  let mine := s.hif.jobComps.filter fun x => x.1 == p
  let s := s.modHif fun h => { h with jobComps := h.jobComps.filter fun x => x.1 != p }
  mine.foldl (fun s x => s.complete r x.2) s

/-- A write of 1 to `EN` (R400). -/
def enableRing (s : State) (r fn : Nat) : State :=
  if s.enabled r then s
  else
    let a := s.fld .RP_SIZE r 4 0
    let b := s.fld .RP_SIZE r 20 16
    let v := s.fld .RP_CFG r 23 16
    if 4 ≤ a ∧ a ≤ 16 ∧ 4 ≤ b ∧ b ≤ 16 ∧ s.fld .HIF_VERSION fn 7 0 ≤ v ∧ v ≤ s.fld .HIF_VERSION fn 15 8 ∧ s.isReady then
      let s := (((s.wr .RP_SQ_HEAD r 0).wr .RP_SQ_TAIL r 0).wr .RP_CQ_TAIL r 0x10000#32).wr .RP_CQ_HEAD r 0
      (s.setFlag .RP_CFG r 31).releaseJobComps fn r
    else s.setFlag .FN_STATUS fn 28

/-- A write of `RP_CFG`: fields other than `EN` are refused while a ring pair of the function is enabled (R400, R401).
-/
def rpCfgWrite (s : State) (r : Nat) (v : Word) : State :=
  match s.ringFn r with
  | none => s
  | some fn =>
    let new := v &&& 0x00FFFF00#32
    let old := s.rd .RP_CFG r &&& 0x00FFFF00#32
    let s := if new = old then s
      else if s.fnEnabled fn then s.setFlag .FN_STATUS fn 31
      else s.wr .RP_CFG r ((s.rd .RP_CFG r &&& 0x80000000#32) ||| new)
    if bit v 31 then s.enableRing r fn else s.clrFlag .RP_CFG r 31

/-- A device ring pair of a function's local one. -/
def localRing (s : State) (fn i : Nat) : Option Nat := if i < (s.fnRings fn).2 then some ((s.fnRings fn).1 + i) else none

/-- A doorbell write of a local ring pair: `head` names the CQ head (R402). -/
def doorbell (s : State) (fn i : Nat) (head : Bool) (v : Word) : State :=
  if s.inMrm then s
  else match s.localRing fn i with
    | none => s.setFlag .FN_STATUS fn 30
    | some r =>
      let size := if head then s.cqSize r else s.sqSize r
      if s.isReady && s.enabled r && decide (v.toNat < size) then
        if head then s.wr .RP_CQ_HEAD r v else s.wr .RP_SQ_TAIL r v
      else s.setFlag .FN_STATUS fn 30

/-- An access to page `i` of BAR2: aligned 32-bit writes of the two doorbells act, other writes are discarded, and a read returns 0
(R402). `head` names the row's own doorbell. -/
def bar2 (s : State) (fn i : Nat) (head : Bool) (acc : Bar2) : State :=
  match acc with
  | .read => s.emit (.readData 0)
  | .write shift size v =>
    let off := shift + if head then 4 else 0
    if size = 4 ∧ (off = 0 ∨ off = 4) then s.doorbell fn i (off == 4) v else s

/-- A ring pair from which an entry may be fetched (R403, R409). -/
def canFetch (s : State) (r : Nat) : Bool :=
  s.enabled r && s.fld .RP_SQ_HEAD r 15 0 != s.fld .RP_SQ_TAIL r 15 0 && !s.cqFull r && (s.ringFn r).isSome

/-- The next ring pair by round robin (R405). -/
def nextRing (s : State) : Option Nat := ((List.range 256).map fun k => (s.hif.rr + 1 + k) % 256).find? s.canFetch

/-- One entry is fetched: `bytes` are what host memory holds, `err` a fetch that ends in an error (R403 to R406, R419). -/
def entryFetch (s : State) (bytes : List Byte) (err : Bool) : State :=
  match s.nextRing with
  | none => s
  | some r =>
    let s := s.modHif fun h => { h with rr := r }
    if err then
      let s := (s.clrFlag .RP_CFG r 31).setFlag .RP_STATUS r 31
      match s.ringFn r with
      | some fn => s.signal fn (s.fld .RP_CFG r 15 8)
      | none => s
    else
      let e := (bytes ++ List.replicate 64 0).take 64
      let s := s.setFld .RP_SQ_HEAD r 15 0 ((s.fld .RP_SQ_HEAD r 15 0 + 1) % s.sqSize r)
      if s.entryValid r e then s.modRing r fun q => { q with entries := q.entries ++ [e] }
      else s.completePlain r e .versionMismatch

/-- `COAL_US` has passed since the first unsignalled completion (R417). -/
def coalesceTimer (s : State) (r : Nat) : State :=
  match s.ringFn r with
  | none => s
  | some fn =>
    if (s.ring r).unsig = 0 then s
    else (s.modRing r fun q => { q with unsig := 0 }).signal fn (s.fld .RP_CFG r 15 8)

/-! Vectors and ranges (R398, R417). -/

def unmask (s : State) (fn v : Nat) : State :=
  let x := s.vec fn v
  let s := s.setVec fn v { x with masked := false, pend := false }
  if x.pend then s.emit (.msix fn v x.addr x.data) else s

/-- A write to `HIF_FN_RINGS` or, with `ports`, to `HIF_FN_PORTS` of a function (R398). -/
def fnRangeWrite (s : State) (fn : Nat) (ports : Bool) (v : Word) : State :=
  let first := if ports then bits v 3 0 else bits v 7 0
  let count := if ports then bits v 20 16 else bits v 24 16
  let size := if ports then 16 else 256
  let range := fun f => if ports then s.fnPorts f else s.fnRings f
  let overlaps := (List.range 8).any fun f => f != fn && rangesMeet first count (range f).1 (range f).2
  let busy := s.fnEnabled fn
    || (List.range (s.fnPorts fn).2).any fun w => (s.win ((s.fnPorts fn).1 + w)).isSome
  if busy || overlaps || decide (size < first + count) then s.setFlag .HIF_STATUS 0 31
  else if ports then s.wr .HIF_FN_PORTS fn (v &&& 0x001F000F#32) else s.wr .HIF_FN_RINGS fn (v &&& 0x01FF00FF#32)

/-! Streams (R412 to R415). -/

/-- An access to a window that is not open. -/
def unmapped (s : State) (fn : Nat) : State := (s.setFlag .FN_STATUS fn 29).countSat .FN_UNMAPPED_COUNT fn 1

/-- Enabled bytes of a write TLP to a function's window (R413); in Minimal Recovery Mode window 0 takes the bytes of its
command (R491, R492). -/
def windowWrite (s : State) (fn w : Nat) (data : List Byte) (poisoned : Bool) : State :=
  if s.inMrm then
    match fn, w, s.chip.mrmWin with
    | 0, 0, some (_, _, len) =>
      let room := len - s.chip.mrmData.length
      { s with chip := { s.chip with
        mrmData := s.chip.mrmData ++ (if poisoned then List.replicate (min room data.length) 0 else data.take room)
        mrmOver := s.chip.mrmOver || decide (room < data.length) || poisoned } }
    | _, _, _ => s
  else match s.localWin fn w with
    | none => s.unmapped fn
    | some k => match s.win k with
      | none => s.unmapped fn
      | some x =>
        if x.dirRead then s.unmapped fn
        else
          let room := x.len - x.pos
          let take := data.take room
          let y := { x with pos := x.pos + take.length, overrun := x.overrun || decide (room < data.length) }
          if poisoned then (s.setWin k (some { y with poison := true })).setFlag .FN_STATUS fn 27
          else
            let g := s.commitMem (s.mem.wrN (x.base + x.pos) take) [(x.base + x.pos, take.length)]
            g.1.setWin k (some { y with refused := y.refused || g.2 })

/-- A read request of `n` bytes to a function's window (R414). -/
def windowRead (s : State) (fn w n : Nat) : State :=
  let closed := (s.unmapped fn).emit (.winData (List.replicate n 0xFF))
  match s.localWin fn w with
  | none => closed
  | some k => match s.win k with
    | none => closed
    | some x =>
      if !x.dirRead then closed
      else
        let m := min n (x.len - x.pos)
        let bs := s.mem.rdN (x.base + x.pos) m ++ List.replicate (n - m) 0
        (s.setWin k (some { x with pos := x.pos + m, overrun := x.overrun || decide (m < n) })).emit (.winData bs)

/-- Is a byte range of the device map wholly inside a partition's HBM, on each die that it touches (R282, R391)? -/
def inPartHbm (s : State) (p a n : Nat) : Bool :=
  let first := s.fld .PLC_PART_HBM p 15 8 * 2 ^ 30
  let size := s.fld .PLC_PART_HBM p 7 0 * 2 ^ 30
  let z := a + max n 1
  decide (z ≤ hbmEnd) && (List.range 4).all fun d =>
    let lo := max a (d * dieHbm)
    let hi := min z ((d + 1) * dieHbm)
    decide (hi ≤ lo) || (((s.partClusters p).any fun c => dieOfCl c == d)
      && decide (d * dieHbm + first ≤ lo) && decide (hi ≤ d * dieHbm + first + size))

end State

end Sys2Proof.Machine
end

