-- ==== Sys2Proof/Machine/Shake.lean ====
section
/-!
DEFINITION. SHAKE256, the digest of images, firmware and tokens (FIPS 202, which 18_reset_boot.md and
19_security_lifecycle.md name; R378, R381, R503).
-/

namespace Sys2Proof.Machine

/-- Lane `x`, `y` of the state, as `x + 5 y`. -/
abbrev Lanes := List DWord

def lane (a : Lanes) (x y : Nat) : DWord := a.getD (x % 5 + 5 * (y % 5)) 0

def lanesOf (f : Nat → Nat → DWord) : Lanes := (List.range 25).map fun i => f (i % 5) (i / 5)

/-- θ. -/
def keccakTheta (a : Lanes) : Lanes :=
  let c := (List.range 5).map fun x => lane a x 0 ^^^ lane a x 1 ^^^ lane a x 2 ^^^ lane a x 3 ^^^ lane a x 4
  let d := (List.range 5).map fun x => c.getD ((x + 4) % 5) 0 ^^^ (c.getD ((x + 1) % 5) 0).rotateLeft 1
  lanesOf fun x y => lane a x y ^^^ d.getD x 0

/-- Rotation of each lane in ρ. -/
def keccakRot : List Nat :=
  [0, 1, 62, 28, 27, 36, 44, 6, 55, 20, 3, 10, 43, 25, 39, 41, 45, 15, 21, 8, 18, 2, 61, 56, 14]

/-- ρ and π. -/
def keccakRhoPi (a : Lanes) : Lanes :=
  lanesOf fun x y =>
    let x' := (x + 3 * y) % 5
    (lane a x' x).rotateLeft (keccakRot.getD (x' + 5 * x) 0)

/-- χ. -/
def keccakChi (a : Lanes) : Lanes :=
  lanesOf fun x y => lane a x y ^^^ (~~~(lane a (x + 1) y) &&& lane a (x + 2) y)

/-- Round constants of ι. -/
def keccakRc : List DWord :=
  [0x0000000000000001, 0x0000000000008082, 0x800000000000808A, 0x8000000080008000, 0x000000000000808B,
   0x0000000080000001, 0x8000000080008081, 0x8000000000008009] ++
  [0x000000000000008A, 0x0000000000000088, 0x0000000080008009, 0x000000008000000A, 0x000000008000808B,
   0x800000000000008B, 0x8000000000008089, 0x8000000000008003] ++
  [0x8000000000008002, 0x8000000000000080, 0x000000000000800A, 0x800000008000000A, 0x8000000080008081,
   0x8000000000008080, 0x0000000080000001, 0x8000000080008008]

/-- Keccak-f[1600]. -/
def keccakF (a : Lanes) : Lanes :=
  keccakRc.foldl (fun a rc =>
    match keccakChi (keccakRhoPi (keccakTheta a)) with
    | [] => []
    | x :: xs => (x ^^^ rc) :: xs) a

/-- A block is absorbed. -/
def absorbBlock (a : Lanes) (bs : List Byte) : Lanes :=
  keccakF ((a.zipIdx).map fun x => x.1 ^^^ BitVec.ofNat 64 (leNat ((bs.drop (8 * x.2)).take 8)))

/-- Absorb a padded message, in blocks of `rate` bytes. -/
def absorbAll (rate : Nat) : Nat → Lanes → List Byte → Lanes
  | 0, a, _ => a
  | n + 1, a, bs => absorbAll rate n (absorbBlock a (bs.take rate)) (bs.drop rate)

/-- Padding: the domain byte, zeros, and 0x80 in the last byte of the block. -/
def spongePad (rate : Nat) (dom : Byte) (bs : List Byte) : List Byte :=
  let n := rate - bs.length % rate
  if n = 1 then bs ++ [dom ||| 0x80#8] else bs ++ [dom] ++ List.replicate (n - 2) 0#8 ++ [0x80#8]

/-- Bytes of a state. -/
def laneBytes (rate : Nat) (a : Lanes) : List Byte := (a.flatMap fun w => natLe 8 w.toNat).take rate

/-- Squeeze blocks. -/
def squeeze (rate : Nat) : Nat → Lanes → List Byte
  | 0, _ => []
  | n + 1, a => laneBytes rate a ++ squeeze rate n (keccakF a)

/-- `n` bytes of a sponge over Keccak-f[1600]. -/
def sponge (rate : Nat) (dom : Byte) (n : Nat) (msg : List Byte) : List Byte :=
  let p := spongePad rate dom msg
  (squeeze rate (n / rate + 1) (absorbAll rate (p.length / rate) (List.replicate 25 0) p)).take n

/-- `n` bytes of SHAKE256 of a message (R496). -/
def shake256 (n : Nat) (msg : List Byte) : List Byte := sponge 136 0x1F n msg

/-- SHA3-512 of a message (R496). -/
def sha3_512 (msg : List Byte) : List Byte := sponge 72 0x06 64 msg

end Sys2Proof.Machine
end

