-- ==== Sys2Proof/Machine/Place.lean ====
section
/-!
DEFINITION. The Placement Engine's plan: shapes, the cut into stages, fit, pins, and the records of the Placement Report
(01_architecture.md R28; 14_placement_services.md R380 to R382, R385 to R388). What orders 3, 5 and 6 of R380 take from
the image comes with the command, as trials: one for a shape and the measures of R382.
-/

namespace Sys2Proof.Machine

/-! Order 2: the cut (R380). -/

/-- The ways to cut `n` layers into `s` contiguous ranges, as lengths, earlier cuts first. -/
def cutsOf : Nat → Nat → List (List Nat)
  | 0, n => if n = 0 then [[]] else []
  | s + 1, n => (List.range n).flatMap fun k => (cutsOf s (n - (k + 1))).map fun x => (k + 1) :: x

/-- The sums of consecutive ranges of a list. -/
def rangeSums : List Nat → List Nat → List Nat
  | [], _ => []
  | k :: ks, xs => (xs.take k).sum :: rangeSums ks (xs.drop k)

/-- The stage of a layer under a cut. -/
def stageOfLayer : List Nat → Nat → Nat
  | [], _ => 0
  | k :: ks, l => if l < k then 0 else stageOfLayer ks (l - k) + 1

/-- The first of a list with the least value. -/
def leastBy {α : Type} (f : α → Nat) : List α → Option α
  | [] => none
  | x :: xs => match leastBy f xs with
    | none => some x
    | some y => if f y < f x then some y else some x

/-- Layers cut into `s` ranges that minimise the largest range's FLOPs, the earlier cut on a tie, with some layers pinned to
stages. -/
def bestCut (s : Nat) (flops : List Nat) (pins : List (Nat × Nat)) : Option (List Nat) :=
  leastBy (fun c => (rangeSums c flops).foldl max 0)
    ((cutsOf s flops.length).filter fun c => pins.all fun x => stageOfLayer c x.1 == x.2)

/-! Pins and decisions as records (R387, R388). -/

/-- A record of a Placement Report. -/
abbrev PlaceRec := Word × Word × Word × Word

/-- A record's `KIND`, and a record of a kind with the rest of its words. -/
def recKind (r : PlaceRec) : Nat := bits r.1 31 24
def mkRec (kind subject value value2 : Nat) : PlaceRec :=
  (BitVec.ofNat 32 (kind * 2 ^ 24), BitVec.ofNat 32 subject, BitVec.ofNat 32 value, BitVec.ofNat 32 value2)

/-- Do two records speak of one decision, and do they decide it alike? -/
def sameSubject (a b : PlaceRec) : Bool := recKind a == recKind b && a.2.1 == b.2.1
def sameRec (a b : PlaceRec) : Bool := sameSubject a b && a.2.2 == b.2.2

/-- The records of orders 3, 5 and 6 of a trial. -/
def decisionsOf (t : Trial) : List PlaceRec :=
  (t.splits.zipIdx.map fun x => mkRec 3 x.2 x.1.1 (x.1.2.1 + x.1.2.2 * 2 ^ 16))
  ++ (t.homes.map fun x => mkRec 4 x.1.toNat (x.2.1 % 2 ^ 32) (x.2.1 / 2 ^ 32 % 2 ^ 16 + x.2.2 * 2 ^ 16))
  ++ (t.clusters.map fun x => mkRec 5 x.1 x.2.toNat 0)
  ++ (t.plan.banks.map fun x => mkRec 6 x.1.val (~~~ x.2).toNat 0)
  ++ t.offloads.map fun x => mkRec 7 x.1.toNat x.2.1.toNat x.2.2

/-- Stage pins, as layer and stage. -/
def stagePins (pins : List PlaceRec) : List (Nat × Nat) :=
  (pins.filter fun r => recKind r == 2).map fun r => (r.2.1.toNat, r.2.2.1.toNat)

/-- A tensor's weight decay (R377). -/
def Job.decay (j : Job) (tid : Word) : Word := ((j.table.find? fun t => t.tid == tid).map (·.wd)).getD 0

/-! Order 1: shapes (R380). -/

/-- CONSTRAINTS as words 0 and 1 (R376). -/
def Job.cons0 (j : Job) : Word := j.cons.1
def Job.keepFree (j : Job) : Nat := j.cons.2.toNat * 2 ^ 20

/-- Stages, data-parallel width and tensor-parallel width for `n` members within the job's constraints, M an integer; smaller S and
then smaller T first. -/
def shapes (j : Job) (n : Nat) : List (Nat × Nat × Nat) :=
  let lim := fun (m k : Nat) => decide (m = 0 ∨ k ≤ m)
  (List.range n).flatMap fun s' => (List.range n).filterMap fun t' =>
    let s := s' + 1
    let t := t' + 1
    let w := n / (s * t)
    if s * w * t == n && lim (bits j.cons0 7 0) s && lim (bits j.cons0 15 8) t && j.gmb % w == 0 then some (s, w, t) else none

/-- Does a shape obey a SHAPE pin? -/
def shapePinned (pins : List PlaceRec) (x : Nat × Nat × Nat) : Bool :=
  pins.all fun r => recKind r != 1 || (r.2.2.1.toNat == x.2.1 && bits r.2.2.2 15 0 == x.1 && bits r.2.2.2 31 16 == x.2.2)

/-- Clusters that a mask has. -/
def maskCount (w : Word) : Nat := ((List.range 32).filter fun c => bit w c).length

/-- Members of a list of masks by rank that stage `i` of a shape holds (R380 order 4). -/
def stageMasks (x : Nat × Nat × Nat) (i : Nat) (masks : List Word) : List Word := (masks.drop (i * (x.2.1 * x.2.2))).take (x.2.1 * x.2.2)

/-- The estimated step of a shape, as a fraction: M + 2S - 1 slots of the slowest stage, whose time is taken as its FLOPs, divided
among the tensor-parallel ways of each layer, over the healthy clusters of its member with the fewest (log entry 75). -/
def estimate (j : Job) (f : PlanFacts) (masks : List Word) (x : Nat × Nat × Nat) (cut : List Nat) (splits : List (Nat × Nat × Nat)) : Nat × Nat :=
  let work := f.layers.zipIdx.map fun l => l.1.flops * (x.2.2 / max 1 (splits.getD l.2 (1, 1, 1)).1)
  let slots := (rangeSums cut work).zipIdx.map fun y =>
    (y.1, x.2.2 * ((stageMasks x y.2 masks).map maskCount).foldl min 32)
  let slow := slots.foldl (fun a b => if a.1 * b.2 < b.1 * a.2 then b else a) (0, 1)
  ((j.gmb / x.2.1 + 2 * x.1 - 1) * slow.1, slow.2)

/-! Order 7: fit (R28, R382). -/

/-- Narrow copies of one element group: forward and backward copies of `e` elements, or the one BF16 copy that serves both (R14, R30,
R138, R382). -/
def narrowBytes (t : TensorRow) (e : Nat) : Nat :=
  let shifts := ceilDiv (ceilDiv e (32 * 2 ^ t.gsize)) 2
  if t.psens then (if t.pbf16 then 2 * e else 2 * (e + shifts)) else (ceilDiv e 2 + shifts) + (e + shifts)

/-- Optimizer moments that a trained element has (R162, R163; the image's own optimizer is taken to have two, log entry 75). -/
def Job.moments (j : Job) : Nat := if j.opt = 1 then 1 else 2

/-- What a device of stage `i` needs, in bytes: what may lie elsewhere, the KV Pool, and what has to lie in its HBM besides. -/
structure Need where
  state : Nat
  kv : Nat
  fixed : Nat
  deriving DecidableEq, Repr

/-- Bytes of one input buffer of a device of stage `i`: token IDs at stage 0, labels at the last (R386). -/
def inputBytes (j : Job) (labels : Bool) (x : Nat × Nat × Nat) (i : Nat) : Nat :=
  let n := (if i = 0 then 1 else 0) + (if labels && decide (i + 1 = x.1) then 1 else 0)
  32 + j.gmb / x.2.1 * j.mbtok * 4 * n

/-- Elements of a tensor that one device holds under a trial's splits. -/
def trialPart (t : Trial) (r : TensorRow) : Nat :=
  let x := t.splits.getD r.layer (1, 1, 1)
  ceilDiv (r.k * r.n) (max 1 (x.1 * x.2.2))

/-- R382's items on a device of stage `i`. -/
def needOf (j : Job) (f : PlanFacts) (x : Nat × Nat × Nat) (cut : List Nat) (t : Trial) (i : Nat) : Need :=
  let here := j.table.filter fun r => stageOfLayer cut r.layer == i
  let split := fun (l : Nat) => t.splits.getD l (1, 1, 1)
  let part := trialPart t
  let weight := ((here.filter fun r => r.kind == 0).map fun r =>
    narrowBytes r (part r)
      + if r.frozen then 0 else ceilDiv (part r * (4 + 4 * j.moments + 4)) (if t.shard then x.2.1 else 1)).sum
  let acts := ((f.layers.zipIdx.filter fun l => stageOfLayer cut l.2 == i).map fun l => ceilDiv l.1.act (max 1 (split l.2).1)).sum
  { state := weight + (2 * x.1 - 1 - 2 * i) * acts
    kv := ((here.filter fun r => r.kind == 2).map fun r => ceilDiv r.n 256 * (262144 + 8192)).sum
    fixed := (if i = 0 ∨ i + 1 = x.1 then 2 * inputBytes j f.labels x i else 0) + j.keepFree }

def Need.total (n : Need) : Nat := n.state + n.kv + n.fixed

/-- What of a device's items its HBM of `cap` bytes does not hold, and its own `host` bytes of host memory neither, where a trial uses
them. -/
def Need.left (n : Need) (t : Trial) (cap host : Nat) : Nat := n.total - cap - (if t.host then host else 0)

/-- Do the items of every stage have homes: in each device's HBM, in its own host windows, or in the room of its peers, as far as a
trial's measures go (R28, R416)? -/
def homesOk (t : Trial) (needs : List Need) (cap host : Nat) : Bool :=
  let room := if t.peer then (needs.map fun n => cap - n.total).sum else 0
  needs.all (fun n => decide (n.kv + n.fixed ≤ cap)) && decide ((needs.map fun n => n.left t cap host).sum ≤ room)

/-- The first resource of R387 that does not fit, with what is needed and what there is: HBM or the KV Pool in MiB, or a resource that
the trial counts. -/
def misfit (t : Trial) (needs : List Need) (cap host : Nat) : Option (Nat × Nat × Nat) :=
  let mib := fun (b : Nat) => ceilDiv b (2 ^ 20)
  if homesOk t needs cap host then (t.uses.find? fun u => decide (u.2.2 < u.2.1)).map fun u => (u.1.val + 1, u.2.1, u.2.2)
  else match needs.find? fun n => decide (cap < n.kv + n.fixed) || decide (0 < n.left t cap host) with
    | some n => some (if n.state + n.fixed ≤ cap then (6, mib n.kv, mib (cap - (n.state + n.fixed))) else (0, mib n.total, mib cap))
    | none => some (0, 0, mib cap)

/-- The measures of R382 in their order, each added where CONSTRAINTS allows it. -/
def measures (j : Job) : List (Bool × Bool × Bool) :=
  let sh := bit j.cons0 26
  let pe := bit j.cons0 24
  [(false, false, false), (sh, false, false), (sh, pe, false), (sh, pe, bit j.cons0 25)].eraseDups

/-- A trial that places the job: its shape, cut and needs. -/
structure Choice where
  shape : Nat × Nat × Nat
  cut : List Nat
  trial : Trial
  needs : List Need
  deriving DecidableEq, Repr

/-- Insert by estimated step, smaller first; ties stand as they come. -/
def insertEst (y : (Nat × Nat) × (Nat × Nat × Nat) × List Nat) :
    List ((Nat × Nat) × (Nat × Nat × Nat) × List Nat) → List ((Nat × Nat) × (Nat × Nat × Nat) × List Nat)
  | [] => [y]
  | z :: zs => if z.1.1 * y.1.2 ≤ y.1.1 * z.1.2 then z :: insertEst y zs else y :: z :: zs

/-- Shapes that have a cut and a trial, shortest estimated step first. -/
def orderedShapes (j : Job) (f : PlanFacts) (masks : List Word) (pins : List PlaceRec) : List ((Nat × Nat × Nat) × List Nat) :=
  let xs := ((shapes j masks.length).filter (shapePinned pins)).filterMap fun x =>
    match bestCut x.1 (f.layers.map (·.flops)) (stagePins pins), f.trials.find? fun t => t.shape == x with
    | some cut, some t => if masks.all fun m => m != 0 then some (estimate j f masks x cut t.splits, x, cut) else none
    | _, _ => none
  (xs.foldl (fun a y => insertEst y a) []).map (·.2)

/-- What each shape's measures give, in the order of R380 and R382: a choice, and its first misfit. A trial that decides a pinned
decision otherwise is none. -/
def attempts (j : Job) (f : PlanFacts) (masks : List Word) (cap host : Nat) (pins : List PlaceRec) :
    List (Choice × Option (Nat × Nat × Nat)) :=
  (orderedShapes j f masks pins).flatMap fun x => (measures j).filterMap fun m =>
    (f.trials.find? fun t => t.shape == x.1 && t.shard == m.1 && t.peer == m.2.1 && t.host == m.2.2
      && (pins.filter fun r => decide (3 ≤ recKind r)).all fun r => (decisionsOf t).any (sameRec r)).map fun t =>
      let needs := (List.range x.1.1).map (needOf j f x.1 x.2 t)
      (⟨x.1, x.2, t, needs⟩, misfit t needs cap host)

/-- Do the facts hold a trial for every shape that has a cut, with every measure that CONSTRAINTS allow (R380, R382)? -/
def factsCover (f : PlanFacts) (j : Job) (n : Nat) : Bool :=
  ((shapes j n).filter fun x => (bestCut x.1 (f.layers.map (·.flops)) []).isSome).all fun x => (measures j).all fun m =>
    f.trials.any fun t => t.shape == x && t.shard == m.1 && t.peer == m.2.1 && t.host == m.2.2

/-- The plan's choice under some pins. -/
def chosen (j : Job) (f : PlanFacts) (masks : List Word) (cap host : Nat) (pins : List PlaceRec) : Option Choice :=
  ((attempts j f masks cap host pins).find? fun a => a.2.isNone).map (·.1)

/-! Pins (R388). -/

/-- Does a pin contradict CONSTRAINTS or R380? `held` is the partition's cluster mask, `fit` its healthy clusters. -/
def pinWrong (j : Job) (f : PlanFacts) (n : Nat) (held fit : Word) (r : PlaceRec) : Bool :=
  let known := j.table.any fun t => t.tid == r.2.1
  let layer := decide (r.2.1.toNat < f.layers.length)
  match recKind r with
  | 1 => !(shapes j n).any fun x => shapePinned [r] x
  | 2 => !layer
  | 3 =>
    let q := bits r.2.2.2 15 0
    !(layer && (shapes j n).any (fun x => decide (0 < r.2.2.1.toNat) && x.2.2 % r.2.2.1.toNat == 0) && (List.range 16).any (fun k => q == 2 ^ k)
      && (bits j.cons0 23 16 == 0 || decide (q ≤ bits j.cons0 23 16)))
  | 4 => !(known && decide (bits r.2.2.2 18 16 ≤ 4) && bits r.2.2.2 31 19 == 0)
  | 5 => !(layer && r.2.2.1 &&& ~~~fit == 0)
  | 6 => !(decide (r.2.1.toNat < 32) && bit held r.2.1.toNat)
  | _ => !(known && if r.2.2.1 = 0xFFFFFFFF#32 then bit j.cons0 25 else bit j.cons0 24 && decide (r.2.2.1.toNat < n))

/-- Pins by index, and those that fail by themselves or against an earlier pin. -/
def failedPins (j : Job) (f : PlanFacts) (n : Nat) (held fit : Word) : List (PlaceRec × Nat) :=
  j.pins.zipIdx.filter fun p => pinWrong j f n held fit p.1
    || (j.pins.take p.2).any fun r => sameSubject r p.1 && !sameRec r p.1

/-- Pins in the descriptor's order: one that leaves no fit beside those kept before it fails, and the later ones are judged without it.
The pins kept, and the failed (log entry 75). -/
def keepPins (pick : List PlaceRec → Option Choice) (pins : List (PlaceRec × Nat)) : List (PlaceRec × Nat) × List (PlaceRec × Nat) :=
  pins.foldl (fun a p => if (pick ((a.1 ++ [p]).map (·.1))).isSome then (a.1 ++ [p], a.2) else (a.1, a.2 ++ [p])) ([], [])

/-! The report's records (R385, R387). -/

/-- A decision with its PINNED and DROPPED bits. -/
def markRec (honoured dropped : List (PlaceRec × Nat)) (r : PlaceRec) : PlaceRec :=
  let b := fun (xs : List (PlaceRec × Nat)) (k : Nat) => if xs.any fun p => sameSubject p.1 r then 2 ^ k else 0
  (r.1 ||| BitVec.ofNat 32 (b honoured 23 + b dropped 22), r.2)

def pinFails (xs : List (PlaceRec × Nat)) : List PlaceRec := xs.map fun p => mkRec 10 p.2 (recKind p.1) 0

/-- The records of a plan; with RESUME no INIT area is allocated. -/
def planRecords (j : Job) (layers : Nat) (c : Choice) (honoured dropped : List (PlaceRec × Nat)) : List PlaceRec :=
  let own := mkRec 1 0 c.shape.2.1 (c.shape.1 + c.shape.2.2 * 2 ^ 16)
    :: (List.range layers).map (fun l => mkRec 2 l (stageOfLayer c.cut l) 0) ++ decisionsOf c.trial
  own.map (markRec honoured dropped)
  ++ (if j.resume then [] else c.trial.inits.map fun x => mkRec 8 x.1.toNat (x.2 % 2 ^ 32) (x.2 / 2 ^ 32 % 2 ^ 16)) ++ pinFails dropped

/-- What orders 1 to 7 come to: a plan with what it decides, or the records of a report that has none. -/
inductive Placing where
  | placed (pl : Plan) (x : Place)
  | failed (records : List PlaceRec)
  /-- What came is not all that the image gives, or is no decision of R380: there is no plan yet. -/
  | waits
  deriving DecidableEq, Repr

namespace State

/-- Clusters of a partition that are healthy, fenced ones cleared (R380, R450). -/
def healthyMask (s : State) (p : Nat) : Word :=
  let cores := BitVec.ofNat 32 (((List.range 32).filter fun c => s.fld .CHN_CORE_EN c 7 0 == 255).map fun c => 2 ^ c).sum
  s.rd .PLC_PART_CLUSTERS p &&& ~~~s.recov.drained &&& ~~~(s.rd .RES_FENCED 0) &&& cores

/-- HBM that a partition's job may use (R391), and the host memory that it may both read and write (R416). -/
def partCap (s : State) (p : Nat) : Nat :=
  ((List.range 4).filter fun d => (s.partClusters p).any fun c => dieOfCl c == d).length * s.fld .PLC_PART_HBM p 7 0 * 2 ^ 30
def hostCap (s : State) (p : Nat) : Nat :=
  (s.hostWins.map fun w => match w.2 with
    | some h => if w.1 / 16 = p ∧ h.rd && h.wr then h.len else 0
    | none => 0).sum

/-- Members that take part in a plan: those of the Member Table less the ones reported lost, by rank (R380). -/
def planMembers (s : State) (p : Nat) : List Nat :=
  match (s.part p).job with
  | some j => j.members.filter fun d => !(s.part p).lost.contains d
  | none => []

/-- The stage, replica and tensor-parallel index of a rank (R380 order 4). -/
def ranksOf (x : Nat × Nat × Nat) (rank : Nat) : Nat × Nat × Nat :=
  (rank / (x.2.1 * x.2.2), rank / x.2.2 % x.2.1, rank % x.2.2)

/-- Shards of depth 1 to 3 that hold a micro-batch of `[lo, lo + n)` of `gmb` (R156, R380): the first and the last. -/
def shardsOf (gmb lo n : Nat) : List (Nat × Nat) := [1, 2, 3].map fun d => (lo * 64 ^ d / gmb, (lo + n - 1) * 64 ^ d / gmb)

/-- Is what orders 3, 5 and 6 bring a decision that R380, R385 and R391 allow a member of a rank? -/
def trialOk (s : State) (p : Nat) (j : Job) (f : PlanFacts) (n rank : Nat) (t : Trial) : Bool :=
  let x := t.shape
  let i := rank / max 1 (x.2.1 * x.2.2)
  let cut := (bestCut x.1 (f.layers.map (·.flops)) (stagePins j.pins)).getD []
  let here := j.table.filter fun r => stageOfLayer cut r.layer == i
  let qmax := bits j.cons0 23 16
  let row := fun (tid : Word) => j.table.find? fun r => r.tid == tid
  let layerOf := fun (tid : Word) => ((row tid).map (·.layer)).getD 0
  let init := fun (y : Word × Nat) => (y.2, match row y.1 with
    | some r => 4 * trialPart t r
    | none => 0)
  t.splits.length == f.layers.length
  && t.splits.all (fun y => decide (0 < y.1) && x.2.2 % y.1 == 0 && (List.range 16).any (fun k => y.2.1 == 2 ^ k)
    && (qmax == 0 || decide (y.2.1 ≤ qmax)) && decide (0 < y.2.2))
  && here.all (fun r => t.homes.any fun h => h.1 == r.tid)
  && t.homes.all (fun h => decide (h.2.2 ≤ 4) && match row h.1 with
    | some r => h.2.2 != 2 || decide (hbmEnd ≤ h.2.1) || s.inPartHbm p h.2.1 (if r.kind = 0 then narrowBytes r (trialPart t r) else 1)
    | none => false)
  && t.clusters.all (fun y => decide (y.1 < f.layers.length) && y.2 &&& ~~~(s.healthyMask p) == 0)
  && t.offloads.all (fun y => (row y.1).isSome && if y.2.1 = 0xFFFFFFFF#32 then t.host else t.peer && decide (y.2.1.toNat < n))
  && (t.offloads.zip (t.offloads.drop 1)).all (fun y => decide (layerOf y.1.1 ≤ layerOf y.2.1))
  && (j.resume || (here.filter fun r => r.kind == 0).all fun r => t.inits.any fun y => y.1 == r.tid)
  && t.inits.all (fun y => s.inPartHbm p (init y).1 (init y).2)
  && t.plan.narrow.all (fun y => (Tile.physRanges y.core.val y.src).all fun r => t.inits.any fun z =>
    decide ((init z).1 ≤ r.1) && decide (r.1 + r.2 ≤ (init z).1 + (init z).2))
  && (!(i == 0 || i + 1 == x.1) || (s.inPartHbm p t.inputs.1 (inputBytes j f.labels x i)
    && s.inPartHbm p t.inputs.2 (inputBytes j f.labels x i)))
  && s.inPartHbm p t.plan.brec0 recordBytes && s.inPartHbm p t.plan.brec1 recordBytes

/-- The Placement Report lies in the partition's HBM (R387, R391). -/
def reportFits (s : State) (p : Nat) (f : PlanFacts) (records : List PlaceRec) (x : Placing) : Placing :=
  if s.inPartHbm p f.report (32 + 16 * records.length) then x else .waits

/-- Orders 1 to 7 of R380 for a partition's job, once the image's facts are all there. `d` is the first 64 bits of the plan's digest
(R381). A frozen tensor has no accumulator and no parameter block (R385). -/
def place (s : State) (p : Nat) (j : Job) (f : PlanFacts) : Placing :=
  let ms := s.planMembers p
  let rank := ms.idxOf s.devId
  let masks := (List.range ms.length).map fun r => if r = rank then s.healthyMask p else f.masks.getD r 0
  let cap := s.partCap p
  let host := s.hostCap p
  let bad := failedPins j f ms.length (s.rd .PLC_PART_CLUSTERS p) (s.healthyMask p)
  let good := j.pins.zipIdx.filter fun x => !bad.contains x
  let nofit := fun (pins : List PlaceRec) =>
    (((attempts j f masks cap host pins).filterMap (·.2)).head?.map fun m => mkRec 9 m.1 m.2.1 m.2.2).toList
  if !factsCover f j ms.length || !f.trials.all (s.trialOk p j f ms.length rank) then .waits
  else if j.strict ∧ bad ≠ [] then s.reportFits p f (pinFails bad) (.failed (pinFails bad))
  else
    let pick := chosen j f masks cap host
    let kept := keepPins pick good
    match pick (kept.1.map (·.1)) with
    | none => s.reportFits p f (pinFails bad ++ nofit []) (.failed (pinFails bad ++ nofit []))
    | some c =>
      let gone := bad ++ kept.2
      if j.strict ∧ gone ≠ [] then
        let rs := pinFails gone ++ nofit (good.map (·.1))
        s.reportFits p f rs (.failed rs)
      else
        let at' := ranksOf c.shape rank
        let m := j.gmb / c.shape.2.1
        let feeds := decide (at'.1 = 0 ∨ at'.1 + 1 = c.shape.1)
        let frozen := fun (t : Word) => j.table.any fun r => r.tid == t && r.frozen
        let records := planRecords j f.layers.length c kept.1 gone
        s.reportFits p f records <| .placed { c.trial.plan with
            accums := c.trial.plan.accums.filter fun a => !frozen a.1
            params := c.trial.plan.params.filter fun a => !frozen a.2 }
          { s := c.shape.1, w := c.shape.2.1, t := c.shape.2.2, rank := rank, report := f.report
            input := if feeds then some (c.trial.inputs.1, c.trial.inputs.2, inputBytes j f.labels c.shape at'.1) else none
            records := records
            digest := BitVec.ofNat 64 (leNat ((shake256 64 c.trial.whole).take 8))
            inits := if j.resume then [] else c.trial.inits
            stage := at'.1, replica := at'.2.1, way := at'.2.2, mb := (at'.2.1 * m, m), shards := shardsOf j.gmb (at'.2.1 * m) m }

end State

end Sys2Proof.Machine
end

