-- ==== Sys2Proof/Machine/ExecKv.lean ====
section
/-!
DEFINITION. Halyard's own operations: the update commands, their release, the Reclaim Queue, and the flushes of staging
pages (12_attention_kv.md R319 to R330). `walks` are the start generations of the walks that are active at the time.
-/

namespace Sys2Proof.Machine

/-- The walks that are active (R318). -/
def setWalks (s : State) (c : Nat) (walks : List Word) : State := s.modKv c fun k => { k with walks := walks }

/-- A Masthead's write of `KVP_CMD3` starts the command whose `OP` stands in `KVP_CMD0`; while a command is busy the
write is refused (R322, R340). -/
def kvStart (s : State) (c op : Nat) (cmd3 : Word) (walks : List Word) : State :=
  if s.fld .KVP_CMD0 c 31 24 ≠ op then s
  else
    let s := setWalks s c walks
    if s.flag .KVP_CMD_RESULT c 0 then s.setFlag .KVP_STATUS c 26 else (s.wr .KVP_CMD3 c cmd3).kvCommand c

def execKvOpen (c : ClId) (cmd3 : Word) (walks : List Word) (s : State) : Host.Outcome State Fault Refusal :=
  .next (s.atBlock .KVP c 0 fun s => kvStart s c 1 cmd3 walks)
def execKvTrunc (c : ClId) (cmd3 : Word) (walks : List Word) (s : State) : Host.Outcome State Fault Refusal :=
  .next (s.atBlock .KVP c 0 fun s => kvStart s c 2 cmd3 walks)
def execKvClose (c : ClId) (cmd3 : Word) (walks : List Word) (s : State) : Host.Outcome State Fault Refusal :=
  .next (s.atBlock .KVP c 0 fun s => kvStart s c 3 cmd3 walks)
def execKvOffload (c : ClId) (cmd3 : Word) (walks : List Word) (s : State) : Host.Outcome State Fault Refusal :=
  .next (s.atBlock .KVP c 0 fun s => kvStart s c 4 cmd3 walks)
def execKvAdopt (c : ClId) (cmd3 : Word) (walks : List Word) (s : State) : Host.Outcome State Fault Refusal :=
  .next (s.atBlock .KVP c 0 fun s => kvStart s c 5 cmd3 walks)
def execKvReset (c : ClId) (cmd3 : Word) (walks : List Word) (s : State) : Host.Outcome State Fault Refusal :=
  .next (s.atBlock .KVP c 0 fun s => kvStart s c 6 cmd3 walks)

/-- A held update is tried again; the cycles of holding count (R319). -/
def kvRelease (s : State) (c : Nat) (walks : List Word) (cycles : Nat) : State :=
  if (s.kv c).held then
    let s := (setWalks s c walks).countSat .KVP_HOLD_COUNT c cycles
    (s.modKv c fun k => { k with held := false }).kvCommand c
  else s

def execKvUpdateRelease (c : ClId) (walks : List Word) (cycles : Nat) (s : State) : Host.Outcome State Fault Refusal :=
  .next (kvRelease s c walks cycles)

/-- Freed pages and drained staging pages that no older walk needs return to use (R320, R324). -/
def reclaimToFree (s : State) (c : Nat) (walks : List Word) : State :=
  let s := setWalks s c walks
  (s.reclaim c (s.kv c).reclaim.length).drainStages c

def execReclaimToFree (c : ClId) (walks : List Word) (s : State) : Host.Outcome State Fault Refusal :=
  .next (reclaimToFree s c walks)

/-- The core's full staging page is flushed; a flush whose generation would overwrite what an older walk needs is held,
and the cycles count (R319, R324, R328). -/
def stagingFlush (s : State) (c k : Nat) (walks : List Word) (cycles : Nat) : State :=
  let s := setWalks s c walks
  let x := s.stageOf c k
  match flushNext x with
  | none => s
  | some sec =>
    if s.flushHeld c k sec then s.countSat .KVP_HOLD_COUNT c cycles
    else
      let s := s.setStage c k (x.setPage sec { x.page sec with st := .flushing })
      s.flushFrom c k sec

def execStagingFlush (c : ClId) (core : Fin 8) (walks : List Word) (cycles : Nat) (s : State) :
    Host.Outcome State Fault Refusal :=
  .next (stagingFlush s c core walks cycles)

/-- A stalled flush goes on where it stopped, or is held as it would be at its start (R319, R330). -/
def flushResume (s : State) (c k : Nat) (walks : List Word) (cycles : Nat) : State :=
  let s := setWalks s c walks
  let x := s.stageOf c k
  match [false, true].find? fun sec => (x.page sec).st == .stalled with
  | none => s
  | some sec => if s.flushHeld c k sec then s.countSat .KVP_HOLD_COUNT c cycles else s.flushFrom c k sec

def execFlushResume (c : ClId) (again : FlushTry) (s : State) : Host.Outcome State Fault Refusal :=
  .next (flushResume s c again.core again.walks again.cycles)

end Sys2Proof.Machine
end

