-- ==== Sys2Proof/Machine/ExecNumeric.lean ====
section
/-!
DEFINITION. The rows of numeric assurance: the Norm Watch Table, its observations, and the judgement of a shadow sample
(07_numeric_assurance.md R180 to R191).
-/

namespace Sys2Proof.Machine

namespace State

/-! The Norm Watch Table (R187). -/

def nwW (s : State) (e k : Nat) : Word := SMap.get 0 s.nw (8 * e + k)
def setNwW (s : State) (e k : Nat) (v : Word) : State := { s with nw := SMap.set 0 s.nw (8 * e + k) v }

/-- The word that `TTL_NW_DATA` shows; a `WORD` above 7 names none. -/
def nwData (s : State) (req : Req) : Word :=
  let w := s.sel req .TTL_NW_SEL 0
  if bits w 4 0 < 8 then s.nwW (bits w 14 5 % 512) (bits w 4 0) else 0

/-- A load of one word of an entry, which starts anew, as `TTL_NW_DATA` or a job's start loads it; words 6 and 7 are reserved. -/
def nwLoad (s : State) (e k : Nat) (v : Word) : State :=
  if 6 ≤ k then s
  else
    let s := s.setNwW e k v
    { s with nwLoaded := SMap.set 0 s.nwLoaded (8 * e + k) v, nwSeen := s.nwSeen.filter fun x => x != e }

/-- A write through `TTL_NW_DATA` (R63, R187); `ENTRY` above 511 is taken modulo 512, the model's choice (log entry 132). -/
def nwDataWrite (s : State) (req : Req) (v : Word) : State :=
  if s.reaches req .TTL 0 0x120 then
    if s.anyRunning then s.setFlag .TTL_NUM_STATUS 0 26
    else
      let w := s.sel req .TTL_NW_SEL 0
      (s.nwLoad (bits w 14 5 % 512) (bits w 4 0) v).advance req .TTL_NW_SEL 0 15 4 0 8 1
  else s

/-- A read through `TTL_NW_DATA`. -/
def nwDataRead (s : State) (req : Req) : State :=
  if s.reaches req .TTL 0 0x120 then (s.emit (.readData (s.nwData req))).advance req .TTL_NW_SEL 0 15 4 0 8 1
  else s.emit (.readData 0)

/-- An event of the Norm Watch Table: `TID`, z with the sign of d, `KIND`, x and `MEAN`; its status bit, and its 16-bit count
in word 5. -/
def normEvent (s : State) (e : Nat) (alarm count : Bool) (x z : Word) : State :=
  let s := s.setFlag .TTL_NUM_STATUS 0 (if alarm then 28 else 29)
  let s := s.postMore 0 (if alarm then .normAlarm else .normWarn) (s.nwW e 0) z
    [BitVec.ofNat 32 (bits (s.nwW e 1) 30 30), x, s.nwW e 2]
  let w := s.nwW e 5
  let v := if alarm then setBits w 15 0 (satAdd 16 (bits w 15 0) 1) else setBits w 31 16 (satAdd 16 (bits w 31 16) 1)
  if count then s.setNwW e 5 v else s

/-- A field of word 1 of an entry is written. -/
def setNwF (s : State) (e hi lo v : Nat) : State := s.setNwW e 1 (setBits (s.nwW e 1) hi lo v)

/-- MEAN and VAR of an entry. -/
def setNwStat (s : State) (e : Nat) (mean var : Word) : State := (s.setNwW e 2 mean).setNwW e 3 var

/-- The last lines of R188: an observation is absorbed. -/
def absorb (s : State) (e : Nat) (a d : Word) : State :=
  let s := s.setNwF e 26 24 0
  let one := 0x3F800000#32
  s.setNwStat e (add32 (s.nwW e 2) (mul32 a d)) (mul32 (sub32 one a) (add32 (s.nwW e 3) (mul32 a (mul32 d d))))

/-- A level in units of 1/16. -/
def sixteenth (n : Nat) : FV := .fin false n (-4)

/-- Telltale processes one observation of a valid entry (R188). -/
def observe (s : State) (e : Nat) (n2 : Word) : State :=
  let w1 := s.nwW e 1
  if !bit w1 31 then s
  else if (dec32 n2).isZero then
    let (s, x) := s.drawWord
    let (s, z) := s.drawWord
    s.normEvent e true false x (z ||| 0x80000000#32)
  else
    let x := mul32 0x3F000000#32 (log2_32 n2)
    let s := s.setNwW e 4 x
    let a := enc32 (.fin false 1 (-((bits w1 29 27 : Int) + 1)))
    if !s.nwSeen.contains e then
      let s := { s with nwSeen := s.nwSeen ++ [e] }.setNwStat e x 0
      if bits w1 23 16 = 0 then
        let (s, v) := s.drawWord
        s.setNwF e 23 16 (bits v 7 0)
      else s.setNwF e 23 16 (bits w1 23 16 - 1)
    else
      let d := sub32 x (s.nwW e 2)
      if bits w1 23 16 = 0 then
        let sigma := max32 (sqrt32 (s.nwW e 3)) 0x3D800000#32
        let z := div32 (abs32 d) sigma
        let zs := if bit d 31 then neg32 z else z
        if (sixteenth (bits w1 7 0)).le (dec32 z) then
          let s := s.normEvent e true true x zs
          if bits w1 26 24 + 1 < 4 then s.setNwF e 26 24 (bits w1 26 24 + 1)
          else ((s.setNwF e 26 24 0).setNwStat e x 0).setNwF e 23 16 16
        else
          let s := if (sixteenth (bits w1 15 8)).le (dec32 z) then s.normEvent e false true x zs else s
          s.absorb e a d
      else (s.setNwF e 23 16 (bits w1 23 16 - 1)).absorb e a d

/-- Telltale processes an observation of a step of partition `p`: that of entry `entry` with value `n2`, when it is the next of the
oldest step whose boundary has been taken, in ascending entry index; no other is processed before it (R189). -/
def normWatchObservation (s : State) (p entry : Nat) (n2 : Word) : State :=
  match s.nwQ.findIdx? (·.due) with
  | none => s
  | some i => match s.nwQ[i]? with
    | none => s
    | some x => match x.obs with
      | [] => { s with nwQ := s.nwQ.eraseIdx i }
      | o :: os =>
        if x.part ≠ p ∨ o ≠ (entry, n2) then s
        else { s with nwQ := if os = [] then s.nwQ.eraseIdx i else s.nwQ.set i { x with obs := os } }.observe entry n2

/-! Shadow samples (R181 to R183). -/

/-- Row `i` of the reference strip r = X × W_ref: from +0.0, FMA of the exact products in ascending k (R181). -/
def stripRow (s : State) (core : Nat) (sh : Shadow) (n : Nat) (xs : List Nat) : List Word :=
  (List.range n).map fun j =>
    (xs.zipIdx.take sh.k).foldl (fun (acc : Word) x =>
      let w := if sh.wtrans then Tile.value s.mem core sh.wref j x.2 else Tile.value s.mem core sh.wref x.2 j
      enc32 (((decBf16 x.1).mul w).add (dec32 acc))) 0#32

/-- Is a level of T/256 reached: num ≥ (T/256)² × den, a zero den reached by any num that is not zero (R182)? -/
def levelReached (t : Nat) (num den : Word) : Bool :=
  decide (t ≠ 0) && (if (dec32 den).isZero then !(dec32 num).isZero
    else ((FV.fin false (t * t) (-16)).mul (dec32 den)).le (dec32 num))

/-- The Vector Engine judges a completed sample (R181 to R183). -/
def shadowSampleJudge (s : State) (core : Nat) : State :=
  match (s.core core).shadow with
  | none => s
  | some sh => match sh.n with
    | none => s
    | some n =>
      let r := (sh.x.take sh.y.length).map (s.stripRow core sh n)
      let dif := (sh.y.zip r).flatMap fun p => (p.1.zip p.2).map fun q => sub32 q.1 q.2
      let num := (rsumPair (dif.map fun x => mul32 x x)).1
      let den := (rsumPair (r.flatMap fun l => l.map fun x => mul32 x x)).1
      let bad := sh.x.any (fun l => l.any (codeNonfinite 3)) || sh.y.any (fun l => l.any isNonfinite32)
        || r.any (fun l => l.any isNonfinite32) || isNonfinite32 num || isNonfinite32 den
      let s := s.modCore core fun c => { c with shadow := none }
      if bad then s.countSat .TTL_SHADOW_LOST 0 1
      else
        let thr := sh.thr
        let alarm := if sh.gradient then bits thr 31 24 else bits thr 15 8
        let warn := if sh.gradient then bits thr 23 16 else bits thr 7 0
        let s := s.countWrap .TTL_SHADOW_DONE 0 1
        let ratio := div32 num den
        if levelReached alarm num den then
          ((s.setFlag .TTL_NUM_STATUS 0 30).countSat .TTL_SHADOW_ALARM_COUNT 0 1).postMore (dieOfCore core) .shadowAlarm sh.tid ratio [BitVec.ofNat 32 core]
        else if levelReached warn num den then
          ((s.setFlag .TTL_NUM_STATUS 0 31).countSat .TTL_SHADOW_WARN_COUNT 0 1).postMore (dieOfCore core) .shadowWarn sh.tid ratio [BitVec.ofNat 32 core]
        else s

end State

def execNormWatchObservation (p : PartId) (entry : Fin 512) (n2 : Word) (s : State) : Host.Outcome State Fault Refusal :=
  .next (s.normWatchObservation p entry n2)

def execNwDataWrite (req : Req) (v : Word) (s : State) : Host.Outcome State Fault Refusal := .next (s.nwDataWrite req v)

def execNwDataRead (req : Req) (s : State) : Host.Outcome State Fault Refusal := .next (s.nwDataRead req)

def execShadowSampleJudge (core : CoreId) (s : State) : Host.Outcome State Fault Refusal :=
  .next (s.shadowSampleJudge core)

end Sys2Proof.Machine
end

