-- ==== Sys2Proof/Machine/ExecShroud.lean ====
section
/-!
DEFINITION. Shroud's register rows: flags and setter groups through their data registers, and its configuration
(09_ordering_tokens_barriers.md R253 to R255).
-/

namespace Sys2Proof.Machine

namespace State

/-- A selection by `SCOPE` and `INDEX`: is it a flag that exists (R255)? -/
def flagSelOk (w : Word) : Bool := bit w 10 || decide (bits w 9 0 < 64)

/-- May a selected flag or group be written (R255)? -/
def shrWritable (s : State) (c : Nat) (w : Word) : Bool :=
  !s.running c && flagSelOk w && (!bit w 10 || s.inDflagRange c (bits w 9 0))

/-- A write through `SHR_FLAG_DATA`. -/
def shrFlagDataWrite (s : State) (c : Nat) (req : Req) (v : Word) : State :=
  if s.reaches req .SHR c 0x24 then
    let w := s.sel req .SHR_FLAG_SEL c
    if s.shrWritable c w then s.setFlagVal c (bit w 10) (bits w 9 0) v else s.setFlag .SHR_STATUS c 25
  else s

/-- Bits of a setter group that are not reserved (R247). -/
def groupMask (v : Word) : Word := if bit v 30 then v &&& 0xFFFFFC00#32 else v &&& 0xFFFFE000#32

/-- Set a setter group of a cluster flag or of a die flag. -/
def setGroup (s : State) (c : Nat) (dieFlag : Bool) (flag g : Nat) (v : Word) : State :=
  if dieFlag then s.modDie (dieOfCl c) fun d => { d with dregs := SMap.set 0 d.dregs (2 * flag + g) (groupMask v) }
  else s.modCluster c fun x => { x with regs := SMap.set 0 x.regs (2 * flag + g) (groupMask v) }

/-- A write through `SHR_REG_DATA`. -/
def shrRegDataWrite (s : State) (c : Nat) (req : Req) (v : Word) : State :=
  if s.reaches req .SHR c 0x2C then
    let w := s.sel req .SHR_REG_SEL c
    if s.shrWritable c w then s.setGroup c (bit w 10) (bits w 9 0) (bits w 11 11) v else s.setFlag .SHR_STATUS c 25
  else s

/-- A write to `SHR_CTRL` or, with `range`, to `SHR_DFLAG_RANGE` (R253). -/
def shrConfigWrite (s : State) (c : Nat) (req : Req) (range : Bool) (v : Word) : State :=
  if s.reaches req .SHR c (if range then 0x18 else 0x10) then
    if s.running c then s.setFlag .SHR_STATUS c 25
    else if range then s.wr .SHR_DFLAG_RANGE c (v &&& 0x03FF03FF#32)
    else s.wr .SHR_CTRL c (v &&& 0xFFFF0000#32)
  else s

/-- What `SHR_FLAG_DATA` shows. -/
def shrFlagData (s : State) (c : Nat) (req : Req) : Word :=
  let w := s.sel req .SHR_FLAG_SEL c
  if flagSelOk w then s.flagVal c (bit w 10) (bits w 9 0) else 0

/-- What `SHR_REG_DATA` shows. -/
def shrRegData (s : State) (c : Nat) (req : Req) : Word :=
  let w := s.sel req .SHR_REG_SEL c
  if flagSelOk w then s.group c (bit w 10) (bits w 9 0) (bits w 11 11) else 0

/-- What `SHR_TOK_DATA` shows (R256). -/
def shrTokData (s : State) (c : Nat) (req : Req) : Word :=
  let w := s.sel req .SHR_TOK_SEL c
  if bits w 7 5 < 6 then
    let t := s.tok (8 * c + bits w 10 8) (bits w 7 5) (bits w 4 0)
    BitVec.ofNat 32 (t.stale.toNat * 2 ^ 31 + t.pendOwn % 128 * 2 ^ 24 + t.pend % 512 * 2 ^ 15 + t.count % 16)
  else 0

end State

def execShrFlagDataWrite (c : ClId) (req : Req) (v : Word) (s : State) : Host.Outcome State Fault Refusal :=
  .next (s.shrFlagDataWrite c req v)

def execShrRegDataWrite (c : ClId) (req : Req) (v : Word) (s : State) : Host.Outcome State Fault Refusal :=
  .next (s.shrRegDataWrite c req v)

def execShrConfigWrite (c : ClId) (req : Req) (range : Bool) (v : Word) (s : State) : Host.Outcome State Fault Refusal :=
  .next (s.shrConfigWrite c req range v)

end Sys2Proof.Machine
end

