-- ==== Sys2Proof/Machine/RegWrite.lean ====
section
/-!
DEFINITION. Register accesses as a whole: where a BAR0 offset leads (R552 to R558), what a write does by its field's access
code (R7, R8) and by the guards of its chapter, and what a read returns.
-/

namespace Sys2Proof.Machine

/-- The register at an offset of a block. -/
def regAt (b : Block) (off : Nat) : Option Reg := (Reg.byBlock b).find? fun r => r.place.2 == off

/-- Where a BAR0 offset of PF0 leads: block, instance, and offset in the block or window (R552, R553; 14 R394, 13 R373,
15 R420 to R422). -/
def bar0 (o : Nat) : Option (Block × Nat × Nat) :=
  if o < 0x10000 then some (.HIF, 0, o)
  else if o < 0x90000 then
    let fn := o / 0x10000 - 1
    let w := o % 0x10000
    if 0x1000 ≤ w ∧ w < 0x5000 then some (.RP, 256 * fn + (w - 0x1000) / 0x40, w % 0x40) else some (.FN, fn, w)
  else if o < 0x100000 then none
  else if o < 0x900000 then
    let w := o % 0x100000
    match o / 0x100000 with
    | 1 => some (.MGT, 0, w)
    | 2 => some (.SEC, 0, w)
    | 3 => some (.PWR, 0, w)
    | 4 => some (.CKR, 0, w)
    | 5 => some (.TTL, 0, w)
    | 6 => some (.RES, 0, w)
    | 7 => if 0x1000 ≤ w ∧ w < 0x1800 then some (.PART, (w - 0x1000) / 0x100, w % 0x100) else some (.PLC, 0, w)
    | _ => if 0x1000 ≤ w ∧ w < 0x2800 then some (.PORT, (w - 0x1000) / 0x100, w % 0x100) else some (.FAB, 0, w)
  else if o < 0xA00000 then some (.COL, (o - 0x900000) / 0x40000, (o - 0x900000) % 0x40000)
  else if o < 0xA00000 + 24 * 0x8000 then some (.MEM, (o - 0xA00000) / 0x8000, (o - 0xA00000) % 0x8000)
  else if 0x1000000 ≤ o ∧ o < 0x2000000 then
    let c := (o - 0x1000000) / 0x80000
    let w := o % 0x80000
    if w < 0x10000 then
      some ((match w / 0x4000 with
        | 0 => .CHN
        | 1 => .SHR
        | 2 => .KVP
        | _ => .CVT), c, w % 0x4000)
    else if w < 0x50000 then
      let core := 8 * c + (w - 0x10000) / 0x8000
      match w % 0x8000 / 0x1000 with
      | 0 => some (.FWD, core, w % 0x1000)
      | 1 => some (.BWD, core, w % 0x1000)
      | 2 => some (.VEC, core, w % 0x1000)
      | 3 => some (.GTH, core, w % 0x1000)
      | 4 => some (.XFR, core, w % 0x1000)
      | _ => none
    else none
  else none

/-- Where an offset of a requester's BAR0 leads: a virtual function sees its own view only (R397, R557). -/
def barOf (req : Req) (o : Nat) : Option (Block × Nat × Nat) :=
  match req with
  | .masthead _ => bar0 o
  | .host fn => if fn.val = 0 then bar0 o else if o < 0x10000 then bar0 (o + 0x10000 * (fn.val + 1)) else none

/-- Block type (R554). -/
def Block.typ : Block → Nat
  | .HIF | .FN | .RP => 0x01
  | .MGT => 0x02
  | .SEC => 0x03
  | .PWR => 0x04
  | .CKR => 0x05
  | .TTL => 0x06
  | .RES => 0x07
  | .PLC | .PART => 0x08
  | .FAB | .PORT => 0x09
  | .COL => 0x0A
  | .MEM => 0x0B
  | .CHN => 0x10
  | .SHR => 0x11
  | .KVP => 0x12
  | .CVT => 0x13
  | .FWD => 0x20
  | .BWD => 0x21
  | .VEC => 0x22
  | .GTH => 0x23
  | .XFR => 0x24

/-- The `*_ID` register of a block (R554). -/
def blockId (b : Block) (i : Nat) : Word :=
  let inst := match b with
    | .HIF | .FN | .RP | .MGT | .SEC | .PWR | .CKR | .TTL | .RES | .PLC | .PART | .FAB | .PORT => 0
    | _ => i
  BitVec.ofNat 32 (b.typ * 2 ^ 24 + 2 ^ 16 + inst % 256)

namespace State

/-! Data registers that have rows of their own. -/

/-- A write of `PWR_CTRL` (R548). -/
def pwrCtrlWrite (s : State) (v : Word) : State :=
  if bits v 17 13 < 12 ∨ 30 < bits v 17 13 ∨ bits v 19 18 = 3 then s.setFlag .PWR_STATUS 0 27
  else s.wr .PWR_CTRL 0 (v &&& 0xFFFFE7FF#32)

/-- A write through `CKR_STAY_DATA` or, with `mem`, `CKR_STAYMEM_DATA`: only a Masthead's changes anything (R489). -/
def stayWrite (s : State) (req : Req) (mem : Bool) (v : Word) : State :=
  if !fromMasthead req then s.setFlag .CKR_RST_STATUS 0 18
  else if mem then
    let a := bits (s.sel req .CKR_STAYMEM_ADDR 0) 15 2 * 4
    { s with chip := { s.chip with stayMem := s.chip.stayMem.wr32 a v } }.advance req .CKR_STAYMEM_ADDR 0 31 15 0 65536 4
  else
    let w := s.sel req .CKR_STAY_SEL 0
    if bits w 3 0 = 15 ∧ bits w 5 4 = 0 then s else s.setStay (bits w 5 4) (bits w 3 0) v

/-- A read through `CKR_STAYMEM_DATA` (R494). -/
def staymemRead (s : State) (req : Req) : State :=
  let a := bits (s.sel req .CKR_STAYMEM_ADDR 0) 15 2 * 4
  (s.emit (.readData (s.chip.stayMem.rd32 a))).advance req .CKR_STAYMEM_ADDR 0 31 15 0 65536 4

/-- A write, or with none a read, of the token buffer's selected word (R521). -/
def tokenAccess (s : State) (req : Req) (v : Option Word) : State :=
  let a := 4 * bits (s.sel req .SEC_TOKEN_SEL 0) 6 0
  let s := match v with
    | some w => { s with chip := { s.chip with token := s.chip.token.wr32 a w } }
    | none => s.emit (.readData (s.chip.token.rd32 a))
  s.advance req .SEC_TOKEN_SEL 0 31 6 0 128 1

/-! Writes. -/

/-- The write by access codes alone. -/
def plainWrite (s : State) (r : Reg) (i : Nat) (v : Word) : State := s.wr r i (r.write (s.rd r i) v)

/-- The write of a register that a condition refuses: nothing changes but a status bit. -/
def guarded (s : State) (refused : Bool) (st : Reg) (j b : Nat) (r : Reg) (i : Nat) (v : Word) : State :=
  if refused then s.setFlag st j b else s.plainWrite r i v

/-- A write of a partition's clusters or HBM range (R394). -/
def partWrite (s : State) (r : Reg) (p : Nat) (v : Word) : State :=
  let twice := r == .PLC_PART_CLUSTERS
    && (List.range 8).any fun q => q != p && s.rd .PLC_PART_CLUSTERS q &&& v != 0
  s.guarded (s.jobState p != 0 || twice) .PLC_STATUS p 25 r p v

/-- Device ring pair and function of the RP instance `i` of `bar0`: 256 × view + local ring. -/
def rpOf (s : State) (i : Nat) : Option (Nat × Nat) := (s.localRing (i / 256) (i % 256)).map fun r => (r, i / 256)

/-- A write of a register of the Chanter's block (R266 to R281). With `ARM` and `DISARM` both 1 the slot is armed and then
disarmed, the model's choice (log entry 152). -/
def chnWrite (s : State) (r : Reg) (c : Nat) (v : Word) : State :=
  match r with
  | .CHN_CTRL => chnRun s c (bit v 0)
  | .CHN_SLOT_CTRL =>
    slotDisarm (slotArm (if slotWrite s c v then s.setFld .CHN_SLOT_CTRL c 16 2 (bits v 16 2) else s) c v) c v
  | .CHN_LD_LEN => if bit v 31 then loaderGo s c v else if (s.chn c).ld.isSome then s else s.plainWrite r c v
  | .CHN_LD_SRC_LO | .CHN_LD_SRC_HI | .CHN_LD_DST => if (s.chn c).ld.isSome then s else s.plainWrite r c v
  | .CHN_EVR_CTRL =>
    if s.running c then s.setFlag .CHN_STATUS c 31
    else if bits v 4 0 = 0 ∨ (4 ≤ bits v 4 0 ∧ bits v 4 0 ≤ 16) then s.plainWrite r c v else s
  | .CHN_EVR_BASE | .CHN_CORE_EN => s.guarded (s.running c) .CHN_STATUS c 31 r c v
  | .CHN_MBOX => chnMboxSet s c v
  | _ => s.plainWrite r c v

/-- A write of a command register from any source but the die's Masthead (R322). -/
def kvpForeign (req : Req) (c : Nat) : Bool :=
  match req with
  | .masthead d => d.val != dieOfCl c
  | .host _ => true

/-- A write of a register of Halyard's block (R322, R338). -/
def kvpWrite (s : State) (req : Req) (r : Reg) (c : Nat) (v : Word) : State :=
  match r with
  | .KVP_CMD0 | .KVP_CMD1 | .KVP_CMD2 =>
    s.guarded (kvpForeign req c || s.flag .KVP_CMD_RESULT c 0) .KVP_STATUS c 26 r c v
  | .KVP_CMD3 =>
    if kvpForeign req c || s.flag .KVP_CMD_RESULT c 0 then s.setFlag .KVP_STATUS c 26 else (s.wr r c v).kvCommand c
  | .KVP_CTRL =>
    if s.running c then s.setFlag .KVP_STATUS c 26
    else if bits v 20 16 = 0 ∨ (4 ≤ bits v 20 16 ∧ bits v 20 16 ≤ 18) then s.plainWrite r c v else s
  | .KVP_POOL_LO | .KVP_POOL_HI | .KVP_POOL_PAGES | .KVP_SIDE_LO | .KVP_SIDE_HI | .KVP_TABLE_LO | .KVP_TABLE_HI
  | .KVP_TABLE_SIZE | .KVP_STAGE_OFF => s.guarded (s.running c) .KVP_STATUS c 26 r c v
  | _ => s.plainWrite r c v

/-- A write of a register of the fabric's device-wide block: one that would change `MODE` while a port is up changes nothing
(R372; log entry 71). -/
def fabWrite (s : State) (req : Req) (r : Reg) (v : Word) : State :=
  match r with
  | .FAB_CTRL =>
    if s.portsUp = [] ∨ bit v 31 = s.ethernet then s.plainWrite r 0 v
    else s.setFlag .FAB_STATUS 0 27
  | .FAB_DEVID => s.guarded (s.portsUp != []) .FAB_STATUS 0 27 r 0 v
  | .FAB_ROUTE_DATA =>
    s.modFab fun f => { f with route := SMap.set 0 f.route (bits (s.sel req .FAB_ROUTE_SEL 0) 11 0) (v &&& 0xC0FFFFFF#32) }
  | _ => s.plainWrite r 0 v

/-- A write that reaches instance `i` of a register, with the guards of the register's chapter. Command registers whose
commands are rows of their own change nothing here. -/
def regWrite (s : State) (req : Req) (r : Reg) (i : Nat) (v : Word) : State :=
  if r.isSelect then s.setSel req r i (r.write (s.sel req r i) v)
  else match r.place.1 with
  | .CHN => s.chnWrite r i v
  | .KVP => s.kvpWrite req r i v
  | .FAB => s.fabWrite req r v
  | .RP =>
    match s.rpOf i with
    | none => s
    | some (k, fn) =>
      match r with
      | .RP_CFG => s.rpCfgWrite k v
      | .RP_SQ_LO | .RP_SQ_HI | .RP_CQ_LO | .RP_CQ_HI | .RP_SIZE | .RP_SQ_HEAD | .RP_SQ_TAIL | .RP_CQ_TAIL | .RP_CQ_HEAD => s.guarded (s.fnEnabled fn) .FN_STATUS fn 31 r k v
      | _ => s.plainWrite r k v
  | _ => match r with
    | .CVT_LS_CTRL | .CVT_LOSS_SCALE => s.guarded (s.running i) .CVT_REEF_STATUS i 31 r i v
    | .CVT_REEF_DATA => s.reefDataWrite i req v
    | .VEC_MODE => s.guarded (s.running (clOfCore i)) .VEC_STATUS i 29 r i v
    | .SHR_CTRL => s.shrConfigWrite i req false v
    | .SHR_DFLAG_RANGE => s.shrConfigWrite i req true v
    | .SHR_FLAG_DATA => s.shrFlagDataWrite i req v
    | .SHR_REG_DATA => s.shrRegDataWrite i req v
    | .MEM_CTRL => s.guarded (s.flag .MEM_STATUS i 0) .MEM_STATUS i 29 r i v
    | .FAB_PORT_CTRL => s.portCtrlWrite i v
    | .COL_TABLE_LO | .COL_TABLE_HI | .COL_STORE_LO | .COL_STORE_HI =>
      if s.flag .COL_CTRL i 31 then s else s.plainWrite r i v
    | .PLC_PART_CLUSTERS | .PLC_PART_HBM => s.partWrite r (bits (s.sel req .PLC_PART_SEL 0) 2 0) v
    | .PLC_SYNC_CTRL =>
      if 4000 < bits v 11 0 then s.setFlag .PLC_STATUS i 25 else if bits v 31 30 = 3 then s else s.plainWrite r i v
    | .RES_LOG_CTRL | .RES_FENCE_CTRL => if s.anyRunning then s else s.plainWrite r i v
    | .TTL_RISK_CTRL => if bits v 31 28 < 4 then s else s.plainWrite r i v
    | .TTL_NW_DATA => s.nwDataWrite req v
    | .MGT_HB => if bits v 31 16 < 100 ∨ 10000 < bits v 31 16 then s else s.plainWrite r i v
    | .MGT_MRM_ARG => if s.inMrm then s.plainWrite r i v else s
    | .MGT_MRM_CMD =>
      if s.inMrm ∧ (bits v 31 24 = 0 ∨ 4 < bits v 31 24) then s.setFld .MGT_MRM_STATUS 0 31 24 Status.versionMismatch.num else s
    | .HIF_FN_RINGS => s.fnRangeWrite (bits (s.sel req .HIF_FN_SEL 0) 2 0) false v
    | .HIF_FN_PORTS => s.fnRangeWrite (bits (s.sel req .HIF_FN_SEL 0) 2 0) true v
    | .HIF_DRV_FEATURES => s.guarded (s.fnEnabled i) .FN_STATUS i 31 r i (v &&& s.rd .HIF_FEATURES i)
    | .CKR_STAY_DATA => s.stayWrite req false v
    | .CKR_STAYMEM_DATA => s.stayWrite req true v
    | .SEC_TOKEN_DATA => s.tokenAccess req (some v)
    | .PWR_CTRL => s.pwrCtrlWrite v
    | _ => s.plainWrite r i v

/-- A word of a function's MSI-X table is written (R417, R420). -/
def msixWrite (s : State) (fn off : Nat) (v : Word) : State :=
  let n := (off - 0x8000) / 16
  let x := s.vec fn n
  match off % 16 / 4 with
  | 0 => s.setVec fn n { x with addr := setBits x.addr 31 0 (v.toNat / 4 * 4) }
  | 1 => s.setVec fn n { x with addr := setBits x.addr 63 32 v.toNat }
  | 2 => s.setVec fn n { x with data := v }
  | _ => if bit v 0 then s.setVec fn n { x with masked := true } else s.unmask fn n

/-- A BAR0 write of an aligned word (R555). -/
def barWrite (s : State) (req : Req) (o : Nat) (v : Word) : State :=
  match (if o % 4 = 0 then barOf req o else none) with
  | none => s
  | some (b, i, off) =>
    let at_ := match b with
      | .RP => match s.rpOf i with
        | some (k, _) => k
        | none => 256
      | _ => i
    if !s.reaches req b at_ off then s
    else if b == .FN && decide (0x8000 ≤ off) && decide (off < 0x9000) then s.msixWrite i off v
    else match regAt b off with
      | some r => s.regWrite req r i v
      | none => s

/-- A BAR0 write of some size: an aligned 64-bit one is two writes, the lower address first, and one that is neither that nor an
aligned word is discarded (R555). -/
def barWriteOf (s : State) (req : Req) (o size : Nat) (v : DWord) : State :=
  if size = 4 then s.barWrite req o (v.setWidth 32)
  else if size = 8 ∧ o % 8 = 0 then (s.barWrite req o (v.setWidth 32)).barWrite req (o + 4) ((v >>> (32 : Nat)).setWidth 32)
  else s

/-! Reads. -/

/-- The oldest active walk's start generation, or `KVP_GEN` with none (R340). -/
def kvOldest (s : State) (c : Nat) : Word :=
  match (s.kv c).walks with
  | [] => (s.kv c).gen
  | w :: ws => ws.foldl (fun a b => if genNewer a b then b else a) w

/-- Bits of the armed Source Watch ranges from `lo` (R311). -/
def watchMask (s : State) (core lo : Nat) : Nat :=
  ((s.core core).watch.filter fun x => x.2.armed && decide (lo ≤ x.1) && decide (x.1 < lo + 32)).foldl
    (fun a x => a + 2 ^ (x.1 - lo)) 0

/-- A standby Masthead runs: die 2's, or die 0's after a takeover (R13, R450, R467, R474). -/
def standbyRuns (s : State) : Bool :=
  if s.primary = 0 then
    (s.die 2).mast.running && !s.chip.fencedDies.getLsbD 2 && !(decide (bits s.recov.drained 23 16 = 255))
  else (s.die 0).mast.running

/-- The value a read of instance `i` of a register shows (R7). `SHADOW_READY` of an array that has stopped shows 0, the model's choice
(log entry 149). -/
def regRead (s : State) (req : Req) (r : Reg) (i : Nat) : Word :=
  let w := s.rd r i
  if r.isSelect then s.sel req r i
  else match r with
    | .CVT_REEF_DATA => s.reefData i req
    | .CVT_REEF_STATUS => setBits w 26 26 ((s.reefEntries i).any fun e => bit (s.reefW i e 21) 29).toNat
    | .TTL_NW_DATA => s.nwData req
    | .SHR_FLAG_DATA => s.shrFlagData i req
    | .SHR_REG_DATA => s.shrRegData i req
    | .SHR_TOK_DATA => s.shrTokData i req
    | .SHR_STATUS => setBits w 5 0 (s.blockedCount i)
    | .CHN_STATUS =>
      let h := s.chn i
      setBits w 4 0 (h.ld.isSome.toNat * 16 + h.armed.toNat * 8 + h.active.toNat * 4 + (s.running i && h.wfi).toNat * 2
        + (s.running i && !h.wfi).toNat)
    | .CHN_SLOT_CTRL => setBits w 31 31 (s.chn i).armed.toNat
    | .CHN_DISP_COUNT => (s.chn i).tdispcnt.truncate 32
    | .KVP_GEN => (s.kv i).gen
    | .KVP_OLDEST => s.kvOldest i
    | .KVP_FREE => BitVec.ofNat 32 (s.kv i).freeCount
    | .KVP_STATUS =>
      setBits (setBits w 7 7 ((List.range 8).any fun k => s.flushStalled i k).toNat) 6 0 (s.kv i).walks.length
    | .KVP_CMD0 | .KVP_CMD1 | .KVP_CMD2 | .KVP_CMD3 => w
    | .FWD_STATUS => setBits w 0 0 ((s.q i 0).flight != []).toNat
    | .BWD_STATUS => setBits (setBits w 5 5 ((s.q i 1).flight.any fun f => !Tile.stream (f.descs.headD 0)).toNat) 0 0
        ((s.q i 1).flight != []).toNat
    | .VEC_STATUS => setBits (setBits w 1 1 (match (s.q i 2).flight.getLast? with
        | some f => f.ftz.toNat
        | none => s.fld .VEC_MODE i 0 0)) 0 0 ((s.q i 2).flight != []).toNat
    | .XFR_STATUS => setBits (setBits w 13 7 ((s.tagsHeld i).1 + (s.tagsHeld i).2)) 6 0 (min 64 (s.core i).miss.length)
    | .XFR_WATCH_LO => BitVec.ofNat 32 (s.watchMask i 0)
    | .XFR_WATCH_HI => BitVec.ofNat 32 (s.watchMask i 32)
    | .FWD_DUTY | .BWD_DUTY => BitVec.ofNat 32 (s.fld (match dieOfCore i with
        | 0 => .PWR_DIE0
        | 1 => .PWR_DIE1
        | 2 => .PWR_DIE2
        | _ => .PWR_DIE3) 0 10 0)
    | .FAB_INC => BitVec.ofNat 32 s.ownInc
    | .FAB_ROUTE_DATA => SMap.get 0 s.fab.route (bits (s.sel req .FAB_ROUTE_SEL 0) 11 0)
    | .PLC_PART_CLUSTERS | .PLC_PART_HBM => s.rd r (bits (s.sel req .PLC_PART_SEL 0) 2 0)
    | .HIF_FN_RINGS | .HIF_FN_PORTS => s.rd r (bits (s.sel req .HIF_FN_SEL 0) 2 0)
    | .RES_EPOCH_C => s.epochC
    | .RES_EPOCH_P => s.record 10
    | .RES_MAINT_STATUS => setBits w 0 0 s.recov.maint.isSome.toNat
    | .MGT_STATUS =>
      let w := setBits w 4 4 (!s.standbyRuns).toNat
      setBits (setBits w 1 1 ((List.range 8).any fun p => s.jobState p == 5).toNat) 0 0
        s.recovering.toNat
    | .PWR_STATUS => setBits w 11 11 s.chip.brake.isSome.toNat
    | .MGT_RESET_REC => s.record 12
    | .MGT_MRM_ARG | .MGT_MRM_STATUS => if s.inMrm then w else 0
    | .CKR_RST_STATUS => setBits (s.stay 0 0 &&& stayMask 0) 18 18 (bits w 18 18)
    | .CKR_START_COUNT => s.stay 0 2
    | .CKR_STAY_DATA =>
      let x := s.sel req .CKR_STAY_SEL 0
      s.stay (bits x 5 4) (bits x 3 0)
    | .CKR_STAYMEM_DATA => s.chip.stayMem.rd32 (bits (s.sel req .CKR_STAYMEM_ADDR 0) 15 2 * 4)
    | .SEC_TOKEN_DATA => s.chip.token.rd32 (4 * bits (s.sel req .SEC_TOKEN_SEL 0) 6 0)
    | .RP_STATUS => setBits w 0 0 (s.ringActive i).toNat
    | _ => r.fields.foldl (fun w f => if f.acc == .wo then setBits w f.hi f.lo 0 else w) w

/-- A read clears the register's RC fields (R7). -/
def clearRc (s : State) (r : Reg) (i : Nat) : State :=
  let w := s.rd r i
  s.wr r i (r.fields.foldl (fun w f => if f.acc == .rc then setBits w f.hi f.lo 0 else w) w)

/-- A word of the MSI-X table or of the pending-bit array. -/
def msixRead (s : State) (fn off : Nat) : Word :=
  if off < 0x9000 then
    let x := s.vec fn ((off - 0x8000) / 16)
    match off % 16 / 4 with
    | 0 => x.addr.truncate 32
    | 1 => (x.addr >>> (32 : Nat)).truncate 32
    | 2 => x.data
    | _ => BitVec.ofNat 32 x.masked.toNat
  else BitVec.ofNat 32 ((List.range 32).foldl (fun a k =>
    a + (if (s.vec fn ((off - 0xC000) / 4 * 32 + k)).pend then 2 ^ k else 0)) 0)

/-- A BAR0 read of an aligned word: its value goes out, RC fields clear, and data registers with an advancing selection
move on (R7, R554, R555). -/
def barRead (s : State) (req : Req) (o : Nat) : State :=
  match (if o % 4 = 0 then barOf req o else none) with
  | none => s.emit (.readData 0)
  | some (b, i, off) =>
    let at_ := match b with
      | .RP => match s.rpOf i with
        | some (k, _) => k
        | none => 256
      | _ => i
    if !s.reaches req b at_ off || at_ == 256 then s.emit (.readData 0)
    else if off = 0 ∧ b ≠ .RP ∧ b ≠ .PART ∧ b ≠ .PORT then s.emit (.readData (blockId b i))
    else if b == .FN && off == 4 then s.emit (.readData (s.rd .ARCH_VERSION 0))
    else if b == .FN && ((decide (0x8000 ≤ off) && decide (off < 0x9000)) || (decide (0xC000 ≤ off) && decide (off < 0xC020)))
      then s.emit (.readData (s.msixRead i off))
    else match regAt b off with
      | none => s.emit (.readData 0)
      | some r => match r with
        | .CVT_REEF_DATA => s.reefDataRead i req
        | .TTL_NW_DATA => s.nwDataRead req
        | .CKR_STAYMEM_DATA => s.staymemRead req
        | .SEC_TOKEN_DATA => s.tokenAccess req none
        | r => (s.emit (.readData (s.regRead req r at_))).clearRc r at_

/-- A BAR0 read of some size: an aligned 64-bit one is two reads, the lower address first, and one that is neither that nor an aligned
word returns 0 (R555). -/
def barReadOf (s : State) (req : Req) (o size : Nat) : State :=
  if size = 4 then s.barRead req o
  else if size = 8 ∧ o % 8 = 0 then (s.barRead req o).barRead req (o + 4)
  else s.emit (.readData 0)

end State

end Sys2Proof.Machine
end

