-- ==== Sys2Proof/Machine/Job.lean ====
section
/-!
DEFINITION. Jobs: the descriptor and its checks, completions, what a plan loads, how a job starts and ends, and what a
function's reset does to it (14_placement_services.md R375 to R388; 15 R410 to R419; 16 R428, R429).
-/

namespace Sys2Proof.Machine

/-- A section of a job descriptor: `TYPE`, `OFFSET`, `LENGTH` and `COUNT` (R375). -/
structure Sect where
  typ : Nat
  off : Nat
  len : Nat
  count : Nat
  deriving DecidableEq, Repr

/-- Bytes of one record of a section type (R376). -/
def sectSize : Nat → Nat
  | 1 => 16
  | 2 => 32
  | 3 => 32
  | 4 => 64
  | 5 => 8
  | 6 => 32
  | 7 => 16
  | 8 => 4
  | _ => 16

namespace State

/-! The job descriptor (R375 to R377). -/

/-- `n` bytes at offset `o` of the descriptor at `a`. -/
def jd (s : State) (a o n : Nat) : Nat := leNat (s.mem.rdN (a + o) n)

/-- Word `w` of record `k` of a section. -/
def jdW (s : State) (a : Nat) (x : Sect) (k w : Nat) : Word :=
  s.mem.rd32 (a + x.off + k * sectSize x.typ + 4 * w)

def jdSects (s : State) (a : Nat) : List Sect :=
  (List.range (s.jd a 2 2)).map fun i =>
    let o := 128 + 16 * i
    ⟨s.jd a o 2, s.jd a (o + 4) 4, s.jd a (o + 8) 4, s.jd a (o + 12) 4⟩

def jdSect (s : State) (a t : Nat) : Sect := ((s.jdSects a).find? fun x => x.typ == t).getD ⟨t, 0, 0, 0⟩

/-- Reserved bytes and codes of one record are 0, and MBTOK is in its range (R376, R377, R388; log entry 74). -/
def jdRecordOk (s : State) (a : Nat) (x : Sect) (k : Nat) : Bool :=
  let w := s.jdW a x k
  match x.typ with
  | 1 => bits (w 1) 31 16 == 0 && w 3 == 0
  | 2 => decide (bits (w 1) 31 28 ≤ 2) && bits (w 1) 23 22 != 3 && bits (w 1) 21 0 == 0 && bits (w 2) 15 0 == 0
      && w 6 == 0 && w 7 == 0
  | 3 => decide (1 ≤ (w 1).toNat) && decide ((w 1).toNat ≤ 4194304) && bits (w 3) 31 16 == 0 && bits (w 5) 31 16 == 0 && bits (w 6) 31 8 == 0
  | 4 => decide ((w 0).toNat ≤ 2) && (List.range 6).all fun i => w (10 + i) == 0
  | 5 => decide (bits (w 0) 9 7 ≤ 3) && bits (w 0) 11 10 != 3 && bits (w 0) 31 13 == 0 && w 1 == 0
  | 6 => bits (w 0) 31 27 == 0 && (List.range 6).all fun i => w (2 + i) == 0
  | 7 => decide (1 ≤ bits (w 0) 31 24) && decide (bits (w 0) 31 24 ≤ 7) && bits (w 0) 23 0 == 0
  | 8 => bits (w 0) 31 18 == 0
  | _ => bits (w 2) 31 24 == 0 && bits (w 2) 7 5 == 0 && decide (4 ≤ bits (w 2) 4 0) && decide (bits (w 2) 4 0 ≤ 16)
      && w 3 == 0

/-- Order 1 of R378. -/
def jdForm (s : State) (a : Nat) : Bool :=
  let xs := s.jdSects a
  let n := fun t => (xs.filter fun x => x.typ == t).length
  s.jd a 0 1 == 1 && decide (s.jd a 1 1 < 4) && decide (1 ≤ xs.length) && decide (xs.length ≤ 16) && s.jd a 32 32 == 0
  && (List.range xs.length).all (fun i => s.jd a (128 + 16 * i + 2) 2 == 0)
  && xs.all (fun x => decide (1 ≤ x.typ) && decide (x.typ ≤ 9) && decide (x.off + x.len ≤ s.jd a 4 4)
      && x.len == x.count * sectSize x.typ && ([2, 5, 7, 8].contains x.typ || x.count == 1)
      && (x.typ != 8 || x.count == s.jd a 28 4 + 1) && (List.range x.count).all fun k => s.jdRecordOk a x k)
  && [1, 2, 3, 4, 5, 8].all (fun t => n t == 1) && [6, 7, 9].all (fun t => decide (n t ≤ 1))

/-- Order 3 of R378. -/
def jdDigestOk (s : State) (a : Nat) : Bool :=
  let x := s.jdSect a 1
  let base := (s.jdW a x 0 0).toNat + bits (s.jdW a x 0 1) 15 0 * 2 ^ 32
  shake256 64 (s.mem.rdN base (s.jdW a x 0 2).toNat) == s.mem.rdN (a + 64) 64

/-- Order 4 of R378; `wg` names the weight-gradient reductions among the split reductions. -/
def jdContentOk (s : State) (a : Nat) (wg : List Nat) : Bool :=
  let t := s.jdSect a 2
  let c := s.jdSect a 3
  let r := s.jdSect a 5
  let tids := (List.range t.count).map fun k => s.jdW a t k 0
  let gmb := (s.jdW a c 0 0).toNat
  (List.range t.count).all (fun k => !bit (s.jdW a t k 1) 24 || (!bit (s.jdW a t k 1) 27 && !bit (s.jdW a t k 1) 26))
  && tids.eraseDups.length == tids.length
  && wg.all (fun k => decide (r.count ≤ k) || gmb % 64 ^ bits (s.jdW a r k 0) 1 0 == 0)
  && decide (s.jd a 24 4 + (s.jdW a c 0 2).toNat ≤ 2 ^ 32)

/-- An entry of the tensor table (R377). -/
def jdTensor (s : State) (a : Nat) (t : Sect) (k : Nat) : TensorRow :=
  let w := s.jdW a t k
  { tid := w 0, kind := bits (w 1) 31 28, frozen := bit (w 1) 27, psens := bit (w 1) 26, pbf16 := bit (w 1) 25, out := bit (w 1) 24
    gsize := bits (w 1) 23 22, layer := bits (w 2) 31 16, k := (w 3).toNat, n := (w 4).toNat, wd := w 5 }

/-- The job that a descriptor gives (R375 to R377). -/
def jdJob (s : State) (a ring : Nat) (tag : Word) (irq : Bool) : Job :=
  let t := s.jdSect a 2
  let c := s.jdSect a 3
  let n := s.jdSect a 4
  let m := s.jdSect a 8
  let o := s.jdSect a 6
  let pins := s.jdSect a 7
  { id := BitVec.ofNat 32 (s.jd a 16 4)
    jd := a
    resume := bit (BitVec.ofNat 8 (s.jd a 1 1)) 0
    strict := bit (BitVec.ofNat 8 (s.jd a 1 1)) 1
    epoch := BitVec.ofNat 32 (s.jd a 20 4)
    steps := s.jd a 24 4
    start := s.jdW a c 0 2
    pm1 := s.jd a 28 4
    digest := s.mem.rdN (a + 64) 64
    exp0 := bits (s.jdW a c 0 6) 7 0
    lsCtrl := s.jdW a c 0 7
    reefCtrl := s.jdW a n 0 9
    vecMode := s.jdW a n 0 8
    hyper := (List.range 6).map fun k => s.jdW a n 0 (k + 1)
    met := ((s.jdSects a).find? fun x => x.typ == 9).map fun x =>
      ((s.jdW a x 0 0).toNat + (s.jdW a x 0 1).toNat * 2 ^ 32, bits (s.jdW a x 0 2) 4 0, bits (s.jdW a x 0 2) 23 8)
    tensors := ((List.range t.count).filter fun k => bit (s.jdW a t k 1) 24).map fun k =>
      (s.jdW a t k 0, (s.jdW a t k 3).toNat)
    table := (List.range t.count).map (s.jdTensor a t)
    reds := (List.range (s.jdSect a 5).count).map fun k => s.jdW a (s.jdSect a 5) k 0
    gmb := (s.jdW a c 0 0).toNat
    mbtok := (s.jdW a c 0 1).toNat
    lrt := ((s.jdW a c 0 4).toNat + bits (s.jdW a c 0 5) 15 0 * 2 ^ 32, bits (s.jdW a c 0 3) 15 0)
    opt := (s.jdW a n 0 0).toNat
    clip := s.jdW a n 0 7
    cons := if o.count = 0 then (0, 0) else (s.jdW a o 0 0, s.jdW a o 0 1)
    pins := (List.range pins.count).map fun k => (s.jdW a pins k 0, s.jdW a pins k 1, s.jdW a pins k 2, s.jdW a pins k 3)
    memTab := a + m.off
    members := (List.range m.count).map fun k => bits (s.jdW a m k 0) 17 0
    ring := ring
    tag := tag
    irq := irq }

/-! States and completions (R379, R410, R411). -/

def setJobState (s : State) (p k : Nat) : State := s.setFld .PLC_JOB_STATE p 3 0 k

/-- A job completion is queued, and its status shown. -/
def jobCompletion (s : State) (p : Nat) (st : Status) (more : Bool) (res : List Byte) : State :=
  match (s.part p).job with
  | none => s
  | some j =>
    (s.setFld .PLC_JOB_STATE p 31 24 st.num).completeJob p j.ring ⟨st.num, more, 1, j.tag, 2 ^ st.num, res, j.irq, j.ring⟩

/-- The first completion: the plan is made or failed; `report` is the Placement Report's address and length. -/
def firstCompletion (s : State) (p : Nat) (st : Status) (report : Nat × Nat) : State :=
  match (s.part p).job with
  | none => s
  | some j =>
    let res := natLe 8 report.1 ++ natLe 4 report.2 ++ natLe 4 j.id.toNat
    let s := if (s.ring j.ring).due = 0 then s else s.jobCompletion p st (st == .ok && s.jobState p == 3) res
    s.modRing j.ring fun q => { q with due := q.due - 1 }

/-- The second completion: the job ended after LOADING. -/
def secondCompletion (s : State) (p : Nat) (st : Status) : State :=
  match (s.part p).job with
  | none => s
  | some j => s.jobCompletion p st false
      (natLe 4 (s.rd .PLC_STEP p - 1).toNat ++ natLe 4 s.epochC.toNat ++ natLe 4 0 ++ natLe 4 j.id.toNat)

/-- Where the Job Record lies: the start of the partition's HBM on die 0 (R465). -/
def jobRecAt (s : State) (p : Nat) : Nat := s.fld .PLC_PART_HBM p 15 8 * 2 ^ 30

/-- The bytes of a Job Record (R465): the descriptor's address, d, the Boundary Record areas, the Snapshot Slots, and the member set, a
bit for each rank of the Member Table. The layout is the model's choice (log entry 169). -/
def jobRecBytes (s : State) (j : Job) (pl : Plan) (x : Place) : List Byte :=
  let inSet := fun (r : Nat) => decide (r ≤ j.pm1) && j.members.contains (bits (s.mem.rd32 (j.memTab + 4 * r)) 17 0)
  natLe 8 j.jd ++ natLe 8 x.digest.toNat ++ natLe 8 pl.brec0 ++ natLe 8 pl.brec1 ++ natLe 8 pl.slot0 ++ natLe 8 pl.slot1 ++ natLe 16 0
    ++ (List.range (ceilDiv (j.pm1 + 1) 8)).map fun b => BitVec.ofNat 8 (((List.range 8).filter fun i => inSet (8 * b + i)).map fun i => 2 ^ i).sum

/-- The Job Record of a multi-member job that starts, and its Stay registers (R465). -/
def writeJobRec (s : State) (p : Nat) : State :=
  match (s.part p).job, (s.part p).plan with
  | some j, some pl =>
    if j.pm1 = 0 then s
    else
      let w := p * 2 ^ 29 + 2 ^ 28 + s.fld .PLC_PART_HBM p 15 8 * 2 ^ 20 + s.fld .PLC_PART_HBM p 7 0 * 2 ^ 12
      let s := (s.setEpochReg 13 (BitVec.ofNat 32 w)).setEpochReg 14 (s.rd .PLC_PART_CLUSTERS p)
      let s := s.store (s.jobRecAt p) (s.jobRecBytes j pl (s.part p).place)
      { s with chip := { s.chip with jobRec := some (j, pl, (s.part p).place) } }
  | _, _ => s

/-- The Job Record of a partition's job goes. -/
def dropJobRec (s : State) (p : Nat) : State :=
  let w := s.record 13
  if bit w 28 ∧ bits w 31 29 = p then
    { s.setEpochReg 13 (setBits w 28 28 0) with chip := { s.chip with jobRec := none } }
  else s

/-! The Reset Record's phase (R465). -/

def setPhase (s : State) (k : Nat) : State := s.setEpochReg 12 (setBits (s.record 12) 11 8 k)

/-- A recovery at partition level or above that waits for its replay or rejoin is over. -/
def closeRec (s : State) : State :=
  if 3 ≤ bits (s.record 12) 31 28 ∧ bits (s.record 12) 11 8 = 5 then s.setPhase 0 else s

/-- The recovery that a partition's job waits in ends with the job. -/
def closeRecOf (s : State) (p : Nat) : State :=
  if bits (s.record 12) 31 28 = 3 ∧ s.partOf (bits (s.record 12) 19 12) ≠ p then s else s.closeRec

/-- A running job ends in DONE or FAILED: its step is abandoned and its contexts stop. -/
def endJob (s : State) (p k : Nat) (st : Status) : State :=
  (((((s.abandonPart p).clearStepMarks p).closeRecOf p).dropJobRec p).setJobState p k).secondCompletion p st

/-! Submission and the plan (R378 to R381, R387). -/

/-- Flows to a job's other members open: nothing is sent or expected yet, and no incarnation is recorded (R357). -/
def openFlows (s : State) (members : List Nat) : State := s.modFab fun f => { f with
  flows := f.flows.filter fun x => keyDev x.1 == s.devId || !members.contains (keyDev x.1) }

/-- Does the device run an image that requires an architecture major and a lowest minor (R229)? -/
def versionOk (s : State) (v : Nat × Nat) : Bool :=
  v.1 == s.fld .ARCH_VERSION 0 15 8 && decide (v.2 ≤ s.fld .ARCH_VERSION 0 7 0)

/-- JOB_SUBMIT: the checks of R378 in order, then PLACING; a second job of several members fails (R392). `ver` is the major and the
lowest minor that the image records, `wg` the reductions among its split reductions that are weight gradients. -/
def jobSubmit (s : State) (ring fn : Nat) (e : List Byte) (ver : Nat × Nat) (wg : List Nat) : State :=
  let a := (entryW e 2).toNat + bits (entryW e 3) 15 0 * 2 ^ 32
  let n := (entryW e 4).toNat
  if s.jobState fn ≠ 0 ∨ !s.inPartHbm fn a n then s.completePlain ring e .faultAddress
  else
    let second := decide (0 < s.jd a 28 4) && (List.range 8).any fun p => s.jobState p != 0 && match (s.part p).job with
      | some j => decide (0 < j.pm1)
      | none => false
    let bad : Option Status :=
      if !s.jdForm a || !s.versionOk ver then some .versionMismatch
      else if !s.jdDigestOk a then some .authFail
      else if !s.jdContentOk a wg || second then some .faultAddress
      else none
    let job := s.jdJob a ring (entryTag e) (entryIrq e)
    let s := (s.modPart fn fun x => { Part.reset with job := some job, sync := x.sync }).modRing ring fun q => { q with due := q.due + 1 }
    match bad with
    | some st => (s.setJobState fn 9).firstCompletion fn st (0, 0)
    | none => (s.openFlows job.members).setJobState fn 2

/-- The Placement Report's bytes (R387). -/
def reportBytes (j : Job) (x : Place) (st : Status) : List Byte :=
  natLe 1 1 ++ natLe 1 st.num ++ natLe 2 0 ++ natLe 4 x.records.length ++ natLe 4 j.id.toNat ++ natLe 4 x.rank
    ++ natLe 8 x.digest.toNat ++ natLe 8 0
    ++ x.records.flatMap fun r => natLe 4 r.1.toNat ++ natLe 4 r.2.1.toNat ++ natLe 4 r.2.2.1.toNat ++ natLe 4 r.2.2.2.toNat

/-- Moasozil writes the Placement Report; its address and length. -/
def writeReport (s : State) (p : Nat) (x : Place) (st : Status) : State × (Nat × Nat) :=
  match (s.part p).job with
  | none => (s, (0, 0))
  | some j =>
    let bs := reportBytes j x st
    (s.store x.report bs, (x.report, bs.length))

/-- Each Placement Engine computes the plan, orders 1 to 7: one that does not fit fails the job, and so does a failed pin under
STRICT (R379, R380, R382, R388). -/
def planCompute (s : State) (p : Nat) (f : PlanFacts) : State :=
  match (s.part p).job with
  | none => s
  | some j =>
    if s.jobState p ≠ 2 then s
    else match s.place p j f with
      | .placed pl x => s.modPart p fun y => { y with plan := some pl, place := x }
      | .failed records =>
        let x : Place := { Place.reset with rank := (s.planMembers p).idxOf s.devId, report := f.report, records := records }
        let r := s.writeReport p x .faultAddress
        (r.1.setJobState p 9).firstCompletion p .faultAddress r.2
      | .waits => s

/-- Narrow weight copies of every plan in force (R20). -/
def refreshWcopies (s : State) : State :=
  { s with wcopies := s.parts.flatMap fun x => match x.2.plan with
      | some pl => pl.wcopies
      | none => [] }

/-- A register write by the acting primary Masthead. -/
def moasozil (s : State) (o : Nat) (v : Word) : State := s.barWrite (.masthead (Fin.ofNat 4 s.primary)) o v

/-- A norm watch entry as the image gives it, zero fields at their defaults (R187). -/
def normEntry (ws : List Word) : List Word :=
  let w := ws.getD 1 0
  let d := fun (w : Word) (hi lo v : Nat) => if bits w hi lo = 0 then setBits w hi lo v else w
  [ws.getD 0 0, d (d (d (d w 29 27 4) 23 16 16) 15 8 0x60) 7 0 0xA0] ++ (List.range 4).map fun k => ws.getD (k + 2) 0

def loadNorm (s : State) (e : Nat) (ws : List Word) : State :=
  let nw := ((normEntry ws).zipIdx).foldl (fun m x => SMap.set 0 m (8 * e + x.2) x.1) s.nw
  let ld := ((normEntry ws).zipIdx).foldl (fun m x => SMap.set 0 m (8 * e + x.2) x.1) s.nwLoaded
  { s with nw := nw, nwLoaded := ld, nwSeen := s.nwSeen.filter fun k => k != e }

/-- One optimizer parameter block as Moasozil writes it at job start (R212). -/
def paramBlock (j : Job) (wd : Word) : List Byte :=
  let ls := enc32 (.fin false 1 (0 - (j.exp0 : Int)))
  let one : Word := 0x3F800000#32
  let h := fun k => j.hyper.getD k 0
  ([0, one, one, 0, 0, ls, one, h 0, h 1, h 2, h 3, h 4, 0, wd, h 5, 0] : List Word).flatMap fun w => natLe 4 w.toNat

/-- Word 21 of a Reef entry as Moasozil loads it: `FILL` 0 and `CAL` 1 (R64). -/
def loadedReef (k : Nat) (w : Word) : Word := if k = 21 then setBits (setBit w 29) 19 15 0 else w

/-- Section 8 becomes the Job Member Table, unless the device has another job of several members (R362, R376). -/
def loadMembers (s : State) (p : Nat) (j : Job) : State :=
  if j.pm1 = 0 ∧ (List.range 8).any fun k => k != p && match (s.part k).job with
    | some i => i.pm1 != 0
    | none => false
  then s
  else ((s.wr .FAB_MEMBERS_LO 0 (BitVec.ofNat 32 j.memTab)).wr .FAB_MEMBERS_HI 0 (BitVec.ofNat 32 (j.memTab / 2 ^ 32))).wr
    .FAB_MEMBERS_N 0 (BitVec.ofNat 32 j.pm1)

/-- Address of an entry of a die's Collective Table (R364). -/
def colAt (s : State) (d cid : Nat) : Nat := s.fld .COL_TABLE_LO d 31 0 + s.fld .COL_TABLE_HI d 15 0 * 2 ^ 32 + 32 * cid

/-- Word 0 of a Collective Table entry with what REDUCTIONS gives its split reduction (R364, R376). -/
def redWord (w : Word) (r : Word) : Word :=
  setBits (setBits (setBits (setBits (setBits w 27 26 (bits r 1 0)) 23 21 (bits r 9 7)) 20 19 (bits r 11 10)) 18 14 (bits r 6 2)) 13 13
    (bits r 12 12)

/-- A plan's Collective Table entry is written (R364, R376, R380). -/
def loadCol (s : State) (j : Job) (x : ColEntry) : State :=
  let w0 := x.words.getD 0 0
  let w0 := match x.red with
    | some k => redWord w0 (j.reds.getD k 0)
    | none => w0
  s.store (s.colAt x.die.val x.cid.val) ((w0 :: (List.range 7).map fun k => x.words.getD (k + 1) 0).flatMap fun w => natLe 4 w.toNat)

/-- The descriptor of the learning-rate table: an FP32 LINE tile of one row in device memory (R212, R376; log entry 170). -/
def lrtDesc (j : Job) : Desc :=
  BitVec.ofNat 256 (j.lrt.1 + 2 ^ 63 + 2 * 2 ^ 59 + j.lrt.2 * 2 ^ 96 + 2 ^ 112 + 4 * j.lrt.2 * 2 ^ 136 + 5 * 2 ^ 220)

/-- Image, tables and registers of a plan are loaded (R64, R78, R148, R187, R242, R362, R377, R383 to R385). -/
def loadPlan (s : State) (p : Nat) (j : Job) (pl : Plan) : State :=
  let s := s.loadMembers p j
  let s := pl.bytes.foldl (fun s x => s.store x.1 x.2) s
  let s := pl.code.foldl (fun s x => s.modChn x.1.val fun h => { h with imA := h.imA.wrN 0 x.2, active := false, armed := false }) s
  let s := pl.banks.foldl (fun s x => s.modCluster x.1.val fun c => { c with banks := x.2 }) s
  let s := pl.reef.foldl (fun s x => (x.2.2.zipIdx).foldl (fun s w => s.setReefW x.1.val x.2.1 w.2 (loadedReef w.2 w.1)) s) s
  let s := pl.flags.foldl (fun s x => s.setFlagVal x.1.val false x.2.1 x.2.2) s
  let s := pl.dflags.foldl (fun s x => s.setFlagVal (8 * x.1.val) true x.2.1 x.2.2) s
  let s := pl.groups.foldl (fun s x => s.modCluster x.1.val fun c => { c with regs := SMap.set 0 c.regs x.2.1 x.2.2 }) s
  let s := pl.dgroups.foldl (fun s x => s.modDie x.1.val fun d => { d with dregs := SMap.set 0 d.dregs x.2.1 x.2.2 }) s
  let s := pl.norms.foldl (fun s x => s.loadNorm x.1 x.2) s
  let s := pl.regs.foldl (fun s x => s.moasozil x.1 x.2) s
  let s := pl.cols.foldl (fun s x => s.loadCol j x) s
  let s := pl.lrts.foldl (fun s x => s.setDesc x.1.val x.2 (lrtDesc j)) s
  (s.partClusters p).foldl (fun s c =>
    let s := ((s.wr .CVT_LS_CTRL c (Reg.write .CVT_LS_CTRL (s.rd .CVT_LS_CTRL c) j.lsCtrl)).wr .CVT_REEF_CTRL c
      (Reg.write .CVT_REEF_CTRL (s.rd .CVT_REEF_CTRL c) j.reefCtrl)).wr .CVT_LOSS_SCALE c (BitVec.ofNat 32 j.exp0)
    (List.range 8).foldl (fun s i => s.wr .VEC_MODE (8 * c + i) (Reg.write .VEC_MODE (s.rd .VEC_MODE (8 * c + i)) j.vecMode)) s) s

/-- A 64-bit value as U32 words, low word first, and the same of its complement. -/
def voteWords (d : DWord) : List Word := [d.setWidth 32, (d >>> 32).setWidth 32, (~~~d).setWidth 32, (~~~d >>> 32).setWidth 32]

/-- The MAX collective over the pairs (d, NOT d) of R381 gives each member its own pair back: the values agree. -/
def maxAgrees (d : DWord) (others : List DWord) : Bool :=
  others.foldl (fun a e => List.zipWith (fun x y : Word => if x.toNat < y.toNat then y else x) a (voteWords e)) (voteWords d) == voteWords d

/-- The members compare their plans' digests, `others` being the other members': the job is loaded without the members that were
lost in PLACING, or fails with the mismatch reported (R379, R381, R387). -/
def planAgreement (s : State) (p : Nat) (others : List DWord) : State :=
  match (s.part p).job, (s.part p).plan with
  | some j, some pl =>
    if s.jobState p ≠ 2 then s
    else if !maxAgrees (s.part p).place.digest others then
      ((s.setFlag .PLC_STATUS p 26).setJobState p 9).firstCompletion p .versionMismatch (0, 0)
    else
      let s := (s.loadPlan p j pl).refreshWcopies
      let left := s.planMembers p
      let s := (s.wr .PLC_STEP p (if j.resume then j.epoch else j.start)).modPart p fun x => { x with
        pages := pl.pages, job := some { j with members := left }, lost := [] }
      let r := s.writeReport p (s.part p).place .ok
      (r.1.setJobState p 3).firstCompletion p .ok r.2
  | _, _ => s

/-! Start (R379, R385, R427, R428; 07 R189; 14 R386). -/

/-- One narrow copy by a conversion of an update pass, whose Base Reef calibrates (R88, R385). -/
def writeNarrow (s : State) (x : Sys2Proof.Narrow) : State :=
  let core := x.core.val
  if Tile.empty x.dst then s
  else if Tile.grouped x.dst then
    let (s, b) := s.conversionBase core x.src x.dst
    let r := convGrouped s.mem core x.src x.dst b (fun _ => false)
    let t := (s.commitMem r.1 (Tile.physRanges core x.dst)).1
    (t.writeBase core x.idx b).postReef core 3 (Tile.reef x.dst) r.2
  else (s.commitMem (convWide s.mem core x.src x.dst) (Tile.physRanges core x.dst)).1

/-- Input buffers of a partition's job, as the plan gives them: the addresses by parity, and the length. -/
def inputOf (s : State) (p : Nat) : Option (Nat × Nat × Nat) := (s.part p).place.input

/-- The input buffer of a step is complete, or the device has none (R24, R386). -/
def inputReady (s : State) (p : Nat) (step : Word) : Bool :=
  match s.inputOf p with
  | none => true
  | some _ => (if bit step 0 then (s.part p).buf1 else (s.part p).buf0) == some step

/-- The first step waits for its input buffer (R24). -/
def holdFirst (s : State) (p : Nat) : State :=
  s.modPart p fun x => { x with inputHold := !s.inputReady p (s.rd .PLC_STEP p) }

/-- A fresh start: narrow copies, parameter blocks, and the first epoch, after whose commit the first step begins; the
record of epochs holds none of this job. The INIT areas of frozen tensors are freed; a trained tensor's becomes its master weight (R385,
R212, R428, R434). -/
def startFresh (s : State) (p : Nat) (j : Job) (pl : Plan) : State :=
  let s := pl.narrow.foldl (fun s x => s.writeNarrow x) s
  let s := pl.params.foldl (fun s x => s.store x.1 (paramBlock j (j.decay x.2))) s
  let s := ((s.setEpochReg 8 noEpoch).setEpochReg 9 noEpoch).setEpochReg 10 noEpoch
  let frozen := fun (t : Word) => j.table.any fun r => r.tid == t && r.frozen
  let s := s.modPart p fun x => { x with place := { x.place with inits := x.place.inits.filter fun y => !frozen y.1 } }
  let s := (s.modPart p fun x => { x with armed := true, skips := 0, firstEpoch := true, constDue := true, group := s.fld .RES_SNAP_CTRL 0 23 20 }).setJobState p 4
  ((s.startEpoch p j.start).holdFirst p).writeJobRec p

/-- A start with RESUME: the epoch comes back from the slot that holds it (R375, R379, R438). -/
def startResume (s : State) (p : Nat) (j : Job) : State :=
  let s := s.toEpoch p j.epoch none
  let s := (s.modPart p fun x => { x with armed := true, group := s.fld .RES_SNAP_CTRL 0 23 20 }).setJobState p 4
  ((s.startChanters p).holdFirst p).writeJobRec p

/-- JOB_START: the host's start request. It waits while another job's epoch is in progress. -/
def jobStart (s : State) (ring fn : Nat) (e : List Byte) : State :=
  match (s.part fn).job, (s.part fn).plan with
  | some j, some pl =>
    if s.jobState fn ≠ 3 ∨ entryW e 2 ≠ j.id then s.completePlain ring e .faultAddress
    else if j.resume then
      if s.record 11 = j.id ∧ j.epoch ≠ noEpoch ∧ (s.record 8 = j.epoch ∨ s.record 9 = j.epoch) then
        (s.startResume fn j).completePlain ring e .ok
      else s.completePlain ring e .faultAddress
    else (s.startFresh fn j pl).completePlain ring e .ok
  | _, _ => s.completePlain ring e .faultAddress

/-! Stop, abort, release (R379, R411). -/

def jobStop (s : State) (ring fn : Nat) (e : List Byte) : State :=
  match (s.part fn).job with
  | some j =>
    if s.jobState fn ≠ 4 ∨ entryW e 2 ≠ j.id then s.completePlain ring e .faultAddress
    else (s.setJobState fn 7).completePlain ring e .ok
  | none => s.completePlain ring e .faultAddress

/-- The step that the buffer of a parity serves next (R386): the step that waits for its input, or the next one. -/
def servedStep (s : State) (p par : Nat) : Word :=
  let t := s.rd .PLC_STEP p
  let now := s.jobState p == 3 || (s.part p).inputHold || (s.part p).firstEpoch
  if decide (bit t 0 = decide (par = 1)) && now then t else if bit t 0 = decide (par = 1) then t + 2 else t + 1

/-- An INPUT window closes: its buffer is judged complete, or short (R386). -/
def closeInput (s : State) (fn : Nat) (x : PWin) (par : Nat) : State × Status :=
  let step := s.mem.rd32 x.base
  if x.pos = x.len ∧ !x.overrun ∧ !x.poison ∧ !x.refused ∧ step = s.servedStep fn par then
    (s.modPart fn fun y => if par = 1 then { y with buf1 := some step } else { y with buf0 := some step }, .ok)
  else (s.setFlag .PLC_STATUS fn 31, .faultAddress)

/-- Close the INPUT windows of a function (R386, R411, R415). -/
def closeInputs (s : State) (fn : Nat) : State :=
  (List.range (s.fnPorts fn).2).foldl (fun s i =>
    let k := (s.fnPorts fn).1 + i
    match s.win k with
    | some x => match x.input with
      | some par => ((s.setWin k none).closeInput fn x par).1
      | none => s
    | none => s) s

/-- An abort request in any state but IDLE: the step in progress is abandoned. -/
def abortJob (s : State) (p : Nat) : State :=
  let k := s.jobState p
  let hold := k == 5 || k == 6
  let s := s.closeInputs p
  let s := if k = 8 ∨ k = 9 then s.setJobState p 8
    else if k ≤ 2 then (s.setJobState p 8).firstCompletion p .ok (0, 0)
    else s.endJob p 8 .ok
  if hold then s.eventVector p else s

def jobAbort (s : State) (ring fn : Nat) (e : List Byte) : State :=
  match (s.part fn).job with
  | some j =>
    if s.jobState fn = 0 ∨ entryW e 2 ≠ j.id then s.completePlain ring e .faultAddress
    else (s.abortJob fn).completePlain ring e .ok
  | none => s.completePlain ring e .faultAddress

/-- The default split of the Scratchpad banks applies again (R15). -/
def defaultBanks (s : State) (p : Nat) : State :=
  (s.partClusters p).foldl (fun s c => s.modCluster c fun x => { x with banks := Cluster.reset.banks }) s

/-- A release request in DONE or FAILED: contexts are reset, an epoch in progress of the job ends, and the partition is
IDLE. -/
def releaseJob (s : State) (p : Nat) : State :=
  let s := s.closeInputs p
  let s := if s.epochState ≠ 0 ∧ s.snap.part = p then s.discardEpoch .ok else s
  let s := ((s.abandonPart p).clearStepMarks p).defaultBanks p
  ((s.modPart p fun x => { Part.reset with sync := x.sync }).refreshWcopies).setJobState p 0

def jobRelease (s : State) (ring fn : Nat) (e : List Byte) : State :=
  match (s.part fn).job with
  | some _ =>
    if s.jobState fn ≠ 8 ∧ s.jobState fn ≠ 9 then s.completePlain ring e .faultAddress
    else (s.releaseJob fn).completePlain ring e .ok
  | none => s.completePlain ring e .faultAddress

/-! Data Port windows and host windows (R412, R415, R416). -/

/-- Does a byte range meet a Halyard Table Region (R412)? -/
def meetsTables (s : State) (a n : Nat) : Bool := s.rawHits [(a, n)] != []

/-- The window that a PORT_OPEN asks for, when R412 lets it open. -/
def portAsks (s : State) (fn k : Nat) (e : List Byte) : Option PWin :=
  let w := entryW e 2
  let read := bit w 8
  if (s.win k).isSome ∨ (read ∧ !s.feature fn 4) then none
  else if bits w 10 9 = 0 then
    let a := (entryW e 3).toNat + bits (entryW e 4) 15 0 * 2 ^ 32
    let n := (entryW e 5).toNat
    if n = 0 ∨ !s.inPartHbm fn a n ∨ s.meetsTables a n then none else some ⟨read, none, a, n, 0, false, false, false⟩
  else
    match (s.part fn).job, s.inputOf fn with
    | some j, some (b0, b1, n) =>
      let k := s.jobState fn
      if entryW e 3 ≠ j.id ∨ read ∨ !(k == 3 || k == 4 || k == 7) then none
      else
        let odd := bit (entryW e 4) 0
        some ⟨false, some odd.toNat, if odd then b1 else b0, n, 0, false, false, false⟩
    | _, _ => none

/-- An input buffer of a parity is written anew: it is incomplete until its window closes (R386). -/
def spoilBuffer (s : State) (p : Nat) (odd : Bool) : State :=
  s.modPart p fun x => if odd then { x with buf1 := none } else { x with buf0 := none }

def portOpen (s : State) (ring fn : Nat) (e : List Byte) : State :=
  match s.localWin fn (bits (entryW e 2) 3 0) with
  | none => s.completePlain ring e .faultAddress
  | some k => match s.portAsks fn k e with
    | none => s.completePlain ring e .faultAddress
    | some x =>
      let s := match x.input with
        | some par => s.spoilBuffer fn (par == 1)
        | none => s
      (s.setWin k (some x)).completeWith ring e .ok (natLe 4 x.len)

/-- PORT_CLOSE: an input buffer is judged complete or short (R386, R415). -/
def portClose (s : State) (ring fn : Nat) (e : List Byte) : State :=
  match s.localWin fn (bits (entryW e 2) 3 0) with
  | none => s.completePlain ring e .faultAddress
  | some k => match s.win k with
    | none => s.completePlain ring e .faultAddress
    | some x =>
      let s := s.setWin k none
      let flags := x.overrun.toNat + 2 * x.poison.toNat
      let done := fun (s : State) (st : Status) => s.completeWith ring e st (natLe 4 x.pos ++ natLe 1 flags)
      match x.input with
      | some par =>
        let r := s.closeInput fn x par
        done r.1 r.2
      | none =>
        if x.poison ∨ x.refused ∨ (x.overrun ∧ !x.dirRead) then done s .faultAddress else done s .ok

/-- HOSTWIN_GRANT (R407, R416). -/
def hostwinGrant (s : State) (ring fn : Nat) (e : List Byte) : State :=
  let w := entryW e 2
  let k := 16 * fn + bits w 3 0
  let base := (entryW e 3).toNat + (entryW e 4).toNat * 2 ^ 32
  let size := (entryW e 5).toNat + (entryW e 6).toNat * 2 ^ 32
  if (SMap.get none s.hostWins k).isSome ∨ base % 4096 ≠ 0 ∨ size % 4096 ≠ 0 ∨ size = 0 ∨ 2 ^ 44 < size then
    s.completePlain ring e .faultAddress
  else
    { s with hostWins := SMap.set none s.hostWins k (some ⟨BitVec.ofNat 64 base, size, bit w 9, bit w 8⟩) }.completePlain
      ring e .ok

/-- HOSTWIN_REVOKE (R416): accesses that had started end, and the window goes. -/
def hostwinRevoke (s : State) (ring fn : Nat) (e : List Byte) : State :=
  let k := 16 * fn + bits (entryW e 2) 3 0
  if (SMap.get none s.hostWins k).isNone then s.completePlain ring e .faultAddress
  else
    let s := s.landStarted k
    { s with hostWins := SMap.set none s.hostWins k none }.completePlain ring e .ok

/-! A function's reset (R419). -/

/-- Registers of a function view return to reset (R420); vectors and views alike. -/
def resetView (s : State) (fn : Nat) : State :=
  let s := [Reg.HIF_DRV_FEATURES, .FN_STATUS, .FN_IRQ, .FN_UNMAPPED_COUNT].foldl (fun s r => s.wr r fn (r.resetAt fn)) s
  let s := (List.range (s.fnRings fn).2).foldl (fun s i =>
    let k := (s.fnRings fn).1 + i
    let s := [Reg.RP_SQ_LO, .RP_SQ_HI, .RP_CQ_LO, .RP_CQ_HI, .RP_SIZE, .RP_CFG, .RP_COAL, .RP_STATUS, .RP_SQ_HEAD, .RP_SQ_TAIL,
      .RP_CQ_HEAD, .RP_CQ_TAIL].foldl (fun s r => s.wr r k (r.resetAt k)) s
    s.modRing k fun _ => RingQ.reset) s
  s.modHif fun h => { h with vecs := h.vecs.filter fun x => x.1 / 256 != fn }

/-- Function Level Reset of a function: its partition's job is aborted and released, and no completion follows. -/
def flr (s : State) (fn : Nat) : State :=
  let s := if s.jobState fn = 0 then s else (s.abortJob fn).releaseJob fn
  let s := (List.range (s.fnPorts fn).2).foldl (fun s i => s.setWin ((s.fnPorts fn).1 + i) none) s
  let s := { s with hostWins := s.hostWins.filter fun x => x.1 / 16 != fn }
  let s := s.resetView fn
  s.modHif fun h => { h with jobComps := h.jobComps.filter fun x => x.1 != fn }

/-- VF Enable is clear: every virtual function as for its reset (R419). -/
def clearVfs (s : State) : State := [1, 2, 3, 4, 5, 6, 7].foldl (fun s fn => s.flr fn) s

end State

end Sys2Proof.Machine
end

