-- ==== Sys2Proof/Machine/Power.lean ====
section
/-!
DEFINITION. The governor, the cooling classes, the brake and the tray's view of the module
(20_module_power_cooling.md R527 to R551).
-/

namespace Sys2Proof.Machine

/-- Class of the strap code: 0 AIR, 1 IMMERSION, 2 LIQUID; the reserved code 0b00 is read as AIR (R529). -/
def strapClass (x : Nat) : Nat := if x = 2 then 1 else if x = 1 then 2 else 0

/-- Measured class of a calibration rise (R529, R530): the mean of the rises of `n` dies, in 0.1 °C, whose sum is `sum`. -/
def measuredClass (sum n : Nat) : Nat := if sum ≤ 90 * n then 2 else if sum ≤ 140 * n then 1 else 0

def classEnvelope (c : Nat) : Nat := if c = 0 then 1300 else if c = 1 then 2300 else 2800
def classDuty (c : Nat) : Nat := if c = 0 then 457 else if c = 1 then 752 else 922
def throttleTemp (c : Nat) : Int := if c = 0 then 95 else if c = 1 then 92 else 98

def pwrDie (d : Nat) : Reg := match d with
  | 0 => .PWR_DIE0
  | 1 => .PWR_DIE1
  | 2 => .PWR_DIE2
  | _ => .PWR_DIE3

/-- A cap in W: 0 sets none, and one below 600 acts as 600 (R531). -/
def capW (x y : Nat) : Nat := if x = 0 then y else min (max x 600) y

namespace State

/-! Limits in force (R529 to R531). -/

/-- The effective class. -/
def effClass (s : State) : Nat :=
  min (min (strapClass (s.fld .PWR_STATUS 0 3 2)) (s.fld .PWR_STATUS 0 5 4)) (s.fld .PWR_CTRL 0 19 18)

/-- The effective envelope in W. -/
def effEnvelope (s : State) : Nat :=
  let e := capW s.chip.trayCap (capW (s.fld .PWR_CTRL 0 31 20) (classEnvelope s.effClass))
  if s.flag .PWR_STATUS 0 10 then min e 600 else e

/-- The effective duty ceiling. -/
def effDuty (s : State) : Nat := min (classDuty s.effClass) (s.fld .PWR_CTRL 0 10 0)

/-- Target clock of a die in 100 MHz (R482, R534). -/
def clkTarget (s : State) (d : Nat) : Nat := min (s.fld .PWR_CTRL 0 17 13) (s.chip.clkCap.getD d 30)

def duty (s : State) (d : Nat) : Nat := s.fld (pwrDie d) 0 10 0
def setDuty (s : State) (d v : Nat) : State := s.setFld (pwrDie d) 0 10 0 v

def gov (s : State) (d : Nat) : Gov := SMap.get Gov.reset s.chip.gov d
def setGov (s : State) (d : Nat) (g : Gov) : State :=
  { s with chip := { s.chip with gov := SMap.set Gov.reset s.chip.gov d g } }

/-- The duty that the limits of a die allow (R533). -/
def dutyLimit (s : State) (d : Nat) : Nat :=
  let g := s.gov d
  let m := min s.effDuty (min g.power g.thermal)
  match s.chip.brake with
  | some b => min m b
  | none => m

/-- Lower at once, raise by at most `rise` (R533). -/
def followDuty (s : State) (d rise : Nat) : State := s.setDuty d (min (s.dutyLimit d) (s.duty d + rise))

/-- `PWR_STATUS.CLASS` shows the effective class. -/
def showClass (s : State) : State := s.setFld .PWR_STATUS 0 7 6 s.effClass

/-! The loops (R533 to R535). -/

/-- One millisecond of a die's loops (R533 to R535): while the mean power stands above the envelope, the power loop's duty is below
the present one (R532; log entry 164). A clock that has not left its target is at it; a step that R534 asks for becomes due. -/
def dieLoop (s : State) (x : Sense) (d : Nat) : State :=
  let g := s.gov d
  let tj := x.tj.getD d 0
  let t := throttleTemp s.effClass
  let asked := x.want.getD d 0x400
  let want := if s.effEnvelope < x.pavg then min asked (s.duty d - 1) else asked
  let hot := if t ≤ tj then true else if tj ≤ t - 3 then false else g.hot
  let down := min g.thermal (s.duty d) - 32
  let thermal := if hot then max 0x100 down else min 0x400 (g.thermal + 8)
  let scorch := if t + 5 ≤ tj then g.scorch + 1 else 0
  let slow := decide (want < 0x100) || (hot && decide (down < 0x100)) || decide (10 ≤ scorch)
  let clk := s.fld (pwrDie d) 0 31 27
  let below := g.below && decide (clk < s.clkTarget d)
  let up := if slow || !below then 0 else g.up + 1
  let clk' := if slow || below then min clk (s.clkTarget d) else s.clkTarget d
  let s := s.setGov d { power := max 0x100 want, thermal := thermal, hot := hot, scorch := scorch, slow := slow, below := below, up := up
                        due := slow || decide (10 ≤ up) }
  let s := (s.setFld (pwrDie d) 0 31 27 clk').setFld (pwrDie d) 0 23 16 (wrapN 8 tj)
  s.followDuty d 640

/-- The 1 ms loop of the governor: sensing, and the loops of every die once it is armed. -/
def governorLoop (s : State) (x : Sense) : State :=
  let s := (s.wr .PWR_IN 0 (BitVec.ofNat 32 (x.vin * 65536 + x.iin % 65536))).setFld .PWR_PAVG 0 31 16 x.pavg
  let s := s.setFld .PWR_PAVG 0 15 0 (max (s.fld .PWR_PAVG 0 15 0) x.peak)
  if !s.chip.armed then
    (List.range 4).foldl (fun s d => s.setFld (pwrDie d) 0 23 16 (wrapN 8 (x.tj.getD d 0))) s
  else
    let s := s.showClass
    let s := (List.range 4).foldl (fun s d => if s.chip.fencedDies.getLsbD d then s else s.dieLoop x d) s
    if (List.range 4).any fun d => decide ((s.gov d).thermal < min (s.gov d).power s.effDuty) then
      (s.countSat .PWR_THR_COUNT 0 1).setFlag .PWR_STATUS 0 31
    else s

/-! Limits that act at once (R532, R534, R536, R527). -/

/-- A 10 µs mean exceeds 3,400 W. -/
def transientLimit (s : State) : State :=
  if !s.chip.armed then s
  else
    let s := (s.countSat .PWR_TRANS_COUNT 0 1).setFlag .PWR_STATUS 0 30
    (List.range 4).foldl (fun s d => s.setDuty d (s.duty d / 2)) s

/-- Power has stayed above the envelope for 10 ms: the duty of each die falls, to `want` or further (R532; log entry 164). -/
def envelopeOverrun (s : State) (want : List Nat) : State :=
  if !s.chip.armed then s
  else (List.range 4).foldl (fun s d =>
    let v := min (s.duty d) (max 0x100 (min (want.getD d 0x100) (s.duty d - 1)))
    (s.setGov d { s.gov d with power := min (s.gov d).power v }).setDuty d v) s

/-- One step of a die's ARRAY clock by 100 MHz, when the governor's loop has made it due: down in one of R534's cases, to at least 1.2 GHz,
and up again towards the target once neither holds. -/
def clockStep (s : State) (d : Nat) (up : Bool) : State :=
  let g := s.gov d
  let clk := s.fld (pwrDie d) 0 31 27
  if !s.chip.armed ∨ !g.due ∨ up = g.slow then s
  else if up then (s.setFld (pwrDie d) 0 31 27 (clk + 1)).setGov d { g with due := false, up := 0, below := decide (clk + 1 < s.clkTarget d) }
  else (if 12 < clk then s.setFld (pwrDie d) 0 31 27 (clk - 1) else s).setGov d { g with due := false, below := true }

def brakeAssert (s : State) : State :=
  if s.chip.brake.isSome then s
  else
    let b := s.fld .PWR_BRAKE 0 10 0
    let s := { s with chip := { s.chip with brake := some b } }
    let s := (s.countSat .PWR_BRAKE_COUNT 0 1).setFlag .PWR_STATUS 0 29
    if s.chip.armed then (List.range 4).foldl (fun s d => s.setDuty d (min (s.duty d) b)) s else s

def brakeRelease (s : State) : State := { s with chip := { s.chip with brake := none } }

/-! Phase 12 of a start (R529, R530, R534). -/

/-- The cooling class is confirmed by the mean of the rises of the dies that started, the governor is armed, and the clocks rise to
target. `RISE` shows the mean rounded down (log entry 163). -/
def armGovernor (s : State) (load : Nat) (rises : List Nat) : State :=
  let dies := (List.range 4).filter fun d => !s.chip.fencedDies.getLsbD d
  let sum := (dies.map fun d => rises.getD d 0).sum
  let n := dies.length
  let strap := s.fld .PWR_STATUS 0 3 2
  let m := measuredClass sum n
  let cool := decide (240 * n < sum)
  let low := decide (m < strapClass strap)
  let w := s.rd .PWR_STATUS 0
  let w := setBits w 10 10 cool.toNat
  let w := setBits w 9 9 (decide (strap = 0)).toNat
  let w := setBits w 8 8 low.toNat
  let s := (s.wr .PWR_STATUS 0 (setBits w 5 4 m)).wr .PWR_CAL 0 (BitVec.ofNat 32 (load * 65536 + sum / n % 65536))
  let s := { s with chip := { s.chip with
    armed := true
    startAlerts := BitVec.ofNat 3 (low.toNat + 2 * (decide (strap = 0)).toNat + 4 * cool.toNat) } }.showClass
  dies.foldl (fun s d => (s.setFld (pwrDie d) 0 31 27 (s.clkTarget d)).followDuty d 0) s

/-! ALERT_N and the tray bus (R541 to R545). -/

/-- Hottest sensor of a die as last read, and of the module as the tray map shows it. -/
def dieTemp (s : State) (d : Nat) : Int := sext 8 (s.fld (pwrDie d) 0 23 16)
def hottest (s : State) : Int := max (max (s.dieTemp 0) (s.dieTemp 1)) (max (s.dieTemp 2) (s.dieTemp 3))

/-- The effective class, or before phase 12 the strap's (R542). -/
def shownClass (s : State) : Nat := if s.chip.armed then s.fld .PWR_STATUS 0 7 6 else strapClass (s.fld .PWR_STATUS 0 3 2)

/-- Causes of ALERT_N that are present (R545): those of the last start until the next, the latched ones, and the live one, against the
class that the tray map shows (log entry 165). -/
def alertCauses (s : State) : Nat :=
  let f := fun b => (s.flag .PWR_STATUS 0 b).toNat
  s.chip.startAlerts.toNat + 8 * f 28 + 16 * (decide (throttleTemp s.shownClass - 5 ≤ s.hottest)).toNat + 32 * f 30

/-- ALERT_N is low. -/
def alertLow (s : State) : Bool :=
  decide (BitVec.ofNat 8 s.alertCauses &&& (s.rd .PWR_ALERT_EN 0).truncate 8 ≠ 0)

/-- `STATE` of the tray map (R542). A power-on start that has not begun shows 0, its reset value. -/
def trayState (s : State) : Nat :=
  if s.chip.therm then 4
  else if bit (SMap.get 0 (s.die 0).stay 0) 23 && s.chip.start == .none then 3
  else match s.chip.start with
    | .held => 0
    | .off => 0
    | .none => if s.flag .HIF_STATUS 0 0 then 2 else 5
    | .ready => if s.chip.power then 0 else 1
    | _ => 1

/-- A byte of the tray map. -/
def trayByte (s : State) (o : Nat) : Byte :=
  let half := fun (v k : Nat) => BitVec.ofNat 8 (v / 256 ^ k)
  let vin := s.fld .PWR_IN 0 31 16
  let iin := s.fld .PWR_IN 0 15 0
  let avg := s.fld .PWR_PAVG 0 31 16
  match o with
  | 0x00 => 1
  | 0x01 => BitVec.ofNat 8 (s.trayState * 32 + s.shownClass * 8)
  | 0x02 => BitVec.ofNat 8 s.chip.hbSeq
  | 0x03 => BitVec.ofNat 8 s.alertCauses
  | 0x04 => half vin 0
  | 0x05 => half vin 1
  | 0x06 => half iin 0
  | 0x07 => half iin 1
  | 0x08 => half avg 0
  | 0x09 => half avg 1
  | 0x0A => BitVec.ofNat 8 (wrapN 8 s.hottest)
  | 0x0C => half s.chip.trayCap 0
  | 0x0D => half s.chip.trayCap 1
  | 0x0F => BitVec.ofNat 8 s.chip.mrmLatch.toNat
  | o => if 0x10 ≤ o ∧ o < 0x30 then s.chip.serial.getD (o - 0x10) 0 else 0

/-- The request for Minimal Recovery Mode is latched or cleared (R544). -/
def setMrmLatch (s : State) (v : Bool) : State := { s with chip := { s.chip with mrmLatch := v } }

/-- A byte written through the tray map (R542, R545). -/
def trayWrite (s : State) (o : Nat) (b : Byte) : State :=
  let cap := s.chip.trayCap
  match o with
  | 0x03 =>
    let s := if bit b 3 then s.clrFlag .PWR_STATUS 0 28 else s
    if bit b 5 then s.clrFlag .PWR_STATUS 0 30 else s
  | 0x0C => { s with chip := { s.chip with trayCap := cap / 256 * 256 + b.toNat } }
  | 0x0D => { s with chip := { s.chip with trayCap := cap % 256 + b.toNat * 256 } }
  | 0x0E => if b = 1 then s.setMrmLatch true else if b = 2 then s.setMrmLatch false else s
  | _ => s

end State

end Sys2Proof.Machine
end

