-- ==== Sys2Proof/Machine/Ed448.lean ====
section
/-!
DEFINITION. Ed448 in its pure form with a context string: public keys, signatures and their check (19 R496, R497). The
curve is that of RFC 8032, which the spec names; PRESUMED (assumption log 60).
-/

namespace Sys2Proof.Machine

/-- The field's prime. -/
def edP : Nat := 2 ^ 448 - 2 ^ 224 - 1
/-- Order of the base point. -/
def edL : Nat := 2 ^ 446 - 13818066809895115352007386748515426880336692474882178609894547503885
/-- The curve's constant d, −39081. -/
def edD : Nat := edP - 39081

/-- A point in projective coordinates. -/
structure EdPoint where
  x : Nat
  y : Nat
  z : Nat
  deriving DecidableEq, Repr

def EdPoint.zero : EdPoint := ⟨0, 1, 1⟩

def EdPoint.base : EdPoint :=
  ⟨224580040295924300187604334099896036246789641632564134246125461686950415467406032909029192869357953282578032075146446173674602635247710,
   298819210078481492676017930443930673437544040154080242095928241372331506189835876003536878655418784733982303233503462500531545062832660, 1⟩

/-- a − b in the field. -/
def edSub (a b : Nat) : Nat := (a + (edP - b % edP)) % edP

def EdPoint.add (s t : EdPoint) : EdPoint :=
  let a := s.z * t.z % edP
  let b := a * a % edP
  let c := s.x * t.x % edP
  let d := s.y * t.y % edP
  let e := edD * (c * d % edP) % edP
  let f := edSub b e
  let g := (b + e) % edP
  let h := (s.x + s.y) * (t.x + t.y) % edP
  ⟨a * f % edP * edSub (edSub h c) d % edP, a * g % edP * edSub d c % edP, f * g % edP⟩

/-- n times a point, over the `k` low bits of n. -/
def EdPoint.mul : Nat → Nat → EdPoint → EdPoint
  | 0, _, _ => .zero
  | k + 1, n, p =>
    let r := EdPoint.mul k (n / 2) (p.add p)
    if n % 2 = 1 then r.add p else r

/-- a to the power n in the field, over the `k` low bits of n. -/
def edPow : Nat → Nat → Nat → Nat
  | 0, _, _ => 1
  | k + 1, a, n =>
    let r := edPow k (a * a % edP) (n / 2)
    if n % 2 = 1 then r * a % edP else r

/-- The 57-byte encoding of a point. -/
def EdPoint.enc (p : EdPoint) : List Byte :=
  let z := edPow 448 p.z (edP - 2)
  natLe 56 (p.y * z % edP) ++ [BitVec.ofNat 8 (p.x * z % edP % 2 * 128)]

/-- The point of an encoding, if it is one. -/
def edDecode (bs : List Byte) : Option EdPoint :=
  let n := leNat bs
  let y := n % 2 ^ 455
  let sign := n / 2 ^ 455
  if bs.length ≠ 57 ∨ edP ≤ y then none
  else
    let u := edSub (y * y % edP) 1
    let v := edSub (edD * (y * y % edP) % edP) 1
    let u3v := u * u % edP * u % edP * v % edP
    let u5v3 := u3v * u % edP * u % edP * v % edP * v % edP
    let x := u3v * edPow 448 u5v3 ((edP - 3) / 4) % edP
    if v * (x * x % edP) % edP ≠ u then none
    else if x = 0 ∧ sign = 1 then none
    else some ⟨if x % 2 = sign then x else edP - x, y, 1⟩

/-- The prefix of every digest of a signature. -/
def edDom (ctx : List Byte) : List Byte :=
  [0x53#8, 0x69#8, 0x67#8, 0x45#8, 0x64#8, 0x34#8, 0x34#8, 0x38#8, 0#8, BitVec.ofNat 8 ctx.length] ++ ctx

/-- A digest as a number modulo the order. -/
def edHash (bs : List Byte) : Nat := leNat (shake256 114 bs) % edL

/-- Scalar and prefix of a private key. -/
def edSecret (sk : List Byte) : Nat × List Byte :=
  let h := shake256 114 sk
  (leNat (h.take 56) % 2 ^ 447 / 4 * 4 + 2 ^ 447, h.drop 57)

/-- The public key of a private key. -/
def edPub (sk : List Byte) : List Byte := (EdPoint.mul 448 (edSecret sk).1 .base).enc

/-- A signature of a message. -/
def edSign (sk ctx msg : List Byte) : List Byte :=
  let (a, pre) := edSecret sk
  let r := edHash (edDom ctx ++ pre ++ msg)
  let rp := (EdPoint.mul 446 r .base).enc
  let k := edHash (edDom ctx ++ rp ++ edPub sk ++ msg)
  rp ++ natLe 57 ((r + k * a) % edL)

/-- Is a signature by a public key valid? -/
def edVerify (pk ctx msg sig : List Byte) : Bool :=
  let s := leNat (sig.drop 57)
  match edDecode pk, edDecode (sig.take 57) with
  | some a, some r =>
    let k := edHash (edDom ctx ++ sig.take 57 ++ pk ++ msg)
    let four := fun p : EdPoint => (p.add p).add (p.add p)
    sig.length == 114 && decide (s < edL)
      && (four (EdPoint.mul 446 s .base)).enc == (four (r.add (EdPoint.mul 446 k a))).enc
  | _, _ => false

end Sys2Proof.Machine
end

