-- ==== Sys2Proof/Machine/Secure.lean ====
section
/-!
DEFINITION. Flash, the Option Block, fuses, life cycle, firmware images and keys (18_reset_boot.md R479 to R482;
19_security_lifecycle.md R496 to R514).
-/

namespace Sys2Proof.Machine

/-- ASCII bytes. -/
def ascii (x : String) : List Byte := x.toList.map fun c => BitVec.ofNat 8 c.toNat

/-- `n` bytes at offset `o`. -/
def sliceB (b : List Byte) (o n : Nat) : List Byte := (b.drop o).take n
/-- A little-endian field of `n` bytes at offset `o`. -/
def leB (b : List Byte) (o n : Nat) : Nat := leNat (sliceB b o n)
/-- Bytes `lo` to `hi` are 0. -/
def zeroB (b : List Byte) (lo hi : Nat) : Bool := leB b lo (hi + 1 - lo) == 0
/-- a is newer than b (R480). -/
def newerSeq (a b : Nat) : Bool :=
  let d := wrapN 32 ((a : Int) - b)
  decide (d ≠ 0) && decide (d < 2 ^ 31)

/-! The Option Block (R479, R480). -/

/-- One copy's 512 bytes are valid. -/
def obValid (b : List Byte) : Bool :=
  let cap := leB b 36 2
  leB b 0 4 == 0x424F4847 && leB b 4 1 == 1 && zeroB b 5 7 && decide (leB b 12 4 < 4) && leB b 20 1 % 2 == 0
  && decide (leB b 20 1 < 16) && zeroB b 21 23 && decide (leB b 24 4 < 2 ^ 18) && decide (leB b 28 1 < 2) && zeroB b 29 31
  && (List.range 4).all (fun d => leB b (32 + d) 1 == 0 || (decide (12 ≤ leB b (32 + d) 1) && decide (leB b (32 + d) 1 ≤ 30)))
  && decide (1 ≤ cap % 16) && decide (cap % 16 ≤ 6) && [1, 2, 4, 8].contains (cap / 16 % 16) && decide (cap < 2 ^ 12)
  && zeroB b 38 63 && zeroB b 96 447 && shake256 64 (b.take 448) == sliceB b 448 64

/-- A block whose digest is formed again. -/
def obSealed (b : List Byte) : List Byte := b.take 448 ++ shake256 64 (b.take 448)

/-! Images (R503 to R505). -/

def imgSvn (h : List Byte) : Nat := leB h 8 4
def imgBodyLen (h : List Byte) : Nat := leB h 12 4
def imgOsig (h : List Byte) : Bool := leB h 16 2 % 2 == 1
def slotFlash (b : Bool) : Nat := if b then 0x200000 else 0x100000

namespace State

def modChip (s : State) (f : Chip → Chip) : State := { s with chip := f s.chip }

/-- Bytes of module flash. -/
def flashRd (s : State) (a n : Nat) : List Byte := (s.chip.flash.rdN a n).map fun b => ~~~b
def flashWr (s : State) (a : Nat) (bs : List Byte) : State :=
  s.modChip fun c => { c with flash := c.flash.wrN a (bs.map fun b => ~~~b) }

/-- The copies' bytes, and the copy in use (R480). -/
def obCopy (s : State) (second : Bool) : List Byte := s.flashRd (if second then 0x10000 else 0) 512
def obInUse (s : State) : Option Bool :=
  let a := s.obCopy false
  let b := s.obCopy true
  if obValid a && obValid b then some (newerSeq (leB b 8 4) (leB a 8 4))
  else if obValid a then some false
  else if obValid b then some true
  else none

/-- The copy that the last start used (R480, R487): none when it found no valid one. -/
def obUsed (s : State) : Option Bool := if bit (s.stay 0 0) 19 then none else some (bit (s.stay 0 0) 21)

/-- Write an Option Block by R481: into the copy that the last start did not use, its `SEQ` one above that of the copy it used.
Where it used none, copy 0 takes it. -/
def obWriteBlock (s : State) (b : List Byte) : State :=
  let seq := match s.obUsed with
    | some c => leB (s.obCopy c) 8 4 + 1
    | none => leB b 8 4
  let target := match s.obUsed with
    | some c => !c
    | none => false
  s.flashWr (if target then 0x10000 else 0) (obSealed (b.take 8 ++ natLe 4 seq ++ b.drop 12))

/-- A fence is recorded in the Option Block (R451, R481), beside what the newest valid copy holds. -/
def recordFence (s : State) (clusters : Word) (dies : Nat) : State :=
  match s.obInUse with
  | none => s
  | some c =>
    let b := s.obCopy c
    let f := (BitVec.ofNat 32 (leB b 16 4) ||| clusters).toNat
    let d := (BitVec.ofNat 8 (leB b 20 1) ||| BitVec.ofNat 8 dies).toNat
    s.obWriteBlock (b.take 16 ++ natLe 4 f ++ natLe 1 d ++ b.drop 21)

/-! Fuses (R498, R512). -/

def fuses (s : State) (k : Nat) : BitVec 3 := SMap.get 0 s.chip.otp.fuse k

/-- A position is set when at least two of its three fuses are burned. -/
def fuseSet (s : State) (k : Nat) : Bool :=
  let f := s.fuses k
  decide (2 ≤ (bit f 0).toNat + (bit f 1).toNat + (bit f 2).toNat)

/-- Burn every fuse of a position. -/
def burn (s : State) (k : Nat) : State :=
  s.modChip fun c => { c with otp := { c.otp with fuse := SMap.set 0 c.otp.fuse k 7#3 } }

def keyHash (s : State) (k : Nat) : BitVec 512 := SMap.get 0 s.chip.otp.hash k

/-- The live owner slot: set, not revoked, and with a hash (R512); a hash of zeros is not complete (log entry 166). -/
def ownerSlot (s : State) : Option Nat :=
  (List.range 4).find? fun i => s.fuseSet (2 + i) && !s.fuseSet (6 + i) && s.keyHash (2 + i) != 0

/-- The lowest free owner slot: never used (R513). -/
def freeOwner (s : State) : Option Nat := (List.range 4).find? fun i => !s.fuseSet (2 + i) && s.keyHash (2 + i) == 0

/-- Life-cycle state code (R512). -/
def lifeCycle (s : State) : Nat :=
  if s.fuseSet 12 then 4 else if s.fuseSet 11 then 3 else if !s.fuseSet 10 then 0 else if s.ownerSlot.isSome then 2 else 1

/-- The anti-rollback counter. -/
def svnCtr (s : State) : Nat := ((List.range 128).filter fun i => s.fuseSet (16 + i)).length

/-- The live owner's key hash, or 64 zero bytes (R500). -/
def ownerHash (s : State) : List Byte := match s.ownerSlot with
  | some i => natLe 64 (s.keyHash (2 + i)).toNat
  | none => List.replicate 64 0

/-- A key's hash is that of an unrevoked `VKEY0` or `VKEY1`. -/
def vkeyKnown (s : State) (key : List Byte) : Bool :=
  let h := BitVec.ofNat 512 (leNat (shake256 64 key))
  (s.keyHash 0 == h && !s.fuseSet 0) || (s.keyHash 1 == h && !s.fuseSet 1)

def ownerKeyKnown (s : State) (key : List Byte) : Bool := match s.ownerSlot with
  | some i => s.keyHash (2 + i) == BitVec.ofNat 512 (leNat (shake256 64 key))
  | none => false

/-! Verification (R505). -/

/-- The first check that an image fails; `units` is its length as given, in 16-byte units, when one is given. -/
def imageFails (s : State) (b : List Byte) (units : Option Nat) : Option Status :=
  let n := imgBodyLen b
  let reserved := zeroB b 20 31 && zeroB b 153 159 && zeroB b 217 255 && zeroB b 370 383 && zeroB b 498 511
  if leB b 0 4 ≠ 0x57464847 ∨ leB b 4 1 ≠ 1 ∨ leB b 5 1 ≠ 1 ∨ !reserved then some .versionMismatch
  else if leB b 6 1 ≠ s.fld .ARCH_VERSION 0 15 8 ∨ s.fld .ARCH_VERSION 0 7 0 < leB b 7 1 then some .versionMismatch
  else if n % 16 ≠ 0 ∨ n < 16 ∨ 786432 < n ∨ (units.any fun u => u != 32 + n / 16) then some .faultAddress
  else if imgSvn b < s.svnCtr then some .authFail
  else if !s.vkeyKnown (sliceB b 96 57) || !edVerify (sliceB b 96 57) (ascii "GH-FW") (b.take 256) (sliceB b 256 114) then
    some .authFail
  else if s.lifeCycle = 2 ∧ !(imgOsig b && s.ownerKeyKnown (sliceB b 160 57)
      && edVerify (sliceB b 160 57) (ascii "GH-FW") (b.take 256) (sliceB b 384 114)) then some .authFail
  else if sliceB b 32 64 ≠ shake256 64 (sliceB b 512 n) then some .authFail
  else none

/-! Slots (R504, R506, R508). -/

def slotHeader (s : State) (b : Bool) : List Byte := s.flashRd (slotFlash b) 512

/-- `ORDER` of a slot's valid record. -/
def slotOrder (s : State) (b : Bool) : Option Nat :=
  let r := s.flashRd (slotFlash b + 0xFFF00) 256
  if shake256 64 (r.take 8 ++ s.slotHeader b) = sliceB r 8 64 then some (leB r 4 4) else none

/-- The image of a slot: its header, and as many body bytes as the header names, at most what the slot holds. -/
def slotImage (s : State) (b : Bool) : List Byte :=
  s.flashRd (slotFlash b) (512 + min (imgBodyLen (s.slotHeader b)) 786432)

/-- A slot with a valid record holds an image that passes R505. -/
def slotOk (s : State) (b : Bool) : Bool := (s.slotOrder b).isSome && (s.imageFails (s.slotImage b) none).isNone

/-- The slot that is tried first, when any holds a valid record. -/
def firstSlot (s : State) : Option Bool :=
  match s.slotOrder false, s.slotOrder true with
  | some a, some b => some (newerSeq b a)
  | some _, none => some false
  | none, some _ => some true
  | none, none => none

/-- The slot that the ROM runs (R506). -/
def bootSlot (s : State) : Option Bool :=
  match s.firstSlot with
  | none => none
  | some b => if s.slotOk b then some b else if s.slotOk !b then some !b else none

/-- Write an image into a slot: the record is erased, the image written, and a new record follows (R508). -/
def writeImage (s : State) (b : Bool) (img : List Byte) : State :=
  let order := match s.slotOrder !b with
    | some k => (k + 1) % 2 ^ 32
    | none => 1
  let s := s.flashWr (slotFlash b + 0xFFF00) (List.replicate 256 0xFF#8)
  let s := s.flashWr (slotFlash b) img
  let head := natLe 4 0x52534847 ++ natLe 4 order
  s.flashWr (slotFlash b + 0xFFF00) (head ++ shake256 64 (head ++ img.take 512) ++ List.replicate 184 0)

/-! Keys (R500, R501, R517). -/

/-- The secret of a die's silicon and ROM. -/
def cdi0 (s : State) (die : Nat) : List Byte :=
  shake256 64 (ascii "GH-CDI0" ++ natLe 32 (SMap.get (0 : BitVec 256) s.chip.otp.uds die).toNat ++ natLe 64 (Config.romDigest die).toNat)

/-- The private key of a die's DevID. -/
def devidSeed (s : State) (die : Nat) : List Byte := shake256 57 (ascii "GH-DEVID" ++ s.cdi0 die)

/-- A die's Alias seed by the image that runs. -/
def aliasSeed (s : State) (die : Nat) (body : List Byte) (svn : Nat) : List Byte :=
  let cdi1 := shake256 64 (ascii "GH-CDI1" ++ s.cdi0 die ++ body ++ natLe 4 svn ++ natLe 1 s.lifeCycle ++ s.ownerHash)
  shake256 57 (ascii "GH-ALIAS" ++ cdi1)

/-- Where the model puts the seed in a die's Secure Region. -/
def seedAt : Nat := 0xF0000

def setSeed (s : State) (die : Nat) (seed : List Byte) : State := s.modDie die fun d => { d with ctl := d.ctl.wrN seedAt seed }
def seedOf (s : State) (die : Nat) : List Byte := (s.die die).ctl.rdN seedAt 57

/-! The Alias certificate (R496, R497, R501): X.509 v3 in DER, with an Ed448 key and signature (RFC 5280, RFC 8410). -/

/-- A DER length, and an element of a tag. -/
def derLen (n : Nat) : List Byte :=
  if n < 0x80 then natLe 1 n else if n < 0x100 then 0x81#8 :: natLe 1 n else 0x82#8 :: (natLe 2 n).reverse
def der (tag : Byte) (body : List Byte) : List Byte := tag :: derLen body.length ++ body

/-- The algorithm identifier of Ed448, 1.3.101.113. -/
def derEd448 : List Byte := der 0x30 (der 0x06 [0x2B, 0x65, 0x71])

/-- What the certificate's signature covers: the Alias public key, and an extension with measurement blocks 2 and 5. -/
def aliasTbs (key blocks : List Byte) : List Byte :=
  der 0x30 (der 0xA0 (der 0x02 [2]) ++ Config.aliasSerial key ++ derEd448 ++ Config.aliasIssuer ++ Config.aliasValidity
    ++ Config.aliasSubject ++ der 0x30 (derEd448 ++ der 0x03 (0#8 :: key))
    ++ der 0xA3 (der 0x30 (der 0x30 (Config.aliasExtension ++ der 0x04 blocks))))

/-- An Alias certificate, signed with the DevID key under the empty context. -/
def aliasCert (devid key blocks : List Byte) : List Byte :=
  let tbs := aliasTbs key blocks
  der 0x30 (tbs ++ derEd448 ++ der 0x03 (0#8 :: edSign devid [] tbs))

/-- Bytes of the DER element at the front of some bytes, with its tag and length; all of them where none is there. -/
def derFront (b : List Byte) : List Byte :=
  let n := leB b 1 1
  if leB b 0 1 ≠ 0x30 then b
  else if n < 0x80 then b.take (2 + n)
  else if n = 0x81 then b.take (3 + leB b 2 1)
  else if n = 0x82 then b.take (4 + leB b 2 1 * 256 + leB b 3 1)
  else b

/-- A wipe of every die's Secure Region, with the SPDM signing state, the token nonce and the token buffer that lie there (R517). -/
def wipeSecure (s : State) : State :=
  let s := (List.range 4).foldl (fun s d => s.modDie d fun x => { x with ctl := x.ctl.zero 0xF0000 0x10000 }) s
  let s := [Reg.SEC_LC_NONCE0, .SEC_LC_NONCE1, .SEC_LC_NONCE2, .SEC_LC_NONCE3].foldl (fun s r => s.wr r 0 0) s
  s.modChip fun c => { c with token := [], spdm := .reset }

/-- A new token nonce (R515). -/
def newNonce (s : State) (v : BitVec 128) : State :=
  (((s.wr .SEC_LC_NONCE0 0 (v.truncate 32)).wr .SEC_LC_NONCE1 0 ((v >>> (32 : Nat)).truncate 32)).wr .SEC_LC_NONCE2 0
    ((v >>> (64 : Nat)).truncate 32)).wr .SEC_LC_NONCE3 0 ((v >>> (96 : Nat)).truncate 32)

/-- `SEC_STATUS` fields that follow the fuses and the slots (R520). -/
def secStatus (s : State) (active : Bool) (svn : Nat) (other : Bool) : State :=
  let w := s.rd .SEC_STATUS 0
  let w := setBits w 31 29 s.lifeCycle
  let w := setBits w 28 28 s.ownerSlot.isSome.toNat
  let w := setBits w 27 26 (s.ownerSlot.getD 0)
  let w := setBits w 24 24 active.toNat
  let w := setBits w 23 23 other.toNat
  let w := setBits w 15 8 svn
  s.wr .SEC_STATUS 0 (setBits w 7 0 s.svnCtr)

end State

end Sys2Proof.Machine
end

