-- ==== Sys2Proof/Machine/Startup.lean ====
section
/-!
DEFINITION. Reset sources, what a reset leaves, and the start sequence (18_reset_boot.md R475 to R491; 19 R506 to R519;
20 R530, R547).
-/

namespace Sys2Proof.Machine

namespace State

/-! Maintenance that clears clusters (R450, R468, R490). -/

/-- A drain has had its re-plan in every partition whose job goes on. -/
def drainOver (s : State) : Bool :=
  (List.range 8).all fun p => !(s.stepping p || s.jobState p == 5 || s.jobState p == 6)
    || (!(s.part p).drainDue && !(s.part p).drainEp && !(s.part p).replanDue && s.jobState p != 6)

/-! What a reset leaves (R457, R475, R476). -/

/-- Everything but the AON domain, OTP, flash and, when kept, HBM is as at reset. Boundary Records and Snapshot Slots lie
in HBM. -/
def resetDevice (s : State) (keep : Bool) : State :=
  let c := s.chip
  { State.reset with
    mem := if keep then s.mem.filter fun x => decide (x.1 < hbmEnd) else []
    hostMem := s.hostMem
    dies := SMap.mapVals Die.reset (fun _ d => { Die.reset with stay := d.stay }) s.dies
    parts := if keep then SMap.mapVals Part.reset (fun _ p => { Part.reset with rec0 := p.rec0, rec1 := p.rec1, recNext := p.recNext })
      s.parts else []
    snap := if keep then { Snap.reset with head0 := s.snap.head0, head1 := s.snap.head1 } else .reset
    recov := { Recov.reset with failedTest := s.recov.failedTest }
    chip :=
      { c with
        fw := none, token := [], spdm := .reset, tripped := false, mrmWin := none, mrmData := [], mrmOver := false, clkCap := [30, 30, 30, 30], armed := false
        gov := [], serial := [], aliasKeys := [], aliasCerts := [], pcieCap := 0, fencedDies := 0, refreshed := keep, hbmLost := c.hbmLost || !keep
        jobRec := if keep then c.jobRec else none }
    fresh := s.fresh
    out := s.out
    pending := s.pending }.wr .CKR_GLITCH_COUNT 0 (s.rd .CKR_GLITCH_COUNT 0)

/-- The order in which sources detected in the same AON cycle give `SRC` (R477). -/
def srcRank (src : Nat) : Nat := [0, 1, 2, 3, 5, 4, 6, 7].idxOf src

/-- A source is detected (R475, R477): the device is reset, and a start follows when nothing holds it. `keep` says that
the source keeps HBM. Sources that come before the start has begun are merged (log entry 138); one that abandons a power-on start past
phase 0 starts at phase 1. A reset in Minimal Recovery Mode does not end the mode (R491). -/
def resetBy (s : State) (src : Nat) (keep : Bool) : State :=
  if s.chip.start = .off then s
  else
  let stays := s.chip.mrmStays || s.inMrm
  let s := s.resetDevice (keep && !s.chip.hbmLost)
  s.modChip fun c => { c with
    mrmStays := stays
    power := c.power && c.start != .cold
    src := if c.power ∧ c.start ≠ .cold then 0 else if (c.start = .ready ∨ c.start = .held) ∧ srcRank c.src < srcRank src then c.src else src
    seen := c.seen ||| BitVec.ofNat 8 (2 ^ src)
    start := if c.perst || c.resetn || c.therm then .held else .ready }

/-- The AON rail rises (R475, R528): nothing is kept but OTP, flash, and which clusters failed the array test of the last start (R484;
log entry 167). -/
def powerUp (s : State) : State :=
  let c := s.chip
  let s := s.resetDevice false
  { s with
    chip := { Chip.reset with
      flash := c.flash, otp := c.otp, perst := c.perst, resetn := c.resetn
      start := if c.perst || c.resetn then .held else .ready }
    recov := { Recov.reset with failedTest := s.recov.failedTest } }.wr .CKR_GLITCH_COUNT 0 0

/-! The Start Record (R487) and the incarnation (R344, R486). -/

def startRec (s : State) : Word := s.stay 0 0
/-- Die 0's Start Record is written, and the other dies' own, which record the same start (R486; log entry 139). -/
def putStartRec (s : State) (v : Word) : State := [0, 1, 2, 3].foldl (fun s d => s.setStay d 0 v) s
def setStartRec (s : State) (hi lo v : Nat) : State := s.putStartRec (setBits s.startRec hi lo v)
def fails (s : State) : Nat := bits s.startRec 27 24

/-- A start fails: `FAILS` rises, and a chip-level start with source 6 follows (R490). -/
def failStart (s : State) : State :=
  let s := s.setStartRec 27 24 (min 15 (s.fails + 1))
  (s.modChip fun c => { c with power := false, start := .none }).resetBy 6 true

/-! Phases (R483). -/

/-- Phase 0 of a power-on start: the Stay registers of every die and Stay memory are written 0, and `INC` is drawn. -/
def phase0 (s : State) (e : StartEnv) : State :=
  let s := (List.range 4).foldl (fun s d => (List.range 16).foldl (fun s k => s.setStay d k 0) s) s
  let s := s.modChip fun c => { c with stayMem := [] }
  s.setEpochReg 1 (BitVec.ofNat 32 e.entropy.toNat)

/-- Phase 1: straps, the Start Record, and at a chip-level start the next incarnation. The causes of the last start give way to this
one's, of which a reserved strap is known (R529, R545). -/
def phase1 (s : State) (e : StartEnv) : State :=
  let s := ((s.setFld .PWR_STATUS 0 3 2 e.cool.toNat).setFld .PWR_STATUS 0 9 9 (decide (e.cool = 0)).toNat).setFld .PWR_SENSE 0 3 0
    e.modId.toNat
  let s := s.modChip fun c => { c with startAlerts := if e.cool = 0 then 2 else 0 }
  let s := if s.chip.power then s else s.setEpochReg 1 (BitVec.ofNat 32 (((s.stay 0 1).toNat + 1) % 65536))
  let s := s.setStay 0 2 (s.stay 0 2 + 1)
  s.putStartRec (BitVec.ofNat 32 (s.chip.src * 2 ^ 28 + s.fails * 2 ^ 24 + s.chip.seen.toNat))

/-- Phase 2: the Option Loader reads both copies (R480). -/
def phase2 (s : State) : State :=
  match s.obInUse with
  | none => s.setStartRec 19 19 1
  | some c =>
    let dual := obValid (s.obCopy false) && obValid (s.obCopy true)
    let b := s.obCopy c
    let s := (s.setStartRec 21 21 c.toNat).setStartRec 20 20 dual.toNat
    (s.wr .CKR_OB_SEQ 0 (BitVec.ofNat 32 (leB b 8 4))).modChip fun x => { x with serial := sliceB b 64 32 }

/-- The conditions of Minimal Recovery Mode (R491). -/
def wantsMrm (s : State) : Bool :=
  decide (4 ≤ s.fails) || s.chip.mrmLatch || s.chip.mrmStays || match s.obInUse with
    | none => true
    | some c => leB (s.obCopy c) 12 4 % 2 == 1

/-- Phase 3: the options are applied (R482). -/
def phase3 (s : State) : State :=
  match s.obInUse with
  | none => s
  | some c =>
    let b := s.obCopy c
    let dies := leB b 20 1
    let mask := (List.range 4).foldl (fun m d => if dies / 2 ^ d % 2 = 1 then m ||| dieMask d else m) (BitVec.ofNat 32 (leB b 16 4))
    let s := s.wr .RES_FENCED 0 mask
    let s := s.modChip fun x => { x with
      fencedDies := BitVec.ofNat 4 dies
      pcieCap := leB b 36 2
      clkCap := (List.range 4).map fun d => if leB b (32 + d) 1 = 0 then 30 else leB b (32 + d) 1 }
    if leB b 12 4 / 2 % 2 = 1 then
      (s.wr .FAB_DEVID 0 (BitVec.ofNat 32 (2 ^ 31 + leB b 24 4))).setFld .FAB_CTRL 0 31 31 (leB b 28 1)
    else s

/-- The bits of the tamper sensors that trip in one cycle, and one count (R519); every Secure Region is wiped, and there is no Alias
key until the next start. -/
def tamperTrip (s : State) (trips : List (Fin 4 × DieId)) : State :=
  let s := trips.foldl (fun s x => (s.setFlag .SEC_TAMPER 0 (31 - x.1)).setFlag .SEC_TAMPER 0 x.2) s.wipeSecure
  (s.countSat .SEC_TAMPER_COUNT 0 1).setFlag .SEC_STATUS 0 25

/-- Phase 6: the ROMs derive the keys of every die whose Masthead runs, unless a sensor tripped in phases 1 to 6, and the token
nonce is new (R500, R515, R519). -/
def romKeys (s : State) (e : StartEnv) (dies : List Nat) (body : List Byte) (svn : Nat) : State :=
  let s := s.newNonce e.nonce
  match e.tamper with
  | some x => (s.tamperTrip [x]).newNonce e.nonce
  | none =>
    if s.chip.tripped then s
    else dies.foldl (fun s d =>
      let seed := s.aliasSeed d body svn
      (s.setSeed d seed).modChip fun c => { c with
        aliasKeys := SMap.set [] c.aliasKeys d (edPub seed)
        aliasCerts := SMap.set [] c.aliasCerts d
          (aliasCert (s.devidSeed d) (edPub seed) (body ++ natLe 4 svn ++ natLe 1 s.lifeCycle ++ s.ownerHash)) }) s

/-- Dies that take part in a start. -/
def startedDies (s : State) : List Nat := (List.range 4).filter fun d => !s.chip.fencedDies.getLsbD d

/-- Minimal Recovery Mode (R491): die 0's recovery loop runs and nothing else. It derives die 0's keys from the image that
would run, when one passes. -/
def enterMrm (s : State) (e : StartEnv) : State :=
  let s := s.setStartRec 23 23 1
  let id : List Byte × Nat := match s.bootSlot with
    | some b => (sliceB (s.slotHeader b) 32 64, imgSvn (s.slotHeader b))
    | none => (List.replicate 64 0, 0)
  let s := s.romKeys e [0] id.1 id.2
  let s := s.secStatus false 0 false
  s.modChip fun c => { c with start := .none, power := false }

/-- Phase 6: die 0's ROM runs the image of slot `b`; its body goes to the Control Memory of each Masthead that runs. -/
def runImage (s : State) (e : StartEnv) (b : Bool) : State :=
  let img := s.slotImage b
  let body := img.drop 512
  let dies := s.startedDies
  let s := (List.range 4).foldl (fun s d =>
    let up := dies.contains d && !e.mastFail.getLsbD d
    s.modDie d fun x => { x with
      ctl := if up then x.ctl.wrN 0 body else x.ctl
      mast := { running := up, missed := 0, fails := if up then 0 else 1 } }) s
  let s := s.romKeys e (dies.filter fun d => !e.mastFail.getLsbD d) (sliceB img 32 64) (imgSvn img)
  let s := s.secStatus b (imgSvn img) (s.slotOk !b)
  s.modChip fun c => { c with
    fw := some { svn := imgSvn img, hoMin := leB img 18 1, hoMax := leB img 19 1, digest := sliceB img 32 64 } }

/-- Pseudo-channels of stacks are calibrated at the temperature that their die has now (R448). -/
def calibrated (s : State) (xs : List (Nat × Nat)) : State :=
  { s with recov := { s.recov with
    calTemp := xs.foldl (fun m x => SMap.set 0 m (32 * x.1 + x.2) (s.dieTemp (x.1 / 6))) s.recov.calTemp } }

/-- Phases 8 and 9: HBM in service by the interleave that Moasozil gave it since phase 7, each trained stack READY (R309, R482), and
whether its contents were kept (R478). Where they were not, the records in HBM are lost, and the epoch record is emptied. Training
calibrates every pseudo-channel (R448). -/
def startHbm (s : State) (e : StartEnv) : State :=
  let s := (List.range 24).foldl (fun s k => s.setFld .MEM_CTRL k 0 0 (e.ilv.getLsbD (k / 6)).toNat) s
  let s := s.calibrated ((List.range 24).flatMap fun k => (List.range 32).map fun c => (k, c))
  let kept := !s.chip.power && !s.chip.hbmLost && e.selfRefresh && e.stackFail == 0
  let s := s.setStartRec 22 22 kept.toNat
  let s := if kept then s
    else
      let s := { s with
        mem := s.mem.filter fun x => decide (hbmEnd ≤ x.1)
        parts := SMap.mapVals Part.reset (fun _ p => { p with rec0 := none, rec1 := none }) s.parts
        snap := { s.snap with head0 := none, head1 := none } }
      let s := s.modChip fun c => { c with jobRec := none }
      ((s.setEpochReg 8 noEpoch).setEpochReg 9 noEpoch).setEpochReg 10 noEpoch
  let up := (List.range 24).filter fun k => !e.stackFail.getLsbD k && !s.chip.fencedDies.getLsbD (k / 6)
  let s := up.foldl (fun s k => s.setFlag .MEM_STATUS k 0) s
  let bad := (List.range 4).filter fun d => (List.range 6).any fun k => e.stackFail.getLsbD (6 * d + k)
  let s := bad.foldl (fun s d => s.drainClusters (dieMask d)) s
  s.modChip fun c => { c with hbmLost := false }

/-- Phase 10: clusters that fail the array test are left out, and fenced after two starts in a row (R484). -/
def arrayTest (s : State) (e : StartEnv) : State :=
  let failed := e.arrayFail &&& ~~~(s.rd .RES_FENCED 0)
  let twice := failed &&& s.recov.failedTest
  let s := ((List.range 32).filter fun c => bit failed c).foldl (fun s c =>
    s.post (dieOfCl c) .arrayCheckPersistent (BitVec.ofNat 32 (8 * c)) 0) s
  let s := s.drainClusters failed
  let s := { s with recov := { s.recov with failedTest := failed } }
  if twice = 0 then s else (s.recordFence twice 0).wr .RES_FENCED 0 (s.rd .RES_FENCED 0 ||| twice)

/-- After a start the device originates PEER_UP with its new incarnation, over the Job Member Table of a Job Record that is valid
(R363, R465, R471). -/
def announceUp (s : State) : State :=
  let w := s.record 13
  let s := match s.chip.jobRec with
    | some x => if bit w 28 && s.record 11 == x.1.id then s.loadMembers (bits w 31 29) x.1 else s
    | none => s
  s.originate 2 s.devId s.ownInc 0

/-- The Job Record of a partition, when it is valid and HBM still holds it (R465, R471, R478). -/
def rejoins (s : State) (p : Nat) : Option (Job × Plan × Place) :=
  let w := s.record 13
  match s.chip.jobRec with
  | some x =>
    let bs := s.jobRecBytes x.1 x.2.1 x.2.2
    if s.jobState p == 0 && bit w 28 && bits w 31 29 == p && s.record 11 == x.1.id && bit s.startRec 22
        && s.mem.rdN (bits w 27 20 * 2 ^ 30) bs.length == bs then some x
    else none
  | none => none

/-- The step that the rejoiner's Boundary Records name (R461, R465). -/
def recordedStep (s : State) (p : Nat) : Word :=
  let at' := fun (second : Bool) (r : Option Capture) => match r with
    | some r => if s.areaHolds (s.recordAt p second) recordBytes (recordMem (s.recordAt p second) r) then r.step else noEpoch
    | none => noEpoch
  maxEpoch (at' false (s.part p).rec0) (at' true (s.part p).rec1)

/-- After a reset of the device the job of the Job Record is reloaded: the plan is computed for the member set as it stood, and the
Boundary Records and slots lie where the record says (R465, R471). It runs again once the rejoin's collective agrees. -/
def reloadJob (s : State) (p : Nat) (f : PlanFacts) : State :=
  match s.rejoins p with
  | none => s
  | some (j, old, _) =>
    let w := s.record 13
    let t := (s.wr .PLC_PART_HBM p (BitVec.ofNat 32 (bits w 27 20 * 256 + bits w 19 12))).wr .PLC_PART_CLUSTERS p (s.record 14)
    let t := t.modPart p fun y => { y with job := some j }
    match t.place p j f with
    | .placed pl x =>
      let pl := { pl with brec0 := old.brec0, brec1 := old.brec1, slot0 := old.slot0, slot1 := old.slot1 }
      let t := t.modPart p fun y => { y with
        plan := some pl, place := x, pages := pl.pages, armed := true, group := t.fld .RES_SNAP_CTRL 0 23 20, rejoin := true }
      let step := t.recordedStep p
      let t := (t.loadPlan p j { pl with bytes := pl.bytes.filter fun x => decide (hbmEnd ≤ x.1) }).refreshWcopies
      (t.wr .PLC_STEP p step).setJobState p 4
    | _ => s

/-- Start complete: a recovery that the reset belongs to goes on with its reload (R363, R465, R471, R483, R487, R544). -/
def startComplete (s : State) (f : PlanFacts) : State :=
  let s := (s.setStartRec 27 24 0).modChip fun c => { c with start := .none, power := false, seen := 0, mrmLatch := false }
  let s := s.setFlag .HIF_STATUS 0 0
  let p := bits (s.record 13) 31 29
  let open_ := decide (bits (s.record 12) 11 8 ≠ 0)
  let s := (if open_ then s.setPhase 4 else s).reloadJob p f
  (if open_ then s.setPhase (if (s.part p).rejoin then 5 else 0) else s).announceUp

/-- The start from phase 2 onward. -/
def startOn (s : State) (e : StartEnv) : State :=
  let s := s.phase2
  if s.wantsMrm then s.enterMrm e
  else
    let s := s.phase3
    match s.bootSlot with
    | none => s.failStart
    | some b =>
      if e.mastFail.getLsbD 0 then s.failStart
      else
        let s := s.runImage e b
        let s := ((List.range 3).map (· + 1)).foldl (fun s d =>
          if e.mastFail.getLsbD d then s.drainClusters (dieMask d) else s) s
        if s.lifeCycle = 4 then s.modChip fun c => { c with start := .none, power := false }
        else if (List.range 6).any fun k => e.stackFail.getLsbD k then s.failStart
        else (((s.startHbm e).arrayTest e).armGovernor e.load e.rises).startComplete e.facts

/-- The start from phase 1, which waits in the cold (R547). -/
def startCold (s : State) (e : StartEnv) : State :=
  if !e.warm then s.modChip fun c => { c with start := .cold } else (s.phase1 e).startOn e

/-- The start sequence of a device that nothing holds: it waits for REFCLK first (R483). -/
def startSequence (s : State) (e : StartEnv) : State :=
  if !e.refclk then s.modChip fun c => { c with start := .ref }
  else (if s.chip.power then s.phase0 e else s).startCold e

end State

end Sys2Proof.Machine
end

