-- ==== Sys2Proof/Machine/Masthead.lean ====
section
/-!
DEFINITION. The Mastheads as such: who is primary, their Control Memory over a management reset, the takeover, and the
way the role passes back (01_architecture.md R13; 16 R449; 17 R466 to R468; 19 R507).
-/

namespace Sys2Proof.Machine

/-- Where the Telltale Log lies in Control Memory, and its bytes (R424, R507). -/
def logAt : Nat := 0xE8000
def logBytes : Nat := 0x8000

namespace State

def setPrimary (s : State) (d : Nat) : State := s.setFld .MGT_STATUS 0 3 2 d

/-- The Telltale Log moves to another Masthead's Control Memory. -/
def moveLog (s : State) (src dst : Nat) : State :=
  let m := (s.die src).ctl
  s.modDie dst fun x => { x with ctl := x.ctl.copyInto m logAt logAt logBytes }

/-- A Masthead goes into management reset: its processor and its Control Memory are reset, the Secure Region stays. -/
def mastDown (s : State) (d : Nat) : State :=
  s.modDie d fun x => { x with
    ctl := x.ctl.filter fun b => decide (seedAt ≤ b.1)
    mast := { x.mast with running := false, missed := 0 } }

/-- Body of the image in the running slot. -/
def runningBody (s : State) : List Byte := (s.slotImage (s.flag .SEC_STATUS 0 24)).drop 512

/-- A Masthead runs again on the running image. -/
def mastUp (s : State) (d : Nat) : State :=
  let body := s.runningBody
  s.modDie d fun x => { x with ctl := x.ctl.wrN 0 body, mast := .reset }

/-- Every ring entry that the failed primary fetched and did not complete completes with HANG_RESET (R467). -/
def hangEntries (s : State) : State :=
  s.hif.rings.foldl (fun s x =>
    let q := s.ring x.1
    let s := q.entries.foldl (fun s e => s.completePlain x.1 e .hangReset) s
    let s := (List.range 8).foldl (fun s p => match (s.part p).job with
      | some j => if j.ring = x.1 ∧ s.jobState p = 2 then s.complete x.1 (.plain x.1 .hangReset 1 j.tag j.irq) else s
      | none => s) s
    s.modRing x.1 fun q => { q with entries := [], due := 0 }) s

/-- The standby `d` takes over from a primary marked failed (R467, R472). -/
def takeover (s : State) (d : Nat) : State :=
  let old := s.primary
  let s := ((s.moveLog old d).mastDown old).setPrimary d
  let s := (s.hangEntries).setFlag .MGT_STATUS 0 30
  match s.recov.maint with
  | some m => if m.op = 8 then
      { s with recov := { s.recov with maint := none } }.setFld .RES_MAINT_STATUS 0 31 24 Status.hangReset.num
    else s
  | none => s

/-- At a step boundary the primary role passes back to die 0 when its Masthead runs again (R449, R467). -/
def passBack (s : State) : State :=
  if s.primary ≠ 0 ∧ (s.die 0).mast.running then (s.moveLog s.primary 0).setPrimary 0 else s

end State

end Sys2Proof.Machine
end

