-- ==== Sys2Proof/Machine/Telltale.lean ====
section
/-!
DEFINITION. Telltale's tick: its log, risk accumulators and level scores (16_resilience_snapshots.md R423 to R427, R452).
-/

namespace Sys2Proof.Machine

/-- Event code (R423). -/
def TCode.num : TCode → Nat
  | .detectedRecomputed => 0x01
  | .memPersistent => 0x02
  | .arrayCheckPersistent => 0x03
  | .prefetchLivelock => 0x04
  | .linkRetry => 0x05
  | .shadowWarn => 0x10
  | .shadowAlarm => 0x11
  | .normWarn => 0x20
  | .normAlarm => 0x21
  | .satThreshold => 0x22
  | .vanThreshold => 0x23
  | .baseClamped => 0x24
  | .skipRunLimit => 0x25
  | .updateNonfinite => 0x26
  | .tempMargin => 0x30
  | .voltMargin => 0x31
  | .laneMargin => 0x32
  | .peerLost => 0x40
  | .epochCommitted => 0x41
  | .epochDiscarded => 0x42
  | .restore => 0x43

/-- Class of a code: 0 ERR, 1 SHADOW, 2 NORM, 3 level, 7 none (R424). -/
def TCode.cls (c : TCode) : Nat :=
  let n := c.num
  if n < 0x10 then 0 else if n < 0x20 then 1 else if n < 0x30 then 2 else if n < 0x40 then 3 else 7

/-- Every code, in rising order. -/
def allCodes : List TCode :=
  [.detectedRecomputed, .memPersistent, .arrayCheckPersistent, .prefetchLivelock, .linkRetry, .shadowWarn, .shadowAlarm,
   .normWarn, .normAlarm, .satThreshold, .vanThreshold, .baseClamped, .skipRunLimit, .updateNonfinite, .tempMargin, .voltMargin,
   .laneMargin, .peerLost, .epochCommitted, .epochDiscarded, .restore]

/-- A level score: `k` times the shortfall of a margin, at most 255 (R425). -/
def levelScore (k ref : Nat) (m : Int) : Nat := min 255 (k * ((ref : Int) - m).toNat)

/-- One tick of an accumulator: decay, then the weights of the tick's events of its class (R425). -/
def accTick (a decay : Nat) (adds : List (Nat × Nat)) : Nat :=
  adds.foldl (fun a x => min 0xFFFFFFFF (a + x.1 * min x.2 16 * 2 ^ 24)) (a - a >>> decay)

namespace State

/-- Weight of an event in risk points (R423, R452). -/
def ttlWeight (s : State) (c : TCode) : Nat :=
  match c with
  | .detectedRecomputed | .linkRetry => s.fld .TTL_WEIGHT0 0 31 24
  | .memPersistent => s.fld .TTL_WEIGHT0 0 23 16
  | .arrayCheckPersistent => s.fld .TTL_WEIGHT0 0 15 8
  | .prefetchLivelock => s.fld .TTL_WEIGHT0 0 7 0
  | .shadowWarn => s.fld .TTL_WEIGHT1 0 31 24
  | .shadowAlarm => s.fld .TTL_WEIGHT1 0 23 16
  | .normWarn => s.fld .TTL_WEIGHT1 0 15 8
  | .normAlarm => s.fld .TTL_WEIGHT1 0 7 0
  | .satThreshold => s.fld .TTL_WEIGHT2 0 31 24
  | .vanThreshold => s.fld .TTL_WEIGHT2 0 23 16
  | .baseClamped => s.fld .TTL_WEIGHT2 0 15 8
  | .skipRunLimit => s.fld .TTL_WEIGHT2 0 7 0
  | .updateNonfinite => 255
  | _ => 0

/-- Step number that a record shows: that of the lowest partition with a job. -/
def logStep (s : State) : Word := s.rd .PLC_STEP (((List.range 8).find? fun p => s.jobState p != 0).getD 0)

/-- One record of the Telltale Log, or one record lost (R424). A die whose agent or standby Masthead is down has its
records lost (R468). -/
def putRecord (s : State) (d : Nat) (c : TCode) (subject value : Word) (n : Nat) : State :=
  let head := s.fld .TTL_LOG_HEAD 0 10 0
  let next := (head + 1) % 2048
  if next = s.fld .TTL_LOG_TAIL 0 10 0 ∨ (d ≠ 0 ∧ d ≠ s.primary ∧ !(s.die d).mast.running) then s.countSat .TTL_LOG_LOST 0 1
  else
    let ws : List Word := [BitVec.ofNat 32 (c.num * 2 ^ 24 + c.cls * 2 ^ 21 + d * 2 ^ 19 + min n 1023), subject, value, s.logStep]
    let s := s.modDie s.primary fun x => { x with ctl := x.ctl.wrN (logAt + 16 * head) (ws.flatMap fun w => natLe 4 w.toNat) }
    s.setFld .TTL_LOG_HEAD 0 10 0 next

/-- Events of one code in a die's tick become one record: the first event's subject and value, and the count. A
LINK_RETRY's value is the tick's resends of its port (R423, R424). -/
def recordCode (s : State) (d : Nat) (evs : List TEvent) (c : TCode) : State :=
  match evs.filter fun e => e.code == c with
  | [] => s
  | e :: es =>
    let v := if c = .linkRetry then
        BitVec.ofNat 32 (((e :: es).filter fun x => x.subject == e.subject).map fun x => x.value.toNat).sum
      else e.value
    s.putRecord d c e.subject v (es.length + 1)

/-- mT: the margin of a die's hottest sensor to the throttle temperature of the class in force (R425, R529). -/
def marginT (s : State) (m : Margins) : Int := throttleTemp s.effClass - m.tj

/-- The level events of a die's tick: a score that was 0 at the last tick and is not now. -/
def levelEvents (was now : BitVec 3) (mt : Int) (m : Margins) : List TEvent :=
  let ev := fun (i : Nat) (c : TCode) (sub : Nat) (v : Int) => if now.getLsbD i && !was.getLsbD i then
    [(⟨c, BitVec.ofNat 32 sub, BitVec.ofInt 32 v, []⟩ : TEvent)] else []
  ev 0 .tempMargin m.sensor mt ++ ev 1 .voltMargin m.rail m.mv ++ ev 2 .laneMargin m.lane (m.ml.getD 0)

/-- One die's tick: its records, accumulators and scores; its risk (R425). -/
def tickDie (s : State) (d : Nat) (m : Margins) : State × Nat :=
  let x := s.die d
  let w := s.rd .TTL_RISK_CTRL 0
  let sT := levelScore 16 (bits w 23 16) (s.marginT m)
  let sV := levelScore 4 (bits w 15 8) m.mv
  let sL := match m.ml with
    | some v => levelScore 2 (bits w 7 0) v
    | none => 0
  let now : BitVec 3 := BitVec.ofNat 3 ((sT != 0).toNat + 2 * (sV != 0).toNat + 4 * (sL != 0).toNat)
  let evs := x.events ++ levelEvents x.levels now (s.marginT m) m
  let adds := fun k => (allCodes.filter fun c => c.cls == k).map fun c => (s.ttlWeight c, (evs.filter fun e => e.code == c).length)
  let decay := bits w 31 28
  let e := accTick x.accErr.toNat decay (adds 0)
  let h := accTick x.accShadow.toNat decay (adds 1)
  let n := accTick x.accNorm.toNat decay (adds 2)
  let s := allCodes.foldl (fun s c => s.recordCode d evs c) s
  let s := s.modDie d fun x => { x with
    events := [], levels := now, accErr := BitVec.ofNat 32 e, accShadow := BitVec.ofNat 32 h, accNorm := BitVec.ofNat 32 n }
  (s, min 255 ((e + h + n) / 2 ^ 24 + sT + sV + sL))

/-- Every die's tick, RISK, and the latches that re-arm (R425, R427). -/
def telltaleTick (s : State) (ms : List Margins) : State :=
  let r := (List.range 4).foldl (fun (a : State × List Nat) d =>
    match ms[d]? with
    | some m => if s.chip.fencedDies.getLsbD d then (a.1, a.2 ++ [0]) else
        let t := a.1.tickDie d m
        (t.1, a.2 ++ [t.2])
    | none => (a.1, a.2 ++ [0])) (s, [])
  let risk := r.2.foldl max 0
  let s := (r.1.setFld .TTL_RISK 0 7 0 risk).wr .TTL_RISK_DIE 0 (BitVec.ofNat 32 (leNat (r.2.map fun x => BitVec.ofNat 8 x)))
  let low := decide (risk + 16 < bits s.snap.ctrl 31 24)
  (List.range 8).foldl (fun s p =>
    if low && (s.part p).job.isSome then s.modPart p fun x => { x with armed := true } else s) s

end State

end Sys2Proof.Machine
end

