-- ==== Sys2Proof/Machine/Recover.lean ====
section
/-!
DEFINITION. The ladder of recovery: how faults enter and climb, the Reset Record, the sample, and what each level and a
step replay do (17_hang_recovery.md R455 to R474).
-/

namespace Sys2Proof.Machine

/-- The same cause on the same unit; at level 2 the unit is one engine (R459). -/
def FaultRec.same (f g : FaultRec) : Bool :=
  f.level == g.level && f.cause == g.cause && f.unit == g.unit && (f.level != 2 || f.eng == g.eng)

/-- One level up: a core's cluster, a cluster's die (R457, R459). -/
def FaultRec.up (f : FaultRec) (cause : Nat) : FaultRec :=
  ⟨f.level + 1, cause, if f.level = 1 then f.unit else f.unit / 8, f.eng⟩

/-- Where a recurrence enters: levels 1 and 2 at level 3, level 3 at level 4 (R458). -/
def FaultRec.again (f : FaultRec) : FaultRec :=
  if f.level ≤ 2 then ⟨3, 0x0B, clOfCore f.unit, f.eng⟩ else ⟨4, 0x0B, dieOfCl f.unit, f.eng⟩

namespace State

/-! Entering the ladder (R455, R458, R459). -/

def modRecov (s : State) (f : Recov → Recov) : State := { s with recov := f s.recov }

/-- Partition of a fault's unit. -/
def faultPart (s : State) (f : FaultRec) : Nat := s.partOf (if f.level ≤ 2 then clOfCore f.unit else f.unit)

/-- Does a recovery of `g` cover the unit of `f`, at its level or higher? -/
def covers (s : State) (g f : FaultRec) : Bool :=
  decide (f.level ≤ g.level)
  && (if 4 ≤ g.level then true else if g.level = 3 then s.faultPart g == s.faultPart f else g.unit == f.unit)

/-- A recurrence climbs (R459); one that recurs there climbs again. -/
def climb (s : State) (f : FaultRec) : Nat → State × FaultRec
  | 0 => (s, f)
  | n + 1 => if f.level < 4 ∧ s.recov.seen.any (FaultRec.same f) then (s.setFlag .MGT_STATUS 0 31).climb f.again n else (s, f)

/-- At a context-level fault every queue of its core stops issuing (R460). -/
def stopIssue (s : State) (f : FaultRec) : State :=
  if f.level ≤ 1 ∧ (s.core f.unit).hold.isNone then s.modCore f.unit fun c => { c with hold := some ⟨f.cause, f.eng, .ok⟩ } else s

/-- A fault enters the ladder: absorbed by a recovery that covers it, in place of those that it covers (R459). -/
def enter (s : State) (f : FaultRec) : State :=
  let r := s.climb f 2
  if r.1.recov.faults.any fun g => r.1.covers g r.2 then r.1
  else (r.1.modRecov fun x => { x with faults := (x.faults.filter fun g => !r.1.covers r.2 g) ++ [r.2] }).stopIssue r.2

/-- A watchdog fires (R455, R474). -/
def fire (s : State) (f : FaultRec) : State := (s.countSat .MGT_WD_FIRE 0 1).enter f

/-- A fault's recovery has run: it leaves, and counts against a recurrence. -/
def leave (s : State) (f : FaultRec) : State :=
  s.modRecov fun x => { x with faults := x.faults.filter fun g => g != f, seen := x.seen ++ [f] }

/-! The Reset Record (R465). -/

/-- A recovery begins: its level, cause, unit, and its number above level 1. -/
def openRec (s : State) (f : FaultRec) : State :=
  let w := s.record 12
  let seq := if f.level ≤ 1 then bits w 7 0 else (bits w 7 0 + 1) % 256
  s.setEpochReg 12 (BitVec.ofNat 32 (f.level * 2 ^ 28 + f.cause % 256 * 2 ^ 20 + f.unit % 256 * 2 ^ 12 + 2 ^ 8 + seq))

/-! The sample (R463, R464). -/

/-- The Scratchpad address of a head's first operand, aligned down; 0 where there is none in the Scratchpad. -/
def sampleAddr (s : State) (core eng : Nat) : Nat :=
  match s.headOf core (if eng < 6 then eng else 0) with
  | none => 0
  | some w => match TW.ins w with
    | [] => 0
    | i :: _ => let d := s.desc core i
      if Tile.space d = 0 then Tile.addr d / 256 * 256 else 0

/-- Token counts in 4 bits each, two to a byte. -/
def tokBytes (s : State) (core : Nat) : List Byte :=
  (List.range 96).map fun k =>
    BitVec.ofNat 8 ((s.tok core (2 * k / 32) (2 * k % 32)).count % 16 + (s.tok core ((2 * k + 1) / 32) ((2 * k + 1) % 32)).count % 16 * 16)

/-- The 512 bytes of one core's sample. The `SEQ` of a head is the one that it issues with, and an empty queue shows the `SEQ` of the
next (R227, R464; log entry 171). -/
def sampleBytes (s : State) (core : Nat) (f : FaultRec) : List Byte :=
  let a := s.sampleAddr core f.eng
  let st := fun r => natLe 4 (s.regRead (.masthead 0) r core).toNat
  natLe 1 core ++ natLe 1 (if f.eng < 6 then f.eng else 0xFF) ++ natLe 1 f.cause ++ natLe 1 0
    ++ st .XFR_STATUS ++ st .FWD_STATUS ++ st .BWD_STATUS ++ st .VEC_STATUS
    ++ ((List.range 6).flatMap fun e => natLe 4 ((s.q core e).seq + 1).toNat) ++ natLe 4 a ++ natLe 16 0
    ++ ((List.range 6).flatMap fun e => natLe 16 ((s.headOf core e).getD 0).toNat)
    ++ s.tokBytes core ++ s.mem.rdN (spadBase core + a) 256

/-- Step and JOB_ID that the header shows. -/
def sampleJob (s : State) (p : Nat) : List Byte :=
  natLe 4 (s.rd .PLC_STEP p).toNat ++ natLe 4 (match (s.part p).job with
    | some j => j.id.toNat
    | none => 0)

/-- A sample of some cores, of which sampling's bound lets `n` be written; a valid one that is held stays. -/
def takeSample (s : State) (f : FaultRec) (p : Nat) (cores : List Nat) (n : Nat) : State :=
  if s.flag .MGT_ESC_CTRL 0 0 ∧ s.chip.stayMem.rd 12 = 1 then s.setFlag .MGT_STATUS 0 28
  else
    let cs := cores.take (min n 127)
    let head := natLe 4 (s.record 12).toNat ++ s.sampleJob p ++ natLe 1 1 ++ natLe 1 cs.length ++ List.replicate 242 0
    let m := (cs.zipIdx).foldl (fun m x => m.wrN (256 + 512 * x.2) (s.sampleBytes x.1 f)) (s.chip.stayMem.wrN 0 head)
    s.modChip fun c => { c with stayMem := m }

/-- Cores of some clusters, those that a cause names first. -/
def sampleCores (f : FaultRec) (cls : List Nat) : List Nat :=
  let all := cls.flatMap fun c => (List.range 8).map fun i => 8 * c + i
  let first := if f.level = 3 then all.filter fun k => clOfCore k == f.unit else all.filter fun k => dieOfCore k == f.unit
  first ++ all.filter fun k => !first.contains k

/-! Levels 1 and 2 (R457, R458, R460). -/

/-- What a context-level fault of a core asks for: its own hold, or a watchdog's (R458). A recovery of a higher level that covers the
core has absorbed it (R459, R472). -/
def contextFault (s : State) (core : Nat) : Option FaultRec :=
  let f := match (s.core core).hold with
    | some h => some (⟨1, h.cause, core, h.eng⟩ : FaultRec)
    | none => s.recov.faults.find? fun f => f.level == 1 && f.unit == core
  f.filter fun f => !s.recov.faults.any fun g => decide (2 ≤ g.level) && s.covers g f

/-- A program fault ends its partition's job with the instruction's status. -/
def failJob (s : State) (p : Nat) (st : Status) : State :=
  if s.jobState p = 0 ∨ s.jobState p = 8 ∨ s.jobState p = 9 then s.abandonPart p else s.endJob p 9 st

/-- The action of a context-level fault by its cause (R458). -/
def contextAction (s : State) (core : Nat) (f : FaultRec) (envs : List Env) : State :=
  let p := s.partOf (clOfCore core)
  if f.cause = 0x08 then s.failJob p (match (s.core core).hold with
    | some h => h.status
    | none => .faultAddress)
  else if f.cause = 0x09 then
    if (s.part p).timedOut then s.failJob p .timeout
    else ((s.abandonPart p).clearStepMarks p).modPart p fun x => { x with timedOut := true }
  else if f.cause = 0x0A then (if s.stepping p then s.holdJob p else s.abandonPart p)
  else s.resumeCore core envs

/-- A context-level reset of a core (R457, R460). A cause whose action is RESUME and that recurs enters at level 3. -/
def contextReset (s : State) (core : Nat) (envs : List Env) : State :=
  match s.contextFault core with
  | none => s
  | some f =>
    let resumes := !(f.cause == 0x08 || f.cause == 0x09 || f.cause == 0x0A)
    if resumes ∧ s.recov.seen.any (FaultRec.same f) then s.enter f
    else
      let s := (s.openRec f).contextAction core f envs
      let s := (s.countSat .MGT_CTX_COUNT 0 1).modRecov fun x => { x with faults := x.faults.filter fun g => g != f }
      (if resumes then s.leave f else s).setPhase 0

/-- An array is out of its stopped state, its registers and check state cleared (R457). -/
def clearStopped (s : State) (core eng : Nat) : State :=
  if eng = 0 then (s.setFld .FWD_STATUS core 3 0 0).modCore core fun c => { c with fwd := Core.reset.fwd }
  else if eng = 1 then (s.setFld .BWD_STATUS core 3 0 0).modCore core fun c => { c with bwd := Core.reset.bwd }
  else s

/-- What an engine-level reset of an engine answers: a fault that has entered, or its stopped array. -/
def engineFault (s : State) (core eng : Nat) : Option FaultRec :=
  match s.recov.faults.find? fun f => f.level == 2 && f.unit == core && (f.eng == eng || f.eng == 7) with
  | some f => some f
  | none => if s.arrayStopped core eng then some ⟨2, 0x07, core, eng⟩ else none

/-- An engine-level reset (R457): a sample, the engine cleared, and a RESUME of its core. `n` samples fit in sampling's
bound; `still` says that the array is STOPPED after the reset, which enters at level 3. -/
def engineReset (s : State) (core eng : Nat) (envs : List Env) (still : Bool) (n : Nat) : State :=
  match s.engineFault core eng with
  | none => s
  | some f =>
    if f.cause = 0x07 ∧ s.recov.seen.any (FaultRec.same f) then s.enter f
    else
      let s := s.openRec f
      let s := (s.takeSample f (s.partOf (clOfCore core)) [core] n).setPhase 3
      let s := (s.countSat .MGT_ENG_COUNT 0 1).leave f
      if still then s.enter ⟨3, 0x0B, clOfCore core, eng⟩
      else ((s.clearStopped core eng).resumeCore core envs).setPhase 0

/-! Level 3 (R457, R462, R471). -/

/-- Everything of a cluster that a partition-level reset clears (R15, R337, R457). -/
def clearCluster (s : State) (c : Nat) : State :=
  let s := s.abandonCluster c
  let s := (List.range 8).foldl (fun s i =>
    let k := 8 * c + i
    let s := (s.clearStopped k 0).clearStopped k 1
    let s := s.modCore k fun x => { Core.reset with desc := x.desc, dver := x.dver }
    { s with mem := s.mem.zero (spadBase k) spadSize }) s
  let s := { s with mem := s.mem.zero (cmemBase c) cmemSize }
  let own := ((List.range 1024).filter fun f => s.inDflagRange c f)
  let s := s.modDie (dieOfCl c) fun d => { d with dregs := d.dregs.filter fun x => !own.contains (x.1 / 2) }
  let s := s.modCluster c fun x => { Cluster.reset with chn := { Chanter.reset with time := x.chn.time } }
  (Reg.byBlock .CHN ++ Reg.byBlock .KVP).foldl (fun s r => s.wr r c (r.resetAt c)) s

/-- Does a byte range meet a Collective Table (R364)? -/
def inColTable (s : State) (a n : Nat) : Bool :=
  (List.range 4).any fun d => rangesMeet a n (s.fld .COL_TABLE_LO d 31 0 + s.fld .COL_TABLE_HI d 15 0 * 2 ^ 32) 131072

/-- The partition's Collective Table entries are cleared, as the plan that wrote them gives them (R392, R457). -/
def clearCols (s : State) (p : Nat) : State :=
  match (s.part p).plan with
  | none => s
  | some pl =>
    let s := pl.cols.foldl (fun s x => s.store (s.colAt x.die.val x.cid.val) (List.replicate 32 0)) s
    (pl.bytes.filter fun x => s.inColTable x.1 x.2.length).foldl (fun s x => s.store x.1 (List.replicate x.2.length 0)) s

/-- The part of a plan that a reset of its clusters has lost: their memories, registers, tables and flags, and the partition's entries
in the Collective Tables (R457). -/
def clusterPlan (s : State) (pl : Plan) : Plan :=
  { pl with
    norms := []
    bytes := pl.bytes.filter fun x => decide (hbmEnd ≤ x.1) || s.inColTable x.1 x.2.length
    regs := pl.regs.filter fun x => decide (0x1000000 ≤ x.1) }

/-- A multi-member job. -/
def multi (s : State) (p : Nat) : Bool := match (s.part p).job with
  | some j => j.pm1 != 0
  | none => false

/-- The parts of a loaded job come back after a reset of its clusters, with PHASE 4; a job that is not loaded has none, and the default
split of the Scratchpad banks stays until the next plan (R15, R457, R465). -/
def reloadPart (s : State) (p : Nat) : State :=
  match (s.part p).job, (s.part p).plan with
  | some j, some pl =>
    if 3 ≤ s.jobState p ∧ s.jobState p ≤ 7 then ((s.setPhase 4).loadPlan p j (s.clusterPlan pl)).resetHalyards p else s
  | _, _ => s

/-- A peer that was reported lost during this device's own recovery is acted on (R472). -/
def applyLost (s : State) (p : Nat) : State := if s.stepping p ∧ (s.part p).lost ≠ [] then s.holdJob p else s

/-- A partition-level reset: every cluster is cleared and the job's parts are loaded again (R457); a multi-member job
announces itself by a REPLAY notice, and by PEER_UP when its reset is done (R471). -/
def partitionReset (s : State) (p n : Nat) : State :=
  match s.recov.faults.find? fun f => f.level == 3 && s.faultPart f == p with
  | none => s
  | some f =>
    let s := s.openRec f
    let s := (s.takeSample f p (sampleCores f (s.partClusters p)) n).setPhase 2
    let s := (if s.multi p && s.stepping p then s.originateCounted true else s).setPhase 3
    let s := (s.partClusters p).foldl (fun s c => s.clearCluster c) s
    let s := ((((s.clearCols p).clearStepMarks p).resetFlags p).countSat .MGT_PART_COUNT 0 1).leave f
    let s := s.reloadPart p
    let s := s.setPhase (if s.stepping p then 5 else 0)
    let s := if s.multi p && s.stepping p then (s.originate 2 s.devId s.ownInc 0).modPart p fun x => { x with rejoin := true } else s
    s.applyLost p

/-! Level 4 (R363, R457, R463, R469, R471). -/

/-- A chip-level reset by the ladder: the hold message, the sample, the notices, and the reset with source 7. A persistent failure
of a bridge of die `link`, or of the host link, enters first (R458). -/
def chipReset (s : State) (link : Option (Fin 4)) (n : Nat) : State :=
  let s := match link with
    | some d => s.enter ⟨4, 0x11, d, 7⟩
    | none => s
  match s.recov.faults.find? fun f => f.level == 4 with
  | none => s
  | some f =>
    let s := if s.chip.events && s.chip.dynAddr.isSome then s.emit (.ibi 0xA1 10) else s
    let s := s.openRec f
    let p := ((List.range 8).find? fun p => s.jobState p != 0).getD 0
    let s := (s.takeSample f p (sampleCores f (List.range 32)) n).setPhase 2
    let s := if s.ethernet then s else s.portsUp.foldl (fun s q => s.emit (.control q 3 0 0)) s
    let s := (s.originate 0 s.devId s.ownInc 0).setPhase 3
    s.resetBy 7 true

/-- A level's action misses its deadline (R459): the fault climbs, and from level 4 the tray power-cycles the module. -/
def escalationDeadline (s : State) (level unit : Nat) : State :=
  let f := if level = 1 then s.contextFault unit else s.recov.faults.find? fun f => f.level == level && f.unit == unit
  match f with
  | none => s
  | some f =>
    let s := s.setFlag .MGT_STATUS 0 31
    if f.level = 4 then s.emit .powerCycle
    else (s.modRecov fun x => { x with faults := x.faults.filter fun g => g != f }).enter (f.up (if f.level = 3 then 0x0C else f.cause))

/-! Step replay and restore (R438, R439, R462, R471). -/

/-- The Boundary Record that began the step in progress: it is valid while its area holds it (R461, R462). -/
def ownRecord (s : State) (p : Nat) : Option Capture :=
  let x := s.part p
  let t := s.rd .PLC_STEP p
  (([(x.rec0, false), (x.rec1, true)].filterMap fun y => y.1.map fun r => (r, y.2)).find? fun y => y.1.step == t
    && ((s.part p).plan.isNone || s.areaHolds (s.recordAt p y.2) recordBytes (recordMem (s.recordAt p y.2) y.1))).map (·.1)

/-- This member allows a step replay (R462). -/
def mayReplay (s : State) (p : Nat) : Bool := !(s.part p).updated && (s.ownRecord p).isSome && !(s.part p).firstEpoch

/-- Shard accumulators become 0. -/
def clearAccums (s : State) (p : Nat) : State :=
  match (s.part p).plan with
  | none => s
  | some pl => (s.commitMem (pl.accums.foldl (fun m x => m.zero x.2.1 x.2.2) s.mem) (pl.accums.map (·.2))).1

/-- A step replay (R462). -/
def replayStep (s : State) (p : Nat) : State :=
  match s.ownRecord p with
  | none => s
  | some r =>
    let s := ((s.abandonPart p).clearStepMarks p).recapture p r
    let tensors := match (s.part p).job with
      | some j => j.tensors
      | none => []
    let s := (s.partClusters p).foldl (fun s c => s.clearSteps c tensors) (s.clearAccums p)
    let s := ((s.resetHalyards p).resetFlags p).startChanters p
    (((s.countSat .MGT_REPLAY_STEPS 0 1).holdFirst p).closeRec).modPart p fun x => { x with updated := false, rejoin := false }

/-- The members replay the step when every one allows it, and restore otherwise. -/
def replayOrRestore (s : State) (p : Nat) (allowed : Bool) (others : Word) (rebuilt : Option Rebuilt) : State :=
  if allowed && s.mayReplay p then s.replayStep p else (s.restorePart p s.devId others rebuilt).closeRec

/-- A restore that this member starts. A persistent detection that recurs at the address of the last one before an epoch
commits makes none, and enters at chip level (R439). -/
def startRestore (s : State) (p : Nat) (others : Word) (rebuilt : Option Rebuilt) : State :=
  if !s.stepping p then s
  else match s.snap.bad.find? s.snap.lastBad.contains with
    | some a => { s with snap := { s.snap with bad := [] } }.enter ⟨4, 0x0F, addrDie a, 7⟩
    | none =>
      let bad := s.snap.bad
      let s := if s.multi p then s.originateCounted false else s
      let s := (s.restorePart p s.devId others rebuilt).closeRec
      { s with snap := { s.snap with bad := [], lastBad := s.snap.lastBad ++ bad } }

/-! The rejoin (R471, R472). -/

/-- This device resets its own partition and waits for the members' agreement. -/
def waitsRejoin (s : State) (p : Nat) : Bool := s.stepping p && s.multi p && (s.part p).rejoin

/-- The members agree: the epoch is settled, and the step is replayed, or restored (R436, R471, R472). -/
def rejoinDone (s : State) (p : Nat) (replay : Bool) (others : Word) (rebuilt : Option Rebuilt) : State :=
  let s := s.settleEpoch p (maxEpoch s.epochC others) .restored
  let hold := (s.part p).holdRestore
  (s.modPart p fun x => { x with holdRestore := false, rejoin := false }).replayOrRestore p (replay && !hold) others rebuilt

/-- What this device brings to the rejoin's collective: its plan's digest and the step to replay (R471); nothing when it neither
holds nor waits. -/
def ownVote (s : State) (p : Nat) : Option (DWord × Word) :=
  if s.jobState p = 5 ∨ s.waitsRejoin p then some ((s.part p).place.digest, s.rd .PLC_STEP p) else none

/-- Do the digests and the steps of the members agree, by the MAX collective over (d, NOT d) and (s, NOT s) (R471)? -/
def votesAgree (own : DWord × Word) (votes : List RejoinVote) : Bool :=
  maxAgrees own.1 (votes.map (·.digest)) && maxAgrees (own.2.setWidth 64) (votes.map fun v => v.step.setWidth 64)

/-- The rejoin's MAX collective completes, `votes` being what the other members bring: where digest and step agree the step is
replayed, unless a member has issued an update-pass instruction (`updated`); a disagreement admits no one. -/
def rejoinAgree (s : State) (p : Nat) (votes : List RejoinVote) (updated : Bool) (others : Word) (rebuilt : Option Rebuilt) : State :=
  match s.ownVote p with
  | none => s
  | some own =>
    let replay := !updated
    if !votesAgree own votes then s
    else if s.jobState p = 5 then
      let s := (s.setJobState p 4).modPart p fun x => { x with lost := [] }
      (s.rejoinDone p replay others rebuilt).eventVector p
    else s.rejoinDone p replay others rebuilt

/-- The rejoin timer ends (R470). -/
def rejoinExpire (s : State) (p : Nat) : State := if s.jobState p = 5 then (s.setJobState p 6).eventVector p else s

/-! The re-plan (R379, R433, R445, R446). -/

/-- The groups whose parity protects the committed epoch, and their lost members: those before the last re-plan until an epoch commits
after it (R446). -/
def groupsOf (s : State) (p : Nat) (j : Job) : OldGroups :=
  let x := s.part p
  match x.old with
  | some o => { o with lost := o.lost ++ x.lost }
  | none => ⟨j.members, x.group, x.lost⟩

/-- The lost members' images cannot be rebuilt: no parity below 4 members, or two losses in one group (R433, R446). -/
def lossFatal (s : State) (p : Nat) : Bool :=
  match (s.part p).job with
  | none => false
  | some j =>
    let o := s.groupsOf p j
    let P := o.members.length
    let gs := (o.lost.filter o.members.contains).eraseDups.map fun d => o.members.idxOf d % groupCount P (o.group + 1)
    (s.part p).lost != [] && (decide (P < 4) || gs.eraseDups.length != gs.length)

/-- This device's share in rebuilding what a lost member of its group held: the parity that it keeps at `base`, XORed with the
chunks of the other survivors, is the chunk that it holds parity for (R433, R445). -/
def rebuildShare (s : State) (p : Nat) (er : Word) (consts : Bool) (base : Nat) (counts : List Nat) (pulls : List (List (Nat × Byte))) :
    State :=
  match (s.part p).job with
  | none => s
  | some j =>
    let g := s.parityGroup p
    let n := g.1.length
    let len := pageBytes * chunkPages g.1 counts
    (g.1.zipIdx.filter fun x => (s.part p).lost.contains (j.members.getD x.1 0)).foldl (fun s x =>
      if n < 4 ∨ pulls.length + 2 ≠ n then s
      else (s.emit (.rebuilt p er x.1 ((g.2 + n - x.2 - 1) % n) consts
        (Memory.xorAll [] 0 len (s.mem.chunk base len len 0 :: pulls)))).setFlag .RES_SNAP_STATUS 0 28) s

/-- The survivors of a lost member's group rebuild its image of ER and its constant pages (R445). -/
def rebuildShares (s : State) (p : Nat) (er : Word) (pulls consts : List (List (Nat × Byte))) : State :=
  match (s.part p).plan with
  | none => s
  | some pl =>
    let s := s.rebuildShare p er false (if s.record 8 != er then pl.parity1 else pl.parity0) (pl.images.map fun x => x.1) pulls
    s.rebuildShare p er true pl.constParity (pl.images.map fun x => x.2) consts

/-- The 32 words of the entry of a `TID` in some Reef Tables. -/
def reefOfTid (xs : List (Nat × SMap Word)) (tid : Word) : Option (List Word) :=
  xs.findSome? fun y => ((List.range 1024).find? fun e => bit (SMap.get 0 y.2 (32 * e + 21)) 31 && SMap.get 0 y.2 (32 * e + 22) == tid).map
    fun e => (List.range 32).map fun k => SMap.get 0 y.2 (32 * e + k)

/-- The Reef entries of a plan take over, unchanged, what the entries of their `TID` held (R445). -/
def moveReef (s : State) (xs : List (Nat × SMap Word)) (pl : Plan) : State :=
  pl.reef.foldl (fun s y => match reefOfTid xs (y.2.2.getD 22 0) with
    | some ws => (ws.zipIdx).foldl (fun s w => s.setReefW y.1.val y.2.1 w.2 w.1) s
    | none => s) s

/-- A new plan takes the place of the old one: the image of ER comes back at the old homes, the plan's parts are loaded, `moved`
brings the state pages that come to new homes, and the Reef entries move by their `TID` (R445). The groups that protect ER count until
an epoch commits under the new ones (R446). -/
def replan (s : State) (p : Nat) (j : Job) (pl : Plan) (x : Place) (er : Word) (moved : Option Rebuilt) : State :=
  let gone := (s.part p).lost
  let groups := s.groupsOf p j
  let s := if s.epochC = er ∧ er ≠ noEpoch then s.pagesBack p er (match moved with
      | some (.chunks mends) => some (.chunks mends)
      | _ => none) else s
  let head := s.capture p er
  let s := s.modPart p fun y => { y with plan := some pl, place := x, pages := pl.pages }
  let s := (((s.loadPlan p j pl).refreshWcopies).recapture p { head with reef := [] }).moveReef head.reef pl
  let s := match moved with
    | some (.image pages from_) =>
      let mine := pages.filter fun (x : Nat × List Byte) => pl.pages.contains (x.1 / pageBytes) && pl.pages.contains ((x.1 + x.2.length - 1) / pageBytes)
      let s := ((mine.foldl (fun (s : State) (x : Nat × List Byte) => s.store x.1 x.2) s).recapture p { from_ with reef := [] }).moveReef
        (head.reef ++ from_.reef) pl
      if gone = [] then s else s.setFlag .RES_SNAP_STATUS 0 28
    | _ => s
  let s := ((s.resetHalyards p).resetFlags p).restartNorms
  let s := s.modPart p fun y => { y with
    job := some { j with members := j.members.filter fun d => !gone.contains d }
    lost := [], replanDue := false, constDue := true, epochDue := true, restoreDue := false, holdRestore := false, rec0 := none, rec1 := none
    buf0 := none, buf1 := none, inputHold := x.input.isSome, group := s.fld .RES_SNAP_CTRL 0 23 20, old := some groups
    updated := false, timedOut := false, rejoin := false }
  let s := (s.wr .PLC_STEP p er).setJobState p 4
  ((s.writeJobRec p).startChanters p).eventVector p

/-- REPLANNING ends: the members settle ER, the plan is computed and compared, and the job runs by it from ER, or fails with PEER_LOST,
or with the mismatch reported (R379 to R381, R436, R446). `pulls` and `consts` are the chunks that this device pulls for its share in
the rebuilding. -/
def replanRebuild (s : State) (p : Nat) (f : PlanFacts) (others : Word) (x : Brought) : State :=
  match (s.part p).job with
  | none => s
  | some j =>
    if s.jobState p ≠ 6 then s
    else match s.place p j f with
      | .placed pl y =>
        if s.lossFatal p then (s.endJob p 9 .peerLost).eventVector p
        else if !maxAgrees y.digest x.digests then ((s.setFlag .PLC_STATUS p 26).endJob p 9 .versionMismatch).eventVector p
        else
          let er := maxEpoch s.epochC others
          ((s.settleEpoch p er .peerLost).rebuildShares p er x.shares.pages x.shares.consts).replan p j pl y er x.moved
      | .failed _ => (s.endJob p 9 .peerLost).eventVector p
      | .waits => s

/-! Mastheads and the tray (R466 to R469, R543). -/

/-- A Masthead sends its heartbeat to each other Masthead. -/
def mastBeat (s : State) (d : Nat) : State :=
  if !(s.die d).mast.running ∨ s.chip.fencedDies.getLsbD d ∨ s.chip.fw.isNone then s
  else
    let s := s.modDie d fun x => { x with mast := { x.mast with missed := 0 } }
    ((List.range 4).filter fun k => k != d).foldl (fun s k => s.emit (.heartbeat d k)) s

/-- A heartbeat period of a Masthead passes without its heartbeat; after three it is marked failed (R466): the standby
takes over from the primary, or the primary restarts the others (R467, R468). -/
def mastSilent (s : State) (d : Nat) : State :=
  if !(s.die d).mast.running ∨ s.chip.fencedDies.getLsbD d ∨ s.chip.fw.isNone then s
  else if (s.die d).mast.missed + 1 < 3 then s.modDie d fun x => { x with mast := { x.mast with missed := x.mast.missed + 1 } }
  else if d = s.primary then
    let b := 2 - d
    if s.standbyRuns then (s.countSat .MGT_WD_FIRE 0 1).takeover b
    else s.modDie d fun x => { x with mast := { x.mast with running := false, missed := 0 } }
  else ((s.countSat .MGT_WD_FIRE 0 1).mastDown d).setFlag .MGT_STATUS 0 29

/-- A Masthead's restart is over: it runs, or, having failed its start tests twice in a row, stays down (R468). -/
def mastRestarted (s : State) (d : Nat) (pass : Bool) : State :=
  if (s.die d).mast.running ∨ s.chip.fencedDies.getLsbD d ∨ s.chip.fw.isNone ∨ 2 ≤ (s.die d).mast.fails then s
  else if pass then s.mastUp d
  else
    let s := s.modDie d fun x => { x with mast := { x.mast with fails := x.mast.fails + 1 } }
    if (s.die d).mast.fails < 2 then s
    else if d = 0 then s.enter ⟨4, 0x0B, 0, 7⟩
    else s.drainClusters (dieMask d)

/-- Does the tray count heartbeats in this state (R543)? -/
def trayCounts (s : State) : Bool := [2, 3, 5].contains s.trayState

/-- The heartbeat to the tray (R543). -/
def trayBeat (s : State) : State :=
  if !s.trayCounts || (!s.inMrm && !(s.die s.primary).mast.running) then s
  else
    let n := (s.chip.hbSeq + 1) % 256
    let s := s.modChip fun c => { c with hbSeq := n }
    if s.chip.events && s.chip.dynAddr.isSome then s.emit (.ibi 0xA0 n) else s

/-- Three heartbeats missed (R469). -/
def traySilent (s : State) : State := if s.trayCounts then s.emit .powerCycle else s

/-- A write of `MGT_RESET_CMD` (R458, R473). -/
def resetCmd (s : State) (v : Word) : State :=
  let level := bits v 31 28
  let unit := bits v 27 20
  if s.recovering ∨ level = 0 ∨ 4 < level ∨ (level = 3 ∧ 32 ≤ unit) then s
  else s.enter ⟨level, 0x0E, unit, 7⟩

end State

end Sys2Proof.Machine
end

