-- ==== Sys2Proof/Machine/Maint.lean ====
section
/-!
DEFINITION. Epochs as rows, and maintenance: drains, readmissions, fences and the firmware hand-over
(16_resilience_snapshots.md R431 to R435, R447 to R451; 19 R508).
-/

namespace Sys2Proof.Machine

/-- Why an epoch in progress stops: a collective of the epoch that ends with `PEER_LOST`, or with `TIMEOUT` (R435). -/
def stopStatus (lost : Bool) : Status := if lost then .peerLost else .timeout

namespace State

/-! Epochs (R431 to R435). -/

/-- Protected pages are put into the slot, by writes like any other, and lose their protection (R297, R302, R315, R431,
R432). -/
def copyPages (s : State) (pgs : List Nat) : State :=
  let m := pgs.foldl (fun m pg => m.copyInto s.mem (pageBytes * pg) (s.slotPage pg) pageBytes) s.mem
  let s := s.snapCommit m (pgs.map fun pg => (s.slotPage pg, pageBytes))
  { s with snap := { s.snap with prot := s.snap.prot.filter fun pg => !pgs.contains pg } }

/-- A held write's page is copied ahead of its order; the write was held for some cycles (R432). -/
def touchCopy (s : State) (page cycles : Nat) : State :=
  if !s.snap.prot.contains page then s
  else ((s.copyPages [page]).countSat .RES_TOUCH_COUNT 0 1).countSat .RES_TOUCH_STALL 0 cycles

/-- The background copy puts every page that is still protected into the slot. -/
def copyRest (s : State) : State := s.copyPages s.snap.prot

/-- The members of the job whose epoch is in progress. -/
def epochMembers (s : State) : Nat := match (s.part s.snap.part).job with
  | some j => j.members.length
  | none => 0

/-- The constant pages are put where they are kept, once under a plan, in its first epoch (R429, R430). -/
def copyConsts (s : State) : State :=
  match (s.part s.snap.part).plan with
  | some pl =>
    if (s.part s.snap.part).constDue then
      let x := pl.consts.zipIdx
      let m := x.foldl (fun m y => m.copyInto s.mem (pageBytes * y.1) (pl.constAt + pageBytes * y.2) pageBytes) s.mem
      s.snapCommit m (x.map fun y => (pl.constAt + pageBytes * y.2, pageBytes))
    else s
  | none => s

/-- Every chunk of an image of `pages` pages at `base` goes to its member: chunk c to position (i + 1 + c) mod g (R433). -/
def sendChunks (s : State) (consts : Bool) (base pages : Nat) (counts : List Nat) : State :=
  let g := s.parityGroup s.snap.part
  let n := g.1.length
  (List.range (n - 1)).foldl (fun s c => s.emit (.chunk s.snap.part s.snap.epoch (g.1.getD ((g.2 + 1 + c) % n) 0) c consts
    (s.mem.chunk base (pageBytes * pages) (pageBytes * chunkPages g.1 counts) c))) s

/-- The chunks of a job that keeps parity go out (R433). -/
def encodeBegun (s : State) : State :=
  match (s.part s.snap.part).plan with
  | some pl =>
    if s.epochMembers < 4 then s
    else
      let s := s.sendChunks false (s.slotBase s.snap.part s.snap.slot) pl.pages.length (pl.images.map fun x => x.1)
      if (s.part s.snap.part).constDue then s.sendChunks true pl.constAt pl.consts.length (pl.images.map fun x => x.2) else s
  | none => s

/-- COPY is over: ENCODE, in which the chunks go out when the job keeps parity (R433, R435). -/
def copyDone (s : State) (stop : Option Bool) : State :=
  if s.epochState ≠ 2 then s
  else match stop with
    | some lost => s.discardEpoch (stopStatus lost)
    | none =>
      let s := s.copyRest.copyConsts
      if s.snap.refused then s.discardEpoch .faultAddress else (s.setEpochState 3).encodeBegun

/-- The g − 1 chunks that came for a Parity Slot, of `counts` pages by rank, make it up (R433). -/
def keepParity (s : State) (base : Nat) (counts : List Nat) (chunks : List (List (Nat × Byte))) : State :=
  let len := pageBytes * chunkPages (s.parityGroup s.snap.part).1 counts
  s.snapCommit (s.mem.xorAll base len chunks) [(base, len)]

/-- Is ENCODE over: did every one of the g − 1 chunks come, and of the constant pages' when they are captured (R435)? -/
def encodeOver (s : State) (chunks consts : List (List (Nat × Byte))) : Bool :=
  let n := (s.parityGroup s.snap.part).1.length
  decide (s.epochMembers < 4) || (decide (chunks.length + 1 = n)
    && (!(s.part s.snap.part).constDue || decide (consts.length + 1 = n)))

/-- ENCODE is over: the Parity Slot holds the chunks of the other members, and Stay 10 records the epoch (R433, R435). -/
def encodeDone (s : State) (chunks consts : List (List (Nat × Byte))) (stop : Option Bool) : State :=
  if s.epochState ≠ 3 then s
  else match stop with
    | some lost => s.discardEpoch (stopStatus lost)
    | none =>
      if !s.encodeOver chunks consts then s
      else
        let s := match (s.part s.snap.part).plan with
          | some pl =>
            if s.epochMembers < 4 then s
            else
              let s := s.keepParity (if s.snap.slot then pl.parity1 else pl.parity0) (pl.images.map fun (x : Nat × Nat) => x.1) chunks
              if (s.part s.snap.part).constDue then s.keepParity pl.constParity (pl.images.map fun (x : Nat × Nat) => x.2) consts else s
          | none => s
        if s.snap.refused then s.discardEpoch .faultAddress else (s.setEpochReg 10 s.snap.epoch).setEpochState 4

/-- The commit collective completes (R435 orders 4 and 5). -/
def commitDone (s : State) (stop : Option Bool) : State :=
  if s.epochState ≠ 4 then s
  else match stop with
    | some lost => s.discardEpoch (stopStatus lost)
    | none => (s.setEpochState 5).commitEpoch s.snap.part s.snap.epoch

/-! Maintenance (R447 to R451, R454). -/

/-- Maintenance ends with a status. -/
def maintDone (s : State) (st : Status) : State :=
  (s.modRecov fun x => { x with maint := none }).setFld .RES_MAINT_STATUS 0 31 24 st.num

/-- A write of `RES_MAINT_CMD` that reaches the block while nothing runs. -/
def maintCmd (s : State) (req : Req) (f : State → State) : State :=
  if s.reaches req .RES 0 0x60 && s.recov.maint.isNone then f s else s

/-- A pseudo-channel's recalibration, whose contents are kept (R447, R448). -/
def recalibrate (s : State) (stack pc cycles : Nat) : State :=
  if 24 ≤ stack then s else ((s.countSat .MEM_HOLD_COUNT stack cycles).calibrated [(stack, pc)]).maintDone .ok

/-- Moasozil starts one on its own, while no maintenance runs (R448). -/
def recalOwn (s : State) (stack pc cycles : Nat) : State :=
  if s.chip.start = .none ∧ s.chip.fw.isSome ∧ (s.die s.primary).mast.running ∧ s.recov.maint.isNone then s.recalibrate stack pc cycles
  else s

/-- A pseudo-channel's die has drifted 10 °C since its calibration (R448). -/
def drifted (s : State) (stack pc : Nat) : Bool :=
  decide (10 ≤ (s.dieTemp (stack / 6) - SMap.get 0 s.recov.calTemp (32 * stack + pc)).natAbs)

/-- Clusters and dies that an operation names. -/
def Maint.mask (m : Maint) : Word := if m.op < 5 then BitVec.ofNat 32 (2 ^ m.unit) else dieMask m.die
def Maint.dies (m : Maint) : Nat := if m.op < 5 then 0 else 2 ^ m.die

/-- A unit is fenced, for good (R451). -/
def fenceUnits (s : State) (m : Maint) : State :=
  let s := (s.recordFence (Maint.mask m) (Maint.dies m)).wr .RES_FENCED 0 (s.rd .RES_FENCED 0 ||| Maint.mask m)
  s.modChip fun c => { c with fencedDies := c.fencedDies ||| BitVec.ofNat 4 (Maint.dies m) }

/-- The hand-over's checks: the image that the other slot holds, and the Hand-over Block's format (R449, R505, R508). -/
def handOverFails (s : State) (other : Bool) : Option Status :=
  let img := s.slotImage other
  if (s.slotOrder other).isNone then some .authFail
  else match s.imageFails img none with
    | some st => some st
    | none => match s.chip.fw with
      | none => some .faultAddress
      | some f =>
        if leB img 18 1 ≤ f.hoMax ∧ f.hoMax ≤ leB img 19 1 then
          (if s.standbyRuns || s.primary != 0 then none else some .faultAddress)
        else some .versionMismatch

/-- The hand-over: every Masthead that runs restarts on the other slot's image, and die 0 is primary (R449). -/
def handOver (s : State) : State :=
  let other := !s.flag .SEC_STATUS 0 24
  match s.handOverFails other with
  | some st => s.maintDone st
  | none =>
    let img := s.slotImage other
    let s := if s.primary = 0 then s else (s.moveLog s.primary 0).setPrimary 0
    let s := s.secStatus other (imgSvn img) (s.slotOk !other)
    let s := s.modChip fun c => { c with
      fw := some { svn := imgSvn img, hoMin := leB img 18 1, hoMax := leB img 19 1, digest := sliceB img 32 64 } }
    let s := (List.range 4).foldl (fun s d => if (s.die d).mast.running then
      s.modDie d fun x => { x with ctl := Memory.wrN (x.ctl.filter fun b => decide (logAt ≤ b.1)) 0 (img.drop 512) }
      else s) s
    s.maintDone .ok

/-- Maintenance that has waited goes on: a hand-over for the epoch in progress, the others for their re-plan (R437,
R450). -/
def maintSettle (s : State) : State :=
  match s.recov.maint with
  | none => s
  | some m =>
    if m.op = 8 then (if s.epochState = 0 then s.handOver else s)
    else if !s.drainOver then s
    else (if m.op = 4 ∨ m.op = 7 then s.fenceUnits m else s).maintDone .ok

/-- A drain or a fence: the unit leaves the mask, and jobs are planned again. Die 0 can be neither drained nor fenced. -/
def drainUnit (s : State) (m : Maint) : State :=
  if 5 ≤ m.op ∧ m.die = 0 then s.maintDone .faultAddress
  else ((s.modRecov fun x => { x with maint := some m }).drainClusters (Maint.mask m)).maintSettle

/-- A readmission: a part that passes its test returns by a forced epoch and a re-plan; one that fails is fenced. A part
that is fenced, or not drained, is not readmitted, and die 0, which is never drained, neither. -/
def readmitUnit (s : State) (m : Maint) (pass : Bool) : State :=
  let w := Maint.mask m
  if (5 ≤ m.op ∧ m.die = 0) ∨ s.rd .RES_FENCED 0 &&& w = w ∨ s.recov.drained &&& w = 0 then s.maintDone .faultAddress
  else if !pass then (s.fenceUnits m).maintDone .faultAddress
  else
    let s := ((List.range 32).filter fun c => bit w c && bit s.recov.drained c).foldl (fun s c => s.clearCluster c) s
    let s := s.modRecov fun x => { x with maint := some m, drained := x.drained &&& ~~~w }
    let s := (List.range 8).foldl (fun s p =>
      if s.stepping p ∧ s.rd .PLC_PART_CLUSTERS p &&& w ≠ 0 then s.modPart p fun x => { x with drainDue := true } else s) s
    s.maintSettle

end State

end Sys2Proof.Machine
end

