-- ==== Sys2Proof/Machine/LifeCycle.lean ====
section
/-!
DEFINITION. Recovery-mode commands, life-cycle changes, firmware slots and attestation
(18_reset_boot.md R491, R492, R495; 19_security_lifecycle.md R502 to R521).
-/

namespace Sys2Proof.Machine

namespace State

/-! Minimal Recovery Mode (R492, R495, R508). -/

/-- A write of `MGT_MRM_CMD` that reaches it in the mode. -/
def mrmCmd (s : State) (req : Req) (f : State → State) : State := if s.inMrm && s.reaches req .MGT 0 0x40 then f s else s

def mrmStatus (s : State) (st : Status) : State := s.setFld .MGT_MRM_STATUS 0 31 24 st.num

/-- Window 0 opens for a command. -/
def openMrm (s : State) (x : Nat × Nat × Nat) : State :=
  ((s.modChip fun c => { c with mrmWin := some x, mrmData := [], mrmOver := false }).mrmStatus .ok).setFlag .MGT_MRM_STATUS 0 1

/-- Window 0 closes with a status. -/
def closeMrm (s : State) (st : Status) : State :=
  ((s.modChip fun c => { c with mrmWin := none, mrmData := [], mrmOver := false }).mrmStatus st).clrFlag .MGT_MRM_STATUS 0 1

/-- UPDATE_BEGIN: the slot's record is erased and window 0 opens onto the slot; a length that no slot holds is refused. -/
def updateBegin (s : State) : State :=
  let arg := s.rd .MGT_MRM_ARG 0
  let len := 16 * bits arg 31 1
  if 0xFFF00 < len then s.mrmStatus .faultAddress
  else (s.flashWr (slotFlash (bit arg 0) + 0xFFF00) (List.replicate 256 0xFF#8)).openMrm (1, bits arg 0 0, len)

/-- UPDATE_END: the stream's length, then the image's checks; an image that passes gets its record. -/
def updateEnd (s : State) : State :=
  match s.chip.mrmWin with
  | some (1, slot, len) =>
    let b := slot == 1
    let img := s.chip.mrmData
    if s.chip.mrmOver ∨ img.length ≠ len then (s.flashWr (slotFlash b) img).closeMrm .faultAddress
    else match s.imageFails img (some (len / 16)) with
      | some st => (s.flashWr (slotFlash b) img).closeMrm st
      | none => (s.writeImage b img).closeMrm .ok
  | _ => s.mrmStatus .faultAddress

/-- OB_WRITE: window 0 opens for 512 bytes. -/
def obOpen (s : State) : State := s.openMrm (3, 0, 512)

/-- When the window of OB_WRITE has its 512 bytes it closes: a valid block is written by R481. -/
def obClose (s : State) : State :=
  match s.chip.mrmWin with
  | some (3, _, _) =>
    if s.chip.mrmData.length < 512 then s
    else if obValid s.chip.mrmData && !s.chip.mrmOver then (s.obWriteBlock s.chip.mrmData).closeMrm .ok
    else s.closeMrm .faultAddress
  | _ => s

/-- EXIT (R492, R544). -/
def mrmExit (s : State) : State :=
  (((s.setStartRec 27 24 0).modChip fun c => { c with mrmLatch := false }).resetBy 7 true).modChip fun c => { c with mrmStays := false }

/-! The SEC block's commands (R508, R509, R513 to R516, R521). -/

/-- A write of `SEC_CMD` that reaches the block. -/
def secCmd (s : State) (req : Req) (f : State → State) : State := if s.reaches req .SEC 0 0x2C then f s else s

def secResult (s : State) (st : Status) : State := s.setFld .SEC_RESULT 0 31 24 st.num

/-- A hand-over is under way (R508). -/
def handOverRuns (s : State) : Bool := s.recov.maint.any fun m => m.op == 8

/-- The image of WRITE_SLOT: its address in partition 0's HBM, and its length in 16-byte units. -/
def fwSrc (s : State) : Nat := s.fld .SEC_FW_SRC_LO 0 31 4 * 16 + s.fld .SEC_FW_SRC_HI 0 15 0 * 2 ^ 32

def writeSlot (s : State) : State :=
  let n := s.fld .SEC_FW_LEN 0 15 0
  let active := s.flag .SEC_STATUS 0 24
  if s.handOverRuns then s.secResult .slotBusy
  else if !s.inPartHbm 0 s.fwSrc (16 * n) then s.secResult .faultAddress
  else
    match s.imageFails (s.mem.rdN s.fwSrc (max 512 (16 * n))) (some n) with
    | some st => s.secResult st
    | none =>
      let s := s.writeImage (!active) (s.mem.rdN s.fwSrc (16 * n))
      (s.setFld .SEC_STATUS 0 23 23 (s.slotOk !active).toNat).secResult .ok

/-- The `n` lowest positions of the counter that are not set are burned. -/
def burnSvn (s : State) (n : Nat) : State :=
  (((List.range 128).filter fun i => !s.fuseSet (16 + i)).take n).foldl (fun s i => s.burn (16 + i)) s

def fwCommit (s : State) : State :=
  let svn := s.fld .SEC_STATUS 0 15 8
  let active := s.flag .SEC_STATUS 0 24
  if s.handOverRuns then s.secResult .slotBusy
  else if svn ≤ s.svnCtr then s.secResult .ok
  else if s.firstSlot ≠ some active then s.secResult .faultAddress
  else
    let s := s.burnSvn (svn - s.svnCtr)
    (s.secStatus active svn (s.slotOk !active)).secResult .ok

/-- What a transition of R513 asks for and burns: Tirbudin's signature, the owner's, and the positions. -/
structure Change where
  vendor : Bool
  owner : Bool
  burns : List Nat
  deriving DecidableEq, Repr

/-- The transition from the present state to a state code; a claim needs a free slot (R513). -/
def lcChangeOf (s : State) (to_ : Nat) : Option Change :=
  let live := (s.ownerSlot.map fun i => [6 + i]).getD []
  match s.lifeCycle, to_ with
  | 0, 1 => some ⟨true, false, [10]⟩
  | 1, 2 => s.freeOwner.map fun i => ⟨true, false, [2 + i]⟩
  | 2, 1 => some ⟨false, true, live⟩
  | 1, 3 => some ⟨true, false, [11]⟩
  | 2, 3 => some ⟨true, true, live ++ [11]⟩
  | 0, 4 => some ⟨true, false, [12]⟩
  | 1, 4 => some ⟨true, false, [12]⟩
  | 3, 4 => some ⟨true, false, [12]⟩
  | 2, 4 => some ⟨false, true, [12]⟩
  | _, _ => none

/-- The checks of R515 in order; the keys by which the signatures are to be checked come with the command. -/
def lcCheck (s : State) (vkey okey : List Byte) : Except Status Change :=
  let t := s.chip.token.rdN 0 512
  let target := leB t 4 1
  let nonce := [Reg.SEC_LC_NONCE0, .SEC_LC_NONCE1, .SEC_LC_NONCE2, .SEC_LC_NONCE3].flatMap fun r => natLe 4 (s.rd r 0).toNat
  let reserved := zeroB t 5 7 && zeroB t 113 127 && zeroB t 242 255 && zeroB t 370 511 && (target == 2 || zeroB t 56 112)
  if (List.range 8).any fun p => s.jobState p != 0 then .error .faultAddress
  else if leB t 0 4 ≠ 0x4B544847 ∨ !reserved then .error .versionMismatch
  else match s.lcChangeOf target with
    | none => .error .faultAddress
    | some x =>
      let v := s.vkeyKnown vkey && edVerify vkey (ascii "GH-LC") (t.take 128) (sliceB t 128 114)
      let o := s.ownerKeyKnown okey && edVerify okey (ascii "GH-LC") (t.take 128) (sliceB t 256 114)
      let serial := (s.chip.serial ++ List.replicate 32 0).take 32
      if sliceB t 8 32 = serial ∧ sliceB t 40 16 = nonce ∧ (!x.vendor || v) ∧ (!x.owner || o) then .ok x
      else .error .authFail

/-- The burn of a passed check: a claim writes the owner key's hash before its set flag (R513). -/
def lcBurn (s : State) (x : Change) : State :=
  let key := s.chip.token.rdN 56 57
  x.burns.foldl (fun s k =>
    let s := if 2 ≤ k ∧ k < 6 then
        s.modChip fun c => { c with otp := { c.otp with hash := SMap.set 0 c.otp.hash k (BitVec.ofNat 512 (leNat (shake256 64 key))) } }
      else s
    s.burn k) s

/-- LC_CHANGE: check, burn, wipe, restart (R515, R516). A tamper event comes during the check (false) or the burn. -/
def lcChange (s : State) (vkey okey : List Byte) (tamper : Option (Fin 4 × DieId × Bool)) (nonce : BitVec 128) : State :=
  match s.lcCheck vkey okey with
  | .error st =>
    let s := match tamper with
      | some (cause, die, _) => s.tamperTrip [(cause, die)]
      | none => s
    (s.newNonce nonce).secResult (if tamper.any fun y => !y.2.2 then .authFail else st)
  | .ok x =>
    let s' := match tamper with
      | some (cause, die, _) => s.tamperTrip [(cause, die)]
      | none => s
    if tamper.any fun y => !y.2.2 then (s'.newNonce nonce).secResult .authFail
    else
      let target := leB (s.chip.token.rdN 0 512) 4 1
      let s := ((s.lcBurn x).wipeSecure).secResult .ok
      s.resetBy 7 (target != 3 && target != 4)

/-! Attestation (R510, R511, R519). -/

/-- SPDM is served: by Moasozil from phase 7, by the ROM in Minimal Recovery Mode. -/
def spdmServed (s : State) : Bool := s.chip.start == .none && (s.inMrm || s.chip.fw.isSome)

/-- The certificates of slot 0 (R502, R510, R512): each DER element as it is stored; in BLANK the Alias certificate alone. -/
def certs (s : State) : List (List Byte) :=
  let own := SMap.get [] s.chip.aliasCerts 0
  if s.lifeCycle = 0 then [own] else [Config.caRoot, Config.caIssuer, derFront (s.flashRd 0x20000 4096), own]

/-- The certificate chain as SPDM presents it (R510; log entry 168): its length, the hash of its first certificate, and the certificates. -/
def certChain (s : State) : List Byte :=
  let all := s.certs.flatten
  natLe 2 (4 + 64 + all.length) ++ natLe 2 0 ++ sha3_512 (s.certs.headD []) ++ all

/-- `BODY_DIGEST` and `SVN` of a slot's image, or zeros when it holds no valid one. -/
def slotMeasure (s : State) (b : Bool) : List Byte :=
  if s.slotOk b then sliceB (s.slotHeader b) 32 64 ++ natLe 4 (imgSvn (s.slotHeader b)) else List.replicate 68 0

/-- A measurement block (R511). -/
def measure (s : State) (k : Nat) : Option (List Byte) :=
  let active := s.flag .SEC_STATUS 0 24
  if k = 1 then some (natLe 64 (Config.romDigest 0).toNat)
  else if k = 2 then some (match s.chip.fw with
    | some f => f.digest ++ natLe 4 f.svn
    | none => List.replicate 68 0)
  else if k = 3 then some (s.slotMeasure !active)
  else if k = 4 then some (match s.obUsed with
    | some c => sliceB (s.obCopy c) 448 64
    | none => List.replicate 64 0)
  else if k = 5 then some (natLe 1 s.lifeCycle ++ s.ownerHash)
  else if k = 6 then some (natLe 4 s.svnCtr)
  else if 7 ≤ k ∧ k ≤ 9 then some (((SMap.get [] s.chip.aliasKeys (k - 6)) ++ List.replicate 57 0).take 57)
  else if 16 ≤ k ∧ k ≤ 23 then some (match (s.part (k - 16)).job with
    | some j => if s.jobState (k - 16) = 0 then List.replicate 64 0 else j.digest
    | none => List.replicate 64 0)
  else none

def measureIndexes : List Nat := [1, 2, 3, 4, 5, 6, 7, 8, 9, 16, 17, 18, 19, 20, 21, 22, 23]

/-- A signature of a transcript by die 0's Alias key; the prefix that SPDM puts before the digest is not given here. -/
def spdmSign (s : State) (transcript : List Byte) : List Byte := edSign (s.seedOf 0) [] (sha3_512 transcript)

/-- There is no Alias key: signed answers are ERROR Unspecified. -/
def noId (s : State) : Bool := s.flag .SEC_STATUS 0 25

end State

/-! SPDM messages in DOE objects (R510). Their formats are those of the standards that R510 names (log entry 168). -/

/-- An SPDM message: version, code, two parameters, and what follows. -/
def spdmMsg (version : Byte) (code p1 p2 : Nat) (body : List Byte) : List Byte := version :: natLe 1 code ++ natLe 1 p1 ++ natLe 1 p2 ++ body

/-- A DOE data object of type CMA-SPDM: vendor 0x0001, type 1, length in doublewords, and the message padded to doublewords. -/
def doeObject (m : List Byte) : List Byte :=
  let n := ceilDiv m.length 4
  natLe 2 1 ++ natLe 1 1 ++ natLe 1 0 ++ natLe 4 (2 + n) ++ m ++ List.replicate (4 * n - m.length) 0

/-- `DataTransferSize` (R510). -/
def spdmMax : Nat := 4096

/-- The pieces of a response above `DataTransferSize`, each of which one chunk of that size carries: 4,080 bytes in the first, then 4,084. -/
def spdmPieces : Nat → List Byte → List (List Byte)
  | 0, _ => []
  | n + 1, m => if m = [] then [] else m.take 4084 :: spdmPieces n (m.drop 4084)

/-- What goes out for a response: itself, or its chunks in order. -/
def spdmChunks (m : List Byte) : List (List Byte) :=
  if m.length ≤ spdmMax then [m]
  else
    let v := m.headD 0
    let parts := m.take 4080 :: spdmPieces m.length (m.drop 4080)
    parts.zipIdx.map fun x => spdmMsg v 0x06 (if x.2 + 1 = parts.length then 1 else 0) 0
      (natLe 2 x.2 ++ natLe 2 0 ++ natLe 4 x.1.length ++ (if x.2 = 0 then natLe 4 m.length else []) ++ x.1)

namespace State

/-- A response goes out, in chunks where it is too large, and the signing state becomes `f` of the request's and the response's
bytes. A device that does not serve SPDM answers nothing. -/
def spdmReply (s : State) (name : String) (req m : List Byte) (f : Spdm → List Byte → Spdm) : State :=
  if s.spdmServed then
    ((spdmChunks m).foldl (fun s x => s.emit (.spdm name (doeObject x))) s).modChip fun c => { c with spdm := f c.spdm (req ++ m) }
  else s

/-- Bytes of a request that its row does not carry: a free value. -/
def spdmFree (s : State) : State × List Byte := ({ s with fresh := s.fresh + 1 }, Config.spdmRequest s.fresh)

/-- The answer to a request whose row carries no bytes. -/
def spdmAnswer (s : State) (name : String) (code p1 p2 : Nat) (body : List Byte) (f : Spdm → List Byte → Spdm) : State :=
  if s.spdmServed then
    let r := s.spdmFree
    r.1.spdmReply name r.2 (spdmMsg Config.spdmVersion code p1 p2 body) f
  else s

/-- ERROR with a code; it leaves the signing state. -/
def spdmError (s : State) (name : String) (code extra : Nat) : State :=
  s.spdmReply name [] (spdmMsg Config.spdmVersion 0x7F code extra []) fun x _ => x

/-- A measurement block of an index as a raw bit stream: index, specification DMTF, size, type, size, value. -/
def measureBlock (k : Nat) (v : List Byte) : List Byte :=
  natLe 1 k ++ natLe 1 1 ++ natLe 2 (v.length + 3) ++ natLe 1 0x80 ++ natLe 2 v.length ++ v

/-- A new nonce of 32 bytes: free. -/
def spdmNonce (s : State) : State × List Byte :=
  (List.range 8).foldl (fun x _ => let r := x.1.drawWord; (r.1, x.2 ++ natLe 4 r.2.toNat)) (s, [])

/-- Every measurement block. -/
def allBlocks (s : State) : List Byte := measureIndexes.flatMap fun k => match s.measure k with
  | some v => measureBlock k v
  | none => []

/-- What version 1.3 returns of a request at an offset: its context. -/
def spdmContext (req : List Byte) (o : Nat) : List Byte := if leB req 0 1 = 0x13 then sliceB req o 8 else []

/-- CHALLENGE, `req` being the request (R510): signed over what is kept, the request and the answer. -/
def spdmChallenge (s : State) (req : List Byte) : State :=
  if leB req 2 1 ≠ 0 then s.spdmError "ERROR InvalidRequest" 0x01 0
  else if s.noId then s.spdmError "ERROR Unspecified" 0x05 0
  else
    let r := s.spdmNonce
    let summary := if leB req 3 1 = 0 then [] else sha3_512 r.1.allBlocks
    let m := spdmMsg (req.headD 0) 0x03 0 1 (sha3_512 s.certChain ++ r.2 ++ summary ++ natLe 2 0 ++ spdmContext req 36)
    let x := s.chip.spdm
    if s.spdmServed then
      r.1.spdmReply "CHALLENGE_AUTH" req (m ++ s.spdmSign (x.vca ++ x.certs ++ req ++ m)) fun y _ => { y with certs := [], meas := [] }
    else s

/-- GET_MEASUREMENTS, `req` being the request (R510, R511): index 0 asks for the number of blocks, 0xFF for all of them. -/
def spdmMeasure (s : State) (index : Nat) (signed : Bool) (req : List Byte) : State :=
  let blocks : Option (Nat × List Byte) :=
    if index = 0 then some (0, [])
    else if index = 0xFF then some (measureIndexes.length, s.allBlocks)
    else (s.measure index).map fun v => (1, measureBlock index v)
  if signed && s.noId then s.spdmError "ERROR Unspecified" 0x05 0
  else match blocks with
    | none => s.spdmError "ERROR InvalidRequest" 0x01 0
    | some (n, b) =>
      let r := s.spdmNonce
      let m := spdmMsg (req.headD 0) 0x60 (if index = 0 then measureIndexes.length else 0) 0
        (natLe 1 n ++ natLe 3 b.length ++ b ++ r.2 ++ natLe 2 0 ++ spdmContext req 37)
      let x := s.chip.spdm
      if !s.spdmServed then s
      else if signed then
        r.1.spdmReply "MEASUREMENTS" req (m ++ s.spdmSign (x.vca ++ x.meas ++ req ++ m)) fun y _ => { y with meas := [] }
      else r.1.spdmReply "MEASUREMENTS" req m fun y bs => { y with meas := y.meas ++ bs }

end State

end Sys2Proof.Machine
end

