-- ==== Sys2Proof/Machine/ExecHost.lean ====
section
/-!
DEFINITION. The host's rows: ring entries, doorbells, fetches, completions, windows, vectors and function resets
(15_host_interface.md R396 to R419; 14 R378 to R386).
-/

namespace Sys2Proof.Machine

def execHostNop (ring : Fin 256) (s : State) : Host.Outcome State Fault Refusal :=
  .next (s.actEntry ring 0x00 fun s _ e => s.completePlain ring e .ok)

/-- JOB_SUBMIT with the checks of R378 on the image's major and lowest minor (R229) and its weight-gradient reductions. -/
def execJobSubmit (ring : Fin 256) (ver : Nat × Nat) (wg : List Nat) (s : State) : Host.Outcome State Fault Refusal :=
  .next (s.actEntry ring 0x01 fun s fn e => s.jobSubmit ring fn e ver wg)

def execPlanCompute (p : PartId) (facts : PlanFacts) (s : State) : Host.Outcome State Fault Refusal :=
  .next (s.planCompute p facts)

def execPlanAgreement (p : PartId) (others : List DWord) (s : State) : Host.Outcome State Fault Refusal :=
  .next (s.planAgreement p others)

def execJobStart (ring : Fin 256) (s : State) : Host.Outcome State Fault Refusal :=
  .next (s.actEntry ring 0x02 fun s fn e => s.jobStart ring fn e)

def execJobStop (ring : Fin 256) (s : State) : Host.Outcome State Fault Refusal :=
  .next (s.actEntry ring 0x03 fun s fn e => s.jobStop ring fn e)

def execJobAbort (ring : Fin 256) (s : State) : Host.Outcome State Fault Refusal :=
  .next (s.actEntry ring 0x04 fun s fn e => s.jobAbort ring fn e)

def execJobRelease (ring : Fin 256) (s : State) : Host.Outcome State Fault Refusal :=
  .next (s.actEntry ring 0x05 fun s fn e => s.jobRelease ring fn e)

def execPortOpen (ring : Fin 256) (s : State) : Host.Outcome State Fault Refusal :=
  .next (s.actEntry ring 0x10 fun s fn e => s.portOpen ring fn e)

def execPortClose (ring : Fin 256) (s : State) : Host.Outcome State Fault Refusal :=
  .next (s.actEntry ring 0x11 fun s fn e => s.portClose ring fn e)

def execHostwinGrant (ring : Fin 256) (s : State) : Host.Outcome State Fault Refusal :=
  .next (s.actEntry ring 0x20 fun s fn e => s.hostwinGrant ring fn e)

def execHostwinRevoke (ring : Fin 256) (s : State) : Host.Outcome State Fault Refusal :=
  .next (s.actEntry ring 0x21 fun s fn e => s.hostwinRevoke ring fn e)

def execSqTailDoorbell (fn : FnId) (i : Fin 256) (acc : Bar2) (s : State) : Host.Outcome State Fault Refusal :=
  .next (s.atFn fn fun s => s.bar2 fn i false acc)

def execCqHeadDoorbell (fn : FnId) (i : Fin 256) (acc : Bar2) (s : State) : Host.Outcome State Fault Refusal :=
  .next (s.atFn fn fun s => s.bar2 fn i true acc)

def execEntryFetch (bytes : List Byte) (err : Bool) (s : State) : Host.Outcome State Fault Refusal :=
  .next (s.entryFetch bytes err)

def execCompletionWrite (ring : Fin 256) (s : State) : Host.Outcome State Fault Refusal := .next (s.writeCompl ring)

def execCoalesceTimer (ring : Fin 256) (s : State) : Host.Outcome State Fault Refusal := .next (s.coalesceTimer ring)

def execWindowWriteTlp (fn : FnId) (w : Fin 16) (data : List Byte) (poisoned : Bool) (s : State) :
    Host.Outcome State Fault Refusal :=
  .next (s.atFn fn fun s => (s.windowWrite fn w data poisoned).obClose)

def execWindowReadTlp (fn : FnId) (w : Fin 16) (n : Nat) (s : State) : Host.Outcome State Fault Refusal :=
  .next (s.atFn fn fun s => s.windowRead fn w n)

/-- A write of `RP_CFG` of a local ring pair by a requester that reaches it. -/
def ringCfg (s : State) (req : Req) (fn i : Nat) (v : Word) : State :=
  match s.localRing fn i with
  | none => s
  | some k => if s.reaches req .RP k 0 then s.rpCfgWrite k v else s

/-- `RP_CFG` is written with `EN` 1; `v` gives the other fields. -/
def execRingEnable (req : Req) (fn : FnId) (i : Fin 256) (v : Word) (s : State) : Host.Outcome State Fault Refusal :=
  .next (ringCfg s req fn i (setBit v 31))

/-- `RP_CFG` is written with `EN` 0; `v` gives the other fields. -/
def execRingDisable (req : Req) (fn : FnId) (i : Fin 256) (v : Word) (s : State) : Host.Outcome State Fault Refusal :=
  .next (ringCfg s req fn i (setBits v 31 31 0))

/-- A write of `HIF_FN_RINGS` or, with `ports`, of `HIF_FN_PORTS`. -/
def execFnRangeWrite (req : Req) (ports : Bool) (v : Word) (s : State) : Host.Outcome State Fault Refusal :=
  .next (if s.reaches req .HIF 0 0x14 then s.fnRangeWrite (bits (s.sel req .HIF_FN_SEL 0) 2 0) ports v else s)

/-- Function Level Reset of VF `n + 1`. -/
def execFlrVf (n : Fin 7) (s : State) : Host.Outcome State Fault Refusal := .next (s.atFn (n.val + 1) fun s => s.flr (n.val + 1))

/-- Function Level Reset of PF0, which clears VF Enable. -/
def execFlrPf0 (s : State) : Host.Outcome State Fault Refusal := .next (s.flr 0).clearVfs

def execVfEnableClear (s : State) : Host.Outcome State Fault Refusal := .next s.clearVfs

/-- Bit 0 of a vector's control word is written 0 (R417). -/
def execMsixUnmask (fn : FnId) (v : Fin 256) (s : State) : Host.Outcome State Fault Refusal := .next (s.atBlock .FN fn 0x8000 fun s => s.unmask fn v)

end Sys2Proof.Machine
end

