-- ==== Sys2Proof/Machine/ExecPower.lean ====
section
/-!
DEFINITION. The governor's events, the tray bus, and register accesses without a row of their own: the rows
(20_module_power_cooling.md R527 to R551; 00 R7 to R9; 21 R552 to R558).
-/

namespace Sys2Proof.Machine

namespace State

/-- An event of the governor: nothing happens in a device that is held or has no rails. -/
def governed (s : State) (f : State → State) : State :=
  if s.chip.start = .none then f s else s

/-! TRAY_I3C (R541 to R544). The target answers from the moment the AON rail is up. -/

/-- A command of the bus reaches the target. -/
def i3c (s : State) (f : State → State) : State := if s.chip.start = .off then s else f s

/-- A command to the target's dynamic address. -/
def i3cTo (s : State) (addr : Nat) (f : State → State) : State :=
  s.i3c fun s => if s.chip.dynAddr = some addr then f s else s

/-- A private write: the offset, then bytes from there upward. -/
def i3cWrite (s : State) (data : List Byte) : State :=
  match data with
  | [] => s
  | o :: bs =>
    let s := s.modChip fun c => { c with offset := o.toNat }
    (bs.zipIdx).foldl (fun s x => s.trayWrite (o.toNat + x.2) x.1) s

/-- A private read of `n` bytes from the last offset written, which stays. -/
def i3cRead (s : State) (n : Nat) : State := s.emit (.i3c ((List.range n).map fun k => s.trayByte ((s.chip.offset + k) % 256)))

end State

def execGovernorLoop (x : Sense) (s : State) : Host.Outcome State Fault Refusal := .next (s.governed fun s => s.governorLoop x)

def execTransientLimit (s : State) : Host.Outcome State Fault Refusal := .next (s.governed State.transientLimit)

/-- `want`: by die, the duty that brings power below the envelope. -/
def execEnvelopeOverrun (want : List Nat) (s : State) : Host.Outcome State Fault Refusal :=
  .next (s.governed fun s => s.envelopeOverrun want)

def execClockStep (die : DieId) (up : Bool) (s : State) : Host.Outcome State Fault Refusal :=
  .next (s.governed fun s => s.clockStep die up)

/-- The brake is sampled in the AON domain. -/
def execBrakeAssert (s : State) : Host.Outcome State Fault Refusal := .next (s.i3c State.brakeAssert)

def execBrakeRelease (s : State) : Host.Outcome State Fault Refusal := .next (s.i3c State.brakeRelease)

def execVinLow (s : State) : Host.Outcome State Fault Refusal := .next (s.governed fun s => s.setFlag .PWR_STATUS 0 28)

def execPwrCtrlWrite (req : Req) (v : Word) (s : State) : Host.Outcome State Fault Refusal :=
  .next (if s.reaches req .PWR 0 0x10 then s.pwrCtrlWrite v else s)

/-- A private write to address `addr`. -/
def execI3cPrivateWrite (addr : Nat) (data : List Byte) (s : State) : Host.Outcome State Fault Refusal :=
  .next (s.i3cTo addr fun s => s.i3cWrite data)

def execI3cPrivateRead (addr n : Nat) (s : State) : Host.Outcome State Fault Refusal :=
  .next (s.i3cTo addr fun s => s.i3cRead n)

def execReqMrm (s : State) : Host.Outcome State Fault Refusal := .next (s.i3c fun s => s.setMrmLatch true)

def execClrMrm (s : State) : Host.Outcome State Fault Refusal := .next (s.i3c fun s => s.setMrmLatch false)

def execEnec (s : State) : Host.Outcome State Fault Refusal :=
  .next (s.i3c fun s => s.modChip fun c => { c with events := true })

def execDisec (s : State) : Host.Outcome State Fault Refusal :=
  .next (s.i3c fun s => s.modChip fun c => { c with events := false })

def execRstdaa (s : State) : Host.Outcome State Fault Refusal :=
  .next (s.i3c fun s => s.modChip fun c => { c with dynAddr := none })

/-- SETDASA to a static address assigns `addr`. -/
def execSetdasa (static addr : Nat) (s : State) : Host.Outcome State Fault Refusal :=
  .next (s.i3c fun s => if static = 0x50 + s.fld .PWR_SENSE 0 3 0 ∧ s.chip.dynAddr.isNone then
    s.modChip fun c => { c with dynAddr := some addr } else s)

/-- ENTDAA assigns `addr` to a target that has no dynamic address. -/
def execEntdaa (addr : Nat) (s : State) : Host.Outcome State Fault Refusal :=
  .next (s.i3c fun s => if s.chip.dynAddr.isNone then s.modChip fun c => { c with dynAddr := some addr } else s)

def execGetstatus (addr : Nat) (s : State) : Host.Outcome State Fault Refusal :=
  .next (s.i3cTo addr fun s => s.emit (.i3c Config.i3cStatus))

def execGetbcr (addr : Nat) (s : State) : Host.Outcome State Fault Refusal :=
  .next (s.i3cTo addr fun s => s.emit (.i3c Config.i3cBcr))

def execGetdcr (addr : Nat) (s : State) : Host.Outcome State Fault Refusal :=
  .next (s.i3cTo addr fun s => s.emit (.i3c Config.i3cDcr))

def execGetpid (addr : Nat) (s : State) : Host.Outcome State Fault Refusal :=
  .next (s.i3cTo addr fun s => s.emit (.i3c Config.i3cPid))

/-- A BAR0 read of `size` bytes at an offset: its value goes out, and RC fields clear (R7, R555). -/
def execRcFieldRead (req : Req) (a : BarAt) (s : State) : Host.Outcome State Fault Refusal := .next (s.barReadOf req a.off a.size)

/-- A BAR0 write of `size` bytes at an offset (R7, R8, R555). -/
def execRegisterWrite (req : Req) (a : BarAt) (v : DWord) (s : State) : Host.Outcome State Fault Refusal :=
  .next (s.barWriteOf req a.off a.size v)

end Sys2Proof.Machine
end

