-- ==== Sys2Proof/Machine/ExecRecover.lean ====
section
/-!
DEFINITION. Watchdogs, resets by level, replays, Mastheads and the rejoin: the rows (17_hang_recovery.md R455 to R474).
-/

namespace Sys2Proof.Machine

namespace State

/-- Time in which the Queue and Dispatch watchdogs of a cluster count (R455). -/
def queueCounts (s : State) (c : Nat) : Bool :=
  let p := s.partOf c
  s.running c && s.jobState p != 5 && !s.stepHeld p

/-- The timer of R251 runs for the head of a queue. -/
def waitTimerRuns (s : State) (core eng : Nat) : Bool :=
  match s.blockedWait core eng with
  | some w => s.fld .SHR_CTRL (clOfCore core) 31 16 != 0 && !s.flagClosed core w
  | none => false

/-- Cores whose full queue holds a dispatch. -/
def heldCores (s : State) (c : Nat) : List Nat :=
  match (s.chn c).held with
  | none => []
  | some d => ((selected d.word).map fun i => 8 * c + i).filter fun k => decide (64 ≤ (s.q k (routeOf d.word)).items.length)

end State

/-- An instruction has issued in the engine and is not done (R455). -/
def execEngineWatchdog (core : CoreId) (eng : Eng) (s : State) : Host.Outcome State Fault Refusal :=
  .next (if (s.q core eng.num).flight.any fun f => !f.done then s.fire ⟨2, 0x01, core, eng.num⟩ else s)

/-- A miss register or a transfer tag waits (R290, R455); `eng` is the engine that holds it. -/
def execMemoryRequestWatchdog (core : CoreId) (eng : Eng) (s : State) : Host.Outcome State Fault Refusal :=
  .next (if (s.core core).miss ≠ [] ∨ ((s.q core eng.num).flight.any fun f => f.waits != [] || f.segs != []) then s.fire ⟨2, 0x02, core, eng.num⟩
    else s)

/-- A head has not issued (R455). -/
def execQueueWatchdog (core : CoreId) (eng : Eng) (s : State) : Host.Outcome State Fault Refusal :=
  .next (if (s.headOf core eng.num).isSome && s.queueCounts (clOfCore core) && (s.core core).hold.isNone
      && !s.waitTimerRuns core eng.num then s.fire ⟨1, 0x03, core, eng.num⟩ else s)

/-- A dispatch is held: the fault is of the first core whose queue is full (R195, R455). -/
def execDispatchWatchdog (c : ClId) (s : State) : Host.Outcome State Fault Refusal :=
  .next (match s.heldCores c with
    | k :: _ => if s.queueCounts c && !((List.range 6).any fun e => s.waitTimerRuns k e) then s.fire ⟨1, 0x04, k, 7⟩ else s
    | [] => s)

/-- A binding has seen 64 consecutive refetches (R303, R455). -/
def execRefetchWatchdog (core : CoreId) (range : Fin 64) (s : State) : Host.Outcome State Fault Refusal :=
  .next (let w := SMap.get WRange.reset (s.core core).watch range
    if w.armed ∧ 64 ≤ w.refetches then s.fire ⟨1, 0x05, core, w.eng⟩ else s)

/-- A partition's step has not ended (R455). The fault is of the partition's first cluster. -/
def execStepWatchdog (p : PartId) (s : State) : Host.Outcome State Fault Refusal :=
  .next (match s.partClusters p with
    | c :: _ => if s.stepping p && !s.stepHeld p && decide (bits s.recov.wd 11 0 ≠ 0)
        && (s.partClusters p).any (fun c => s.running c) then s.fire ⟨3, 0x06, c, 7⟩ else s
    | [] => s)

/-- `envs`: what the replayed entries meet, in order. -/
def execContextReset (core : CoreId) (envs : List Env) (s : State) : Host.Outcome State Fault Refusal :=
  .next (s.contextReset core envs)

/-- `still`: the engine is STOPPED after its reset; `n`: samples that the bound of R463 lets be written. -/
def execEngineReset (core : CoreId) (eng : Eng) (envs : List Env) (still : Bool) (n : Nat) (s : State) :
    Host.Outcome State Fault Refusal :=
  .next (s.engineReset core eng.num envs still n)

def execPartitionReset (p : PartId) (n : Nat) (s : State) : Host.Outcome State Fault Refusal := .next (s.partitionReset p n)

/-- `link`: a bridge of that die, or die 0's host link, has failed for good (R458). -/
def execChipReset (fault : ChipFault) (s : State) : Host.Outcome State Fault Refusal := .next (s.chipReset fault.link fault.sample)

def execEscalationDeadline (level : Fin 5) (unit : Fin 256) (s : State) : Host.Outcome State Fault Refusal :=
  .next (s.escalationDeadline level unit)

/-- `allowed`: every other member allows the replay (R462). -/
def execStepReplay (p : PartId) (allowed : Bool) (others : Word) (rebuilt : Option Rebuilt) (s : State) :
    Host.Outcome State Fault Refusal :=
  .next (if s.stepping p && (s.part p).plan.isSome && !s.waitsRejoin p then s.replayOrRestore p allowed others rebuilt else s)

def execMgtResetCmd (req : Req) (v : Word) (s : State) : Host.Outcome State Fault Refusal :=
  .next (if s.reaches req .MGT 0 0x3C then s.resetCmd v else s)

def execMastheadHeartbeat (die : DieId) (s : State) : Host.Outcome State Fault Refusal := .next (s.mastBeat die)

def execMastheadWatchdog (die : DieId) (s : State) : Host.Outcome State Fault Refusal := .next (s.mastSilent die)

def execMastheadRestarted (die : DieId) (pass : Bool) (s : State) : Host.Outcome State Fault Refusal :=
  .next (s.mastRestarted die pass)

def execTrayHeartbeat (s : State) : Host.Outcome State Fault Refusal := .next s.trayBeat

def execTrayWatchdog (s : State) : Host.Outcome State Fault Refusal := .next s.traySilent

def execRejoinWindowExpire (p : PartId) (s : State) : Host.Outcome State Fault Refusal := .next (s.rejoinExpire p)

def execRejoinAgree (p : PartId) (votes : List RejoinVote) (updated : Bool) (others : Word) (rebuilt : Option Rebuilt) (s : State) :
    Host.Outcome State Fault Refusal :=
  .next (s.rejoinAgree p votes updated others rebuilt)

end Sys2Proof.Machine
end

