-- ==== Sys2Proof/Machine/ExecReset.lean ====
section
/-!
DEFINITION. Reset sources, the start, and Minimal Recovery Mode: the rows (18_reset_boot.md R475 to R495; 20 R528, R539,
R544, R547).
-/

namespace Sys2Proof.Machine

namespace State

/-- A pin goes low: held for fewer than 10 AON cycles it is a glitch, else a source (R476). -/
def pinLow (s : State) (pcie : Bool) (cycles : Nat) : State :=
  if s.chip.start = .off ∨ (if pcie then s.chip.perst else s.chip.resetn) then s
  else if cycles < 10 then s.countSat .CKR_GLITCH_COUNT 0 1
  else if pcie then (s.modChip fun c => { c with perst := true }).resetBy 3 true
  else (s.modChip fun c => { c with resetn := true }).resetBy 5 true

/-- A pin rises; the start begins when nothing else holds the device (R476). -/
def pinHigh (s : State) (pcie : Bool) : State :=
  let s := s.modChip fun c => if pcie then { c with perst := false } else { c with resetn := false }
  if s.chip.start = .held ∧ !s.chip.perst ∧ !s.chip.resetn ∧ !s.chip.therm then s.modChip fun c => { c with start := .ready } else s

/-- The start watchdog expires on a start that has run its first phases and hangs (R490). -/
def startExpire (s : State) (e : StartEnv) : State :=
  if s.chip.start ≠ .ready then s
  else
    let t := ((if s.chip.power then s.phase0 e else s).phase1 e).phase2
    if t.wantsMrm then s else t.failStart

end State

def execPowerOn (s : State) : Host.Outcome State Fault Refusal := .next s.powerUp

def execBrownOut (s : State) : Host.Outcome State Fault Refusal := .next (s.resetBy 1 false)

/-- THERMTRIP_N falls, every rail but AON goes off, and the device is held until power-on (R475, R539). -/
def execThermalTrip (s : State) : Host.Outcome State Fault Refusal :=
  .next (if s.chip.start = .off then s else (s.modChip fun c => { c with therm := true }).resetBy 2 false)

/-- PERST_N is low for `cycles` AON cycles; from 10 on it stays low until RESET_RELEASE. -/
def execPerstN (cycles : Nat) (s : State) : Host.Outcome State Fault Refusal := .next (s.pinLow true cycles)

def execPcieHotReset (s : State) : Host.Outcome State Fault Refusal :=
  .next (if s.chip.start = .held then s else s.resetBy 4 true)

/-- RESET_N is low for `cycles` AON cycles; from 10 on it stays low until RESET_RELEASE. -/
def execResetN (cycles : Nat) (s : State) : Host.Outcome State Fault Refusal := .next (s.pinLow false cycles)

/-- PERST_N (`perst`) or RESET_N rises. -/
def execResetRelease (perst : Bool) (s : State) : Host.Outcome State Fault Refusal := .next (s.pinHigh perst)

def execStartWatchdog (e : StartEnv) (s : State) : Host.Outcome State Fault Refusal := .next (s.startExpire e)

def execStartSequence (e : StartEnv) (s : State) : Host.Outcome State Fault Refusal :=
  .next (if s.chip.start = .ready then s.startSequence e else s)

def execRefclkRuns (e : StartEnv) (s : State) : Host.Outcome State Fault Refusal :=
  .next (if s.chip.start = .ref then (if s.chip.power then s.phase0 e else s).startCold e else s)

def execColdStartRelease (e : StartEnv) (s : State) : Host.Outcome State Fault Refusal :=
  .next (if s.chip.start = .cold then (s.phase1 e).startOn e else s)

/-- VIN36 goes, and the AON rail with it (R539, R544). -/
def execPowerLoss (s : State) : Host.Outcome State Fault Refusal :=
  .next (s.powerUp.modChip fun c => { c with start := .off })

def execUpdateBegin (req : Req) (s : State) : Host.Outcome State Fault Refusal := .next (s.mrmCmd req State.updateBegin)

def execUpdateEnd (req : Req) (s : State) : Host.Outcome State Fault Refusal := .next (s.mrmCmd req State.updateEnd)

def execObWrite (req : Req) (s : State) : Host.Outcome State Fault Refusal := .next (s.mrmCmd req State.obOpen)

def execMrmExit (req : Req) (s : State) : Host.Outcome State Fault Refusal := .next (s.mrmCmd req State.mrmExit)

/-- A BAR0 write through `CKR_STAY_DATA` or, with `mem`, `CKR_STAYMEM_DATA` (R489). -/
def execStayDataWrite (req : Req) (mem : Bool) (v : Word) (s : State) : Host.Outcome State Fault Refusal :=
  .next (if s.reaches req .CKR 0 (if mem then 0x2C else 0x24) then s.stayWrite req mem v else s)

def execStaymemDataRead (req : Req) (s : State) : Host.Outcome State Fault Refusal :=
  .next (if s.reaches req .CKR 0 0x2C then s.staymemRead req else s.emit (.readData 0))

end Sys2Proof.Machine
end

