-- ==== Sys2Proof/Machine/ExecSecure.lean ====
section
/-!
DEFINITION. The SEC block's commands, SPDM over DOE, and tamper trips: the rows (19_security_lifecycle.md R508 to R521).
-/

namespace Sys2Proof.Machine

/-- `vkey` and `okey`: the public keys by which the token's signatures are checked, `nonce` the new random value. -/
def execLcChange (req : Req) (vkey okey : List Byte) (tamper : Option (Fin 4 × DieId × Bool)) (nonce : BitVec 128) (s : State) :
    Host.Outcome State Fault Refusal :=
  .next (s.secCmd req fun s => s.lcChange vkey okey tamper nonce)

def execWriteSlot (req : Req) (s : State) : Host.Outcome State Fault Refusal := .next (s.secCmd req State.writeSlot)

def execFwCommit (req : Req) (s : State) : Host.Outcome State Fault Refusal := .next (s.secCmd req State.fwCommit)

/-- A write of `v` through `SEC_TOKEN_DATA`, or with none a read. -/
def execSecTokenDataAccess (req : Req) (v : Option Word) (s : State) : Host.Outcome State Fault Refusal :=
  .next (if s.reaches req .SEC 0 0x28 then s.tokenAccess req v else if v.isNone then s.emit (.readData 0) else s)

/-- Versions 1.2 and 1.3. The signing state starts anew. -/
def execGetVersion (s : State) : Host.Outcome State Fault Refusal :=
  .next (s.spdmAnswer "VERSION" 0x04 0 0 (natLe 1 0 ++ natLe 1 2 ++ natLe 2 0x1200 ++ natLe 2 0x1300) fun _ bs => ⟨bs, [], []⟩)

/-- CERT_CAP, CHAL_CAP, MEAS_CAP with signature, and chunking; DataTransferSize. `CTExponent` 15 covers R510's 20 ms. -/
def execGetCapabilities (s : State) : Host.Outcome State Fault Refusal :=
  .next (s.spdmAnswer "CAPABILITIES" 0x61 0 0
    (natLe 1 0 ++ natLe 1 15 ++ natLe 2 0 ++ natLe 4 0x20016 ++ natLe 4 spdmMax ++ natLe 4 65536) fun x bs => { x with vca := x.vca ++ bs })

/-- The requester offers Ed448, and SHA3-512. Selected: DMTF, raw bit streams, Ed448 and SHA3-512. -/
def execNegotiateAlgorithms (ed448 sha3 : Bool) (s : State) : Host.Outcome State Fault Refusal :=
  .next (if ed448 && sha3 then
    s.spdmAnswer "ALGORITHMS" 0x63 0 0 (natLe 2 36 ++ natLe 1 1 ++ natLe 1 0 ++ natLe 4 1 ++ natLe 4 0x400 ++ natLe 4 0x20
      ++ natLe 12 0 ++ natLe 4 0) fun x bs => { x with vca := x.vca ++ bs }
  else s.spdmError "ERROR InvalidRequest" 0x01 0)

def execGetDigests (s : State) : Host.Outcome State Fault Refusal :=
  .next (s.spdmAnswer "DIGESTS" 0x01 0 1 (sha3_512 s.certChain) fun x bs => { x with certs := x.certs ++ bs, meas := [] })

/-- A portion of slot 0's chain; one that begins beyond its end is no valid request. -/
def execGetCertificate (slot off len : Nat) (s : State) : Host.Outcome State Fault Refusal :=
  .next (
    let n := s.certChain.length
    if slot ≠ 0 ∨ n ≤ off then s.spdmError "ERROR InvalidRequest" 0x01 0
    else
      let m := min (min len 65535) (n - off)
      s.spdmAnswer "CERTIFICATE" 0x02 0 0 (natLe 2 m ++ natLe 2 (n - off - m) ++ sliceB s.certChain off m) fun x bs =>
        { x with certs := x.certs ++ bs, meas := [] })

/-- `request`: the bytes of the request. -/
def execChallenge (request : List Byte) (s : State) : Host.Outcome State Fault Refusal := .next (s.spdmChallenge request)

/-- `request`: the bytes of the request, whose index and wish for a signature stand beside it. -/
def execGetMeasurements (index : Fin 256) (signed : Bool) (request : List Byte) (s : State) : Host.Outcome State Fault Refusal :=
  .next (s.spdmMeasure index signed request)

def execSpdmUnsupportedRequest (s : State) : Host.Outcome State Fault Refusal := .next (s.spdmError "ERROR UnsupportedRequest" 0x07 0)

/-- Cause 0 RAIL, 1 CLOCK, 2 COLD, 3 SHIELD, on a die; `more` are the trips of the same cycle. A device without its rails has no
sensor. In a start that stands in phase 1 the trip keeps the ROMs from deriving keys (R519). -/
def execTamperTrip (trip : Fin 4 × DieId) (more : List (Fin 4 × DieId)) (s : State) : Host.Outcome State Fault Refusal :=
  .next (if s.chip.start = .off then s
    else (s.tamperTrip (trip :: more)).modChip fun c => { c with
      tripped := c.tripped || decide (c.start = .cold ∨ (c.start = .ref ∧ !c.power)) })

end Sys2Proof.Machine
end

