-- ==== Sys2Proof/Machine/ExecStep.lean ====
section
/-!
DEFINITION. The end of a step: the ready point, the boundary with its Boundary Record, metrics record, job end and epoch
start, and the step that waits for its input (01_architecture.md R22 to R24; 14 R389 to R393; 16 R426 to R431, R453;
17 R461, R473).
-/

namespace Sys2Proof.Machine

namespace State

/-- The update pass or its skip is over and Reef has done its orders: the step is ready, with the mode and window then in
force (R22, R389). -/
def stepReady (s : State) (p : Nat) (met : Metrics) : State :=
  let x := s.part p
  if s.stepping p && x.reefDone && x.ready.isNone && s.noUpass p then
    s.modPart p fun x => { x with
      ready := some ⟨s.fld .PLC_SYNC_CTRL p 31 30, s.fld .PLC_SYNC_CTRL p 11 0, met⟩, sync := s.rd .PLC_SYNC_CTRL p }
  else s

/-! The metrics record (R393). -/

/-- Does a range of host memory lie inside a granted write window of a partition (R416)? -/
def hostWritable (s : State) (p a n : Nat) : Bool :=
  s.hostWins.any fun w => w.1 / 16 == p && match w.2 with
    | some h => h.wr && decide (h.base.toNat ≤ a) && decide (a + n ≤ h.base.toNat + h.len)
    | none => false

/-- A job forms n2 when its CLIP is above 0.0 (R164). -/
def formsNorm (j : Job) : Bool := !bit j.clip 31 && decide (0 < j.clip.toNat) && decide (j.clip.toNat ≤ 0x7F800000)

/-- The sixteen words of a metrics record of step `step`. -/
def metricsWords (s : State) (p : Nat) (j : Job) (step : Word) (us : Nat) (m : Metrics) : List Word :=
  let x := s.part p
  let st := if x.verdict = some true then Status.skippedStep else Status.ok
  let exp := match s.partClusters p with
    | [] => 0
    | c :: _ => s.fld .CVT_LOSS_SCALE c 7 0
  [step, BitVec.ofNat 32 (st.num * 2 ^ 24 + exp * 2 ^ 16 + (formsNorm j).toNat), m.loss, m.lossN, if formsNorm j then m.gnorm2 else 0,
   BitVec.ofNat 32 x.skips, BitVec.ofNat 32 m.us, BitVec.ofNat 32 us, BitVec.ofNat 32 x.stallUs, s.epochC,
   BitVec.ofNat 32 (x.satN % 2 ^ 16 * 2 ^ 16 + x.vanN % 2 ^ 16), BitVec.ofNat 32 (s.fld .TTL_RISK 0 7 0)]
    ++ (List.range 4).map fun k => m.user.getD k 0

/-- The record is written at the ring's head, or counted lost. -/
def writeMetrics (s : State) (p : Nat) (j : Job) (step : Word) (us : Nat) (m : Metrics) : State :=
  match j.met with
  | none => s
  | some (base, log2n, interval) =>
    let head := s.fld .PLC_MET_HEAD p 15 0
    let next := (head + 1) % 2 ^ log2n
    let a := base + 64 * head
    if next = s.fld .PLC_MET_TAIL p 15 0 % 2 ^ log2n ∨ !s.hostWritable p a 64 then
      (s.countSat .PLC_MET_LOST p 1).setFlag .PLC_STATUS p 27
    else
      let s := s.writeHost a ((s.metricsWords p j step us m).flatMap fun w => natLe 4 w.toNat)
      let s := s.setFld .PLC_MET_HEAD p 15 0 next
      let n := (s.part p).metSeq + 1
      if interval ≠ 0 ∧ interval ≤ n then (s.modPart p fun x => { x with metSeq := 0 }).raiseMetrics p
      else s.modPart p fun x => { x with metSeq := n }

/-! The boundary. -/

/-- The Boundary Record of the step that follows, in the area whose turn it is (R461). -/
def boundaryRecord (s : State) (p : Nat) (next : Word) : State :=
  let c := s.capture p next
  (s.putRecordArea p (s.part p).recNext c).modPart p fun x => if x.recNext then { x with rec1 := some c, recNext := false } else { x with rec0 := some c, recNext := true }

/-- The job carries the non-finite mark from here (R426). -/
def markNonfinite (s : State) (p : Nat) : State :=
  let s := (s.modPart p fun x => { x with mark := true }).setFlag .RES_SNAP_STATUS 0 27
  let s := if s.epochState ≠ 0 ∧ s.snap.part = p then s.discardEpoch .ok else s
  s.eventVector p

/-- What takes effect at a boundary (R453, R473), the recoveries of the partition's units that no longer count (R459), and the primary
role that passes back (R467). -/
def atBoundary (s : State) (p : Nat) : State :=
  { s.passBack with
    snap := { s.snap with ctrl := s.rd .RES_SNAP_CTRL 0, ceil := s.rd .RES_SNAP_CEIL 0 }
    recov := { s.recov with
      wd := s.rd .MGT_WD_CTRL 0
      rejoin := s.rd .MGT_REJOIN 0
      seen := s.recov.seen.filter fun f => decide (3 ≤ f.level) || s.partOf (clOfCore f.unit) != p } }

/-- An epoch starts at this boundary (R428, R437). -/
def epochStarts (s : State) (p : Nat) : Bool :=
  let x := s.part p
  x.reqOr && !x.nfOr && !x.mark && s.snapIdle && !x.restoreDue

/-- The marks of the step just ended go; an UPDATE_NONFINITE of its update pass waits for the next exchange (R427), and
Telltale may process the step's observations (R189). -/
def stepOver (s : State) (p : Nat) : State :=
  { s with nwQ := s.nwQ.map fun (y : NwStep) => if y.part = p then { y with due := true } else y }.modPart p fun x => { x with
    gradNf := false, verdict := none, reefDone := false, ready := none, reqOr := false, nfOr := false, updated := false, timedOut := false
    stallUs := 0, satN := 0, vanN := 0 }

/-- Has the job taken its last step, `next` following (R379)? -/
def jobOver (s : State) (p : Nat) (j : Job) (next : Word) : Bool :=
  s.jobState p == 7 || (j.steps != 0 && (next - j.start).toNat == j.steps % 2 ^ 32)

/-- The next step waits for its input buffer when that is not complete (R24). -/
def awaitInput (s : State) (p : Nat) : State :=
  if s.inputReady p (s.rd .PLC_STEP p) then s
  else ((s.modPart p fun x => { x with inputHold := true }).countSat .PLC_STALL_COUNT p 1).setFlag .PLC_STATUS p 30

/-- The step boundary of a partition, `us` after the ready point (R22 to R24, R389). -/
def takeBoundary (s : State) (p us : Nat) : State :=
  match (s.part p).ready, (s.part p).job with
  | some r, some j =>
    let step := s.rd .PLC_STEP p
    let s := (s.wr .PLC_STEP p (step + 1)).wr .PLC_SYNC_WAIT p (BitVec.ofNat 32 us)
    let s := s.boundaryRecord p (step + 1)
    let s := if (s.part p).nfOr then s.markNonfinite p else s
    let s := (s.partClusters p).foldl (fun s c => s.modChn c fun h => { h with mip := setBit h.mip 20 }) s
    let start := s.epochStarts p
    let s := s.writeMetrics p j step us r.met
    let s := (s.atBoundary p).stepOver p
    let s := if start then s.startEpoch p (step + 1) else s
    if s.jobOver p j (step + 1) then s.endJob p 8 .ok
    else if (s.part p).replanDue then
      (((s.abandonPart p).clearStepMarks p).setJobState p 6).eventVector p
    else s.awaitInput p
  | _, _ => s

/-- A boundary of the mode `mode` in which the step became ready. -/
def boundaryIn (s : State) (p mode us : Nat) : State :=
  match (s.part p).ready with
  | some r => if r.mode = mode then s.takeBoundary p us else s
  | none => s

/-- The window of a ready step ends without an edge (R390). -/
def syncExpire (s : State) (p : Nat) : State :=
  match (s.part p).ready with
  | some r =>
    if r.mode = 1 then ((s.countSat .PLC_SYNC_EXPIRED_COUNT p 1).setFlag .PLC_STATUS p 28).takeBoundary p r.window else s
  | none => s

/-- The window of a ready step has ended before an edge that comes `us` after its ready point (R390). -/
def syncLate (s : State) (p us : Nat) : State :=
  match (s.part p).ready with
  | some r => if r.window < us then s.syncExpire p else s
  | none => s

/-- `STEP_SYNC` is sampled at another level (R394): low, only `LEVEL` shows it; high, that is a rising edge, and `waited` gives, by
partition, the µs since its ready point (R389, R390; log entry 78). -/
def syncEdge (s : State) (waited : List Nat) (level : Bool) : State :=
  if !level then s.setFld .PLC_SYNC_RAW 0 0 0 0
  else
  let s := (s.setFld .PLC_SYNC_RAW 0 31 16 (s.fld .PLC_SYNC_RAW 0 31 16 + 1)).setFld .PLC_SYNC_RAW 0 0 0 1
  (List.range 8).foldl (fun s p =>
    let mode := match (s.part p).ready with
      | some r => r.mode
      | none => bits (s.part p).sync 31 30
    let s := s.syncLate p (waited.getD p 0)
    if mode ≠ 1 then s
    else if (s.part p).ready.isSome then s.takeBoundary p (waited.getD p 0)
    else (s.countSat .PLC_SYNC_EARLY_COUNT p 1).setFlag .PLC_STATUS p 29) s

/-- A step held for its input begins, `us` after it would have (R24). -/
def stepBegin (s : State) (p us : Nat) : State :=
  if (s.part p).inputHold && s.stepping p && s.inputReady p (s.rd .PLC_STEP p) then
    s.modPart p fun x => { x with inputHold := false, stallUs := us }
  else s

end State

def execStepReady (p : PartId) (met : Metrics) (s : State) : Host.Outcome State Fault Refusal := .next (s.stepReady p met)

/-- The boundary of MODE 0, at the ready point (R389). -/
def execStepBoundary (p : PartId) (s : State) : Host.Outcome State Fault Refusal := .next (s.boundaryIn p 0 0)

def execStepSyncEdge (edge : SyncEdge) (s : State) : Host.Outcome State Fault Refusal :=
  .next (s.syncEdge edge.waited edge.level)

def execStepSyncWindowExpire (p : PartId) (s : State) : Host.Outcome State Fault Refusal := .next (s.syncExpire p)

/-- The barrier of MODE 2 completes, `us` after the ready point (R389). -/
def execStepBarrierDone (p : PartId) (us : Nat) (s : State) : Host.Outcome State Fault Refusal :=
  .next (s.boundaryIn p 2 us)

def execStepBegin (p : PartId) (us : Nat) (s : State) : Host.Outcome State Fault Refusal := .next (s.stepBegin p us)

end Sys2Proof.Machine
end

