-- ==== Sys2Proof/Machine/ExecTelltale.lean ====
section
/-!
DEFINITION. Telltale, epochs, restores, re-plans and maintenance: the rows (16_resilience_snapshots.md R423 to R454).
-/

namespace Sys2Proof.Machine

/-- A tick of every die, with what it measures (R425). It also lets maintenance that waits go on. A device that is held or
that runs no Moasozil has none. -/
def execTelltaleTick (m0 m1 m2 m3 : Margins) (s : State) : Host.Outcome State Fault Refusal :=
  .next (if s.chip.start = .none ∧ s.chip.fw.isSome then (s.telltaleTick [m0, m1, m2, m3]).maintSettle else s)

def execFirstTouchCopy (page cycles : Nat) (s : State) : Host.Outcome State Fault Refusal := .next (s.touchCopy page cycles)

/-- `stop`: a collective of the epoch ended with PEER_LOST (true) or TIMEOUT (false). -/
def execEpochCopyDone (stop : Option Bool) (s : State) : Host.Outcome State Fault Refusal :=
  .next (s.copyDone stop).maintSettle

/-- `shares`: what came from the other members of the group, for the Parity Slot and for the constant pages' parity. -/
def execEpochEncodeDone (shares : Shares) (stop : Option Bool) (s : State) : Host.Outcome State Fault Refusal :=
  .next (s.encodeDone shares.pages shares.consts stop).maintSettle

def execEpochCommit (stop : Option Bool) (s : State) : Host.Outcome State Fault Refusal :=
  .next (s.commitDone stop).maintSettle

/-- `RES_SNAP_CMD.REQ` is written 1 (R427, R453). -/
def execSnapReqWrite (req : Req) (s : State) : Host.Outcome State Fault Refusal :=
  .next (if s.reaches req .RES 0 0x18 then s.setFlag .RES_SNAP_CMD 0 0 else s)

/-- `others`: the largest committed epoch of the other members; `rebuilt`: this member's image, when it is rebuilt. -/
def execRestore (p : PartId) (others : Word) (rebuilt : Option Rebuilt) (s : State) : Host.Outcome State Fault Refusal :=
  .next (s.startRestore p others rebuilt)

def execReplanRebuild (p : PartId) (facts : PlanFacts) (others : Word) (brought : Brought) (s : State) :
    Host.Outcome State Fault Refusal :=
  .next (s.replanRebuild p facts others brought).maintSettle

/-- Pseudo-channel `pc` of stack `unit` is recalibrated by a command, or by Moasozil on its own; requests to it are held for `cycles`
in all (R447, R448). -/
def execRecalPc (by_ : RecalBy) (unit pc : Fin 32) (cycles : Nat) (s : State) : Host.Outcome State Fault Refusal :=
  .next (match by_ with
    | .command req => s.maintCmd req fun s => s.recalibrate unit pc cycles
    | .rate reads errors => if reads < errors * 2 ^ 20 then s.recalOwn unit pc cycles else s
    | .drift => if s.drifted unit pc then s.recalOwn unit pc cycles else s)

def execDrainCluster (req : Req) (c : ClId) (s : State) : Host.Outcome State Fault Refusal :=
  .next (s.maintCmd req fun s => s.drainUnit ⟨2, c, 0, 0⟩)

/-- `pass`: every array of the cluster passed the fixed check patterns (R450). -/
def execReadmitCluster (req : Req) (c : ClId) (pass : Bool) (s : State) : Host.Outcome State Fault Refusal :=
  .next (s.maintCmd req fun s => s.readmitUnit ⟨3, c, 0, 0⟩ pass)

def execFenceCluster (req : Req) (c : ClId) (s : State) : Host.Outcome State Fault Refusal :=
  .next (s.maintCmd req fun s => s.drainUnit ⟨4, c, 0, 0⟩)

def execDrainDie (req : Req) (die : DieId) (s : State) : Host.Outcome State Fault Refusal :=
  .next (s.maintCmd req fun s => s.drainUnit ⟨5, 0, 0, die⟩)

def execReadmitDie (req : Req) (die : DieId) (pass : Bool) (s : State) : Host.Outcome State Fault Refusal :=
  .next (s.maintCmd req fun s => s.readmitUnit ⟨6, 0, 0, die⟩ pass)

def execFenceDie (req : Req) (die : DieId) (s : State) : Host.Outcome State Fault Refusal :=
  .next (s.maintCmd req fun s => s.drainUnit ⟨7, 0, 0, die⟩)

/-- The hand-over begins, or waits for the epoch in progress (R437, R449). -/
def execFwHandover (req : Req) (s : State) : Host.Outcome State Fault Refusal :=
  .next (s.maintCmd req fun s => (s.modRecov fun x => { x with maint := some ⟨8, 0, 0, 0⟩ }).maintSettle)

end Sys2Proof.Machine
end

