-- ==== Sys2Proof/Machine/Dispatch.lean ====
section
/-! DEFINITION. The meaning of each command: one arm per constructor, each one call of its meaning. -/

namespace Sys2Proof.Machine

def exec (i : Instr) (s : State) : Host.Outcome State Fault Refusal :=
  match i with
  | .nop core eng env => Sys2Proof.Machine.execNop core eng env s
  | .waitf core eng env => Sys2Proof.Machine.execWaitf core eng env s
  | .waitfSatisfied core eng => Sys2Proof.Machine.execWaitfSatisfied core eng s
  | .setf core eng env => Sys2Proof.Machine.execSetf core eng env s
  | .addf core eng env => Sys2Proof.Machine.execAddf core eng env s
  | .upassOpen core eng env => Sys2Proof.Machine.execUpassOpen core eng env s
  | .upassClose core eng env => Sys2Proof.Machine.execUpassClose core eng env s
  | .fmm core env => Sys2Proof.Machine.execFmm core env s
  | .bmm core env => Sys2Proof.Machine.execBmm core env s
  | .add core env => Sys2Proof.Machine.execAdd core env s
  | .sub core env => Sys2Proof.Machine.execSub core env s
  | .mul core env => Sys2Proof.Machine.execMul core env s
  | .minF core env => Sys2Proof.Machine.execMinF core env s
  | .maxF core env => Sys2Proof.Machine.execMaxF core env s
  | .cmp core env => Sys2Proof.Machine.execCmp core env s
  | .fma core env => Sys2Proof.Machine.execFma core env s
  | .sel core env => Sys2Proof.Machine.execSel core env s
  | .absF core env => Sys2Proof.Machine.execAbsF core env s
  | .neg core env => Sys2Proof.Machine.execNeg core env s
  | .cvt core env => Sys2Proof.Machine.execCvt core env s
  | .exp core env => Sys2Proof.Machine.execExp core env s
  | .exp2 core env => Sys2Proof.Machine.execExp2 core env s
  | .log core env => Sys2Proof.Machine.execLog core env s
  | .log2 core env => Sys2Proof.Machine.execLog2 core env s
  | .rcp core env => Sys2Proof.Machine.execRcp core env s
  | .rsqrt core env => Sys2Proof.Machine.execRsqrt core env s
  | .sqrt core env => Sys2Proof.Machine.execSqrt core env s
  | .div core env => Sys2Proof.Machine.execDiv core env s
  | .tanh core env => Sys2Proof.Machine.execTanh core env s
  | .sin core env => Sys2Proof.Machine.execSin core env s
  | .cos core env => Sys2Proof.Machine.execCos core env s
  | .comb core env => Sys2Proof.Machine.execComb core env s
  | .rsum core env => Sys2Proof.Machine.execRsum core env s
  | .rmax core env => Sys2Proof.Machine.execRmax core env s
  | .iadd core env => Sys2Proof.Machine.execIadd core env s
  | .isub core env => Sys2Proof.Machine.execIsub core env s
  | .imin core env => Sys2Proof.Machine.execImin core env s
  | .imax core env => Sys2Proof.Machine.execImax core env s
  | .icmp core env => Sys2Proof.Machine.execIcmp core env s
  | .andU core env => Sys2Proof.Machine.execAndU core env s
  | .orU core env => Sys2Proof.Machine.execOrU core env s
  | .xorU core env => Sys2Proof.Machine.execXorU core env s
  | .shl core env => Sys2Proof.Machine.execShl core env s
  | .shr core env => Sys2Proof.Machine.execShr core env s
  | .vmode core env => Sys2Proof.Machine.execVmode core env s
  | .optAdam core env => Sys2Proof.Machine.execOptAdam core env s
  | .optMom core env => Sys2Proof.Machine.execOptMom core env s
  | .optStep core env => Sys2Proof.Machine.execOptStep core env s
  | .conv core env => Sys2Proof.Machine.execConv core env s
  | .conv2 core env => Sys2Proof.Machine.execConv2 core env s
  | .convx core env => Sys2Proof.Machine.execConvx core env s
  | .reefPost c => Sys2Proof.Machine.execReefPost c s
  | .gather core env => Sys2Proof.Machine.execGather core env s
  | .kvread core env => Sys2Proof.Machine.execKvread core env s
  | .route core env => Sys2Proof.Machine.execRoute core env s
  | .copy core env => Sys2Proof.Machine.execCopy core env s
  | .prefetch core env => Sys2Proof.Machine.execPrefetch core env s
  | .staleRefetch core eng => Sys2Proof.Machine.execStaleRefetch core eng s
  | .staleRefetchLand core eng => Sys2Proof.Machine.execStaleRefetchLand core eng s
  | .kvappend core env => Sys2Proof.Machine.execKvappend core env s
  | .furl core env => Sys2Proof.Machine.execFurl core env s
  | .unfurl core env => Sys2Proof.Machine.execUnfurl core env s
  | .csend core env => Sys2Proof.Machine.execCsend core env s
  | .crecv core env => Sys2Proof.Machine.execCrecv core env s
  | .tokenDeadlock core eng => Sys2Proof.Machine.execTokenDeadlock core eng s
  | .flagDeadlock die => Sys2Proof.Machine.execFlagDeadlock die s
  | .waitfTimeout core eng => Sys2Proof.Machine.execWaitfTimeout core eng s
  | .tdisp c cycles aon => Sys2Proof.Machine.execTdisp c cycles aon s
  | .tdispm c cycles aon => Sys2Proof.Machine.execTdispm c cycles aon s
  | .tdesc c cycles aon => Sys2Proof.Machine.execTdesc c cycles aon s
  | .tdrain c cycles aon => Sys2Proof.Machine.execTdrain c cycles aon s
  | .dispatchHeldRelease c cycles aon => Sys2Proof.Machine.execDispatchHeldRelease c cycles aon s
  | .chanterBaseInstr c cycles aon => Sys2Proof.Machine.execChanterBaseInstr c cycles aon s
  | .dmBitSetStore c cycles aon => Sys2Proof.Machine.execDmBitSetStore c cycles aon s
  | .dmBitClearStore c cycles aon => Sys2Proof.Machine.execDmBitClearStore c cycles aon s
  | .dmAmo c cycles aon => Sys2Proof.Machine.execDmAmo c cycles aon s
  | .chanterTimer c => Sys2Proof.Machine.execChanterTimer c s
  | .chanterInterruptTaken c cycles aon => Sys2Proof.Machine.execChanterInterruptTaken c cycles aon s
  | .tmboxClear c cycles aon => Sys2Proof.Machine.execTmboxClear c cycles aon s
  | .tmboutWrite c cycles aon => Sys2Proof.Machine.execTmboutWrite c cycles aon s
  | .chnMboxSet c v => Sys2Proof.Machine.execChnMboxSet c v s
  | .chnRun c run => Sys2Proof.Machine.execChnRun c run s
  | .slotArm c v => Sys2Proof.Machine.execSlotArm c v s
  | .slotDisarm c v => Sys2Proof.Machine.execSlotDisarm c v s
  | .loaderGo c v => Sys2Proof.Machine.execLoaderGo c v s
  | .loaderDone c hits => Sys2Proof.Machine.execLoaderDone c hits s
  | .reefDataWrite c req v => Sys2Proof.Machine.execReefDataWrite c req v s
  | .reefDataRead c req => Sys2Proof.Machine.execReefDataRead c req s
  | .reefStepBoundary p others => Sys2Proof.Machine.execReefStepBoundary p others s
  | .overflowVerdict p ovf req nf found => Sys2Proof.Machine.execOverflowVerdict p ovf req nf found s
  | .stepReady p met => Sys2Proof.Machine.execStepReady p met s
  | .stepBoundary p => Sys2Proof.Machine.execStepBoundary p s
  | .stepSyncEdge edge => Sys2Proof.Machine.execStepSyncEdge edge s
  | .stepSyncWindowExpire p => Sys2Proof.Machine.execStepSyncWindowExpire p s
  | .stepBarrierDone p us => Sys2Proof.Machine.execStepBarrierDone p us s
  | .stepBegin p us => Sys2Proof.Machine.execStepBegin p us s
  | .normWatchObservation p entry n2 => Sys2Proof.Machine.execNormWatchObservation p entry n2 s
  | .nwDataWrite req v => Sys2Proof.Machine.execNwDataWrite req v s
  | .nwDataRead req => Sys2Proof.Machine.execNwDataRead req s
  | .shadowSampleJudge core => Sys2Proof.Machine.execShadowSampleJudge core s
  | .shrFlagDataWrite c req v => Sys2Proof.Machine.execShrFlagDataWrite c req v s
  | .shrRegDataWrite c req v => Sys2Proof.Machine.execShrRegDataWrite c req v s
  | .shrConfigWrite c req range v => Sys2Proof.Machine.execShrConfigWrite c req range v s
  | .hbmSlotGrant stack arrivals cycles done => Sys2Proof.Machine.execHbmSlotGrant stack arrivals cycles done s
  | .dataCacheMissFill c core block bad rereads => Sys2Proof.Machine.execDataCacheMissFill c core block bad rereads s
  | .segmentLand core addr landing => Sys2Proof.Machine.execSegmentLand core addr landing s
  | .stackOdeccReport stack => Sys2Proof.Machine.execStackOdeccReport stack s
  | .kvOpen c cmd3 walks => Sys2Proof.Machine.execKvOpen c cmd3 walks s
  | .kvTrunc c cmd3 walks => Sys2Proof.Machine.execKvTrunc c cmd3 walks s
  | .kvClose c cmd3 walks => Sys2Proof.Machine.execKvClose c cmd3 walks s
  | .kvOffload c cmd3 walks => Sys2Proof.Machine.execKvOffload c cmd3 walks s
  | .kvAdopt c cmd3 walks => Sys2Proof.Machine.execKvAdopt c cmd3 walks s
  | .kvReset c cmd3 walks => Sys2Proof.Machine.execKvReset c cmd3 walks s
  | .kvUpdateRelease c walks cycles => Sys2Proof.Machine.execKvUpdateRelease c walks cycles s
  | .reclaimToFree c walks => Sys2Proof.Machine.execReclaimToFree c walks s
  | .stagingFlush c core walks cycles => Sys2Proof.Machine.execStagingFlush c core walks cycles s
  | .flushResume c again => Sys2Proof.Machine.execFlushResume c again s
  | .writeFrameRx port f => Sys2Proof.Machine.execWriteFrameRx port f s
  | .readReqRx port f => Sys2Proof.Machine.execReadReqRx port f s
  | .readDataRx port f => Sys2Proof.Machine.execReadDataRx port f s
  | .flagFrameRx port f => Sys2Proof.Machine.execFlagFrameRx port f s
  | .collFrameRx port f => Sys2Proof.Machine.execCollFrameRx port f s
  | .ackRx port f => Sys2Proof.Machine.execAckRx port f s
  | .nackRx port f => Sys2Proof.Machine.execNackRx port f s
  | .resetNoticeRx port f => Sys2Proof.Machine.execResetNoticeRx port f s
  | .peerDownRx port f => Sys2Proof.Machine.execPeerDownRx port f s
  | .peerUpRx port f accept => Sys2Proof.Machine.execPeerUpRx port f accept s
  | .restoreRx port f others rebuilt => Sys2Proof.Machine.execRestoreRx port f others rebuilt s
  | .replayRx port f => Sys2Proof.Machine.execReplayRx port f s
  | .lackRx port lseq => Sys2Proof.Machine.execLackRx port lseq s
  | .creditRx port vc n => Sys2Proof.Machine.execCreditRx port vc n s
  | .lanemapRx port lanes => Sys2Proof.Machine.execLanemapRx port lanes s
  | .rstnRx port => Sys2Proof.Machine.execRstnRx port s
  | .frameForward port f => Sys2Proof.Machine.execFrameForward port f s
  | .linkResendTimeout port => Sys2Proof.Machine.execLinkResendTimeout port s
  | .linkAckTimer port => Sys2Proof.Machine.execLinkAckTimer port s
  | .transportRto die dev ddie => Sys2Proof.Machine.execTransportRto die dev ddie s
  | .fabricAckTimeout die dev ddie psn => Sys2Proof.Machine.execFabricAckTimeout die dev ddie psn s
  | .lostPeerTimeout dev => Sys2Proof.Machine.execLostPeerTimeout dev s
  | .portsDownLost dev => Sys2Proof.Machine.execPortsDownLost dev s
  | .ecnRateRecover die dev ddie => Sys2Proof.Machine.execEcnRateRecover die dev ddie s
  | .laneMarginLow port lane margin => Sys2Proof.Machine.execLaneMarginLow port lane margin s
  | .fecLimitExceeded port lane corrected uncorrectable => Sys2Proof.Machine.execFecLimitExceeded port lane corrected uncorrectable s
  | .laneRetrainWrite req port v => Sys2Proof.Machine.execLaneRetrainWrite req port v s
  | .laneRetrainDone port farId => Sys2Proof.Machine.execLaneRetrainDone port farId s
  | .portUp port farId => Sys2Proof.Machine.execPortUp port farId s
  | .hostNop ring => Sys2Proof.Machine.execHostNop ring s
  | .jobSubmit ring ver wg => Sys2Proof.Machine.execJobSubmit ring ver wg s
  | .planCompute p facts => Sys2Proof.Machine.execPlanCompute p facts s
  | .planAgreement p others => Sys2Proof.Machine.execPlanAgreement p others s
  | .jobStart ring => Sys2Proof.Machine.execJobStart ring s
  | .jobStop ring => Sys2Proof.Machine.execJobStop ring s
  | .jobAbort ring => Sys2Proof.Machine.execJobAbort ring s
  | .jobRelease ring => Sys2Proof.Machine.execJobRelease ring s
  | .portOpen ring => Sys2Proof.Machine.execPortOpen ring s
  | .portClose ring => Sys2Proof.Machine.execPortClose ring s
  | .hostwinGrant ring => Sys2Proof.Machine.execHostwinGrant ring s
  | .hostwinRevoke ring => Sys2Proof.Machine.execHostwinRevoke ring s
  | .sqTailDoorbell fn idx acc => Sys2Proof.Machine.execSqTailDoorbell fn idx acc s
  | .cqHeadDoorbell fn idx acc => Sys2Proof.Machine.execCqHeadDoorbell fn idx acc s
  | .entryFetch bytes err => Sys2Proof.Machine.execEntryFetch bytes err s
  | .completionWrite ring => Sys2Proof.Machine.execCompletionWrite ring s
  | .coalesceTimer ring => Sys2Proof.Machine.execCoalesceTimer ring s
  | .windowWriteTlp fn w data poisoned => Sys2Proof.Machine.execWindowWriteTlp fn w data poisoned s
  | .windowReadTlp fn w n => Sys2Proof.Machine.execWindowReadTlp fn w n s
  | .ringEnable req fn idx v => Sys2Proof.Machine.execRingEnable req fn idx v s
  | .ringDisable req fn idx v => Sys2Proof.Machine.execRingDisable req fn idx v s
  | .fnRangeWrite req ports v => Sys2Proof.Machine.execFnRangeWrite req ports v s
  | .flrVf n => Sys2Proof.Machine.execFlrVf n s
  | .flrPf0 => Sys2Proof.Machine.execFlrPf0 s
  | .vfEnableClear => Sys2Proof.Machine.execVfEnableClear s
  | .msixUnmask fn v => Sys2Proof.Machine.execMsixUnmask fn v s
  | .telltaleTick m0 m1 m2 m3 => Sys2Proof.Machine.execTelltaleTick m0 m1 m2 m3 s
  | .firstTouchCopy page cycles => Sys2Proof.Machine.execFirstTouchCopy page cycles s
  | .epochCopyDone stop => Sys2Proof.Machine.execEpochCopyDone stop s
  | .epochEncodeDone shares stop => Sys2Proof.Machine.execEpochEncodeDone shares stop s
  | .epochCommit stop => Sys2Proof.Machine.execEpochCommit stop s
  | .snapReqWrite req => Sys2Proof.Machine.execSnapReqWrite req s
  | .restore p others rebuilt => Sys2Proof.Machine.execRestore p others rebuilt s
  | .replanRebuild p facts others brought => Sys2Proof.Machine.execReplanRebuild p facts others brought s
  | .recalPc req unit pc cycles => Sys2Proof.Machine.execRecalPc req unit pc cycles s
  | .drainCluster req c => Sys2Proof.Machine.execDrainCluster req c s
  | .readmitCluster req c pass => Sys2Proof.Machine.execReadmitCluster req c pass s
  | .fenceCluster req c => Sys2Proof.Machine.execFenceCluster req c s
  | .drainDie req die => Sys2Proof.Machine.execDrainDie req die s
  | .readmitDie req die pass => Sys2Proof.Machine.execReadmitDie req die pass s
  | .fenceDie req die => Sys2Proof.Machine.execFenceDie req die s
  | .fwHandover req => Sys2Proof.Machine.execFwHandover req s
  | .engineWatchdog core eng => Sys2Proof.Machine.execEngineWatchdog core eng s
  | .memoryRequestWatchdog core eng => Sys2Proof.Machine.execMemoryRequestWatchdog core eng s
  | .queueWatchdog core eng => Sys2Proof.Machine.execQueueWatchdog core eng s
  | .dispatchWatchdog c => Sys2Proof.Machine.execDispatchWatchdog c s
  | .refetchWatchdog core range => Sys2Proof.Machine.execRefetchWatchdog core range s
  | .stepWatchdog p => Sys2Proof.Machine.execStepWatchdog p s
  | .contextReset core envs => Sys2Proof.Machine.execContextReset core envs s
  | .engineReset core eng envs still n => Sys2Proof.Machine.execEngineReset core eng envs still n s
  | .partitionReset p n => Sys2Proof.Machine.execPartitionReset p n s
  | .chipReset fault => Sys2Proof.Machine.execChipReset fault s
  | .escalationDeadline level unit => Sys2Proof.Machine.execEscalationDeadline level unit s
  | .stepReplay p allowed others rebuilt => Sys2Proof.Machine.execStepReplay p allowed others rebuilt s
  | .mgtResetCmd req v => Sys2Proof.Machine.execMgtResetCmd req v s
  | .mastheadHeartbeat die => Sys2Proof.Machine.execMastheadHeartbeat die s
  | .mastheadWatchdog die => Sys2Proof.Machine.execMastheadWatchdog die s
  | .trayHeartbeat => Sys2Proof.Machine.execTrayHeartbeat s
  | .trayWatchdog => Sys2Proof.Machine.execTrayWatchdog s
  | .rejoinWindowExpire p => Sys2Proof.Machine.execRejoinWindowExpire p s
  | .rejoinAgree p votes updated others rebuilt => Sys2Proof.Machine.execRejoinAgree p votes updated others rebuilt s
  | .powerOn => Sys2Proof.Machine.execPowerOn s
  | .brownOut => Sys2Proof.Machine.execBrownOut s
  | .thermalTrip => Sys2Proof.Machine.execThermalTrip s
  | .perstN cycles => Sys2Proof.Machine.execPerstN cycles s
  | .pcieHotReset => Sys2Proof.Machine.execPcieHotReset s
  | .resetN cycles => Sys2Proof.Machine.execResetN cycles s
  | .resetRelease perst => Sys2Proof.Machine.execResetRelease perst s
  | .startWatchdog e => Sys2Proof.Machine.execStartWatchdog e s
  | .startSequence e => Sys2Proof.Machine.execStartSequence e s
  | .updateBegin req => Sys2Proof.Machine.execUpdateBegin req s
  | .updateEnd req => Sys2Proof.Machine.execUpdateEnd req s
  | .obWrite req => Sys2Proof.Machine.execObWrite req s
  | .mrmExit req => Sys2Proof.Machine.execMrmExit req s
  | .stayDataWrite req mem v => Sys2Proof.Machine.execStayDataWrite req mem v s
  | .staymemDataRead req => Sys2Proof.Machine.execStaymemDataRead req s
  | .lcChange req vkey okey tamper nonce => Sys2Proof.Machine.execLcChange req vkey okey tamper nonce s
  | .writeSlot req => Sys2Proof.Machine.execWriteSlot req s
  | .fwCommit req => Sys2Proof.Machine.execFwCommit req s
  | .secTokenDataAccess req v => Sys2Proof.Machine.execSecTokenDataAccess req v s
  | .getVersion => Sys2Proof.Machine.execGetVersion s
  | .getCapabilities => Sys2Proof.Machine.execGetCapabilities s
  | .negotiateAlgorithms ed448 sha3 => Sys2Proof.Machine.execNegotiateAlgorithms ed448 sha3 s
  | .getDigests => Sys2Proof.Machine.execGetDigests s
  | .getCertificate slot off len => Sys2Proof.Machine.execGetCertificate slot off len s
  | .challenge transcript => Sys2Proof.Machine.execChallenge transcript s
  | .getMeasurements index signed transcript => Sys2Proof.Machine.execGetMeasurements index signed transcript s
  | .spdmUnsupportedRequest => Sys2Proof.Machine.execSpdmUnsupportedRequest s
  | .tamperTrip trip more => Sys2Proof.Machine.execTamperTrip trip more s
  | .governorLoop x => Sys2Proof.Machine.execGovernorLoop x s
  | .transientLimit => Sys2Proof.Machine.execTransientLimit s
  | .envelopeOverrun want => Sys2Proof.Machine.execEnvelopeOverrun want s
  | .clockStep die up => Sys2Proof.Machine.execClockStep die up s
  | .brakeAssert => Sys2Proof.Machine.execBrakeAssert s
  | .brakeRelease => Sys2Proof.Machine.execBrakeRelease s
  | .vinLow => Sys2Proof.Machine.execVinLow s
  | .pwrCtrlWrite req v => Sys2Proof.Machine.execPwrCtrlWrite req v s
  | .i3cPrivateWrite addr data => Sys2Proof.Machine.execI3cPrivateWrite addr data s
  | .i3cPrivateRead addr n => Sys2Proof.Machine.execI3cPrivateRead addr n s
  | .reqMrm => Sys2Proof.Machine.execReqMrm s
  | .clrMrm => Sys2Proof.Machine.execClrMrm s
  | .enec => Sys2Proof.Machine.execEnec s
  | .disec => Sys2Proof.Machine.execDisec s
  | .rstdaa => Sys2Proof.Machine.execRstdaa s
  | .setdasa static addr => Sys2Proof.Machine.execSetdasa static addr s
  | .entdaa addr => Sys2Proof.Machine.execEntdaa addr s
  | .getstatus addr => Sys2Proof.Machine.execGetstatus addr s
  | .getbcr addr => Sys2Proof.Machine.execGetbcr addr s
  | .getdcr addr => Sys2Proof.Machine.execGetdcr addr s
  | .getpid addr => Sys2Proof.Machine.execGetpid addr s
  | .rcFieldRead req a => Sys2Proof.Machine.execRcFieldRead req a s
  | .registerWrite req a v => Sys2Proof.Machine.execRegisterWrite req a v s
  | .mastheadRestarted die pass => Sys2Proof.Machine.execMastheadRestarted die pass s
  | .powerLoss => Sys2Proof.Machine.execPowerLoss s
  | .refclkRuns e => Sys2Proof.Machine.execRefclkRuns e s
  | .coldStartRelease e => Sys2Proof.Machine.execColdStartRelease e s

end Sys2Proof.Machine
end

