-- ==== Sys2Proof/Safety.lean ====
section
/-!
DEFINITION. The terms that statements use: legal states, which row runs which tensor instruction, and when a queue's head
issues.
-/

namespace Sys2Proof.Machine

/-- Memory is in its canonical form. -/
def State.MemWf (s : State) : Prop := Memory.wf s.mem = true

/-- The row of a tensor instruction that a queue's head runs: core, queue, opcode, what the run meets, and the engine's
work. WAITF and CRECV, which do more, are not listed. -/
def tensorRow : Instr → Option (Nat × Nat × Nat × Env × Body)
  | .nop core eng env => some (core, eng.num, 0x00, env, bodyNone)
  | .setf core eng env => some (core, eng.num, 0x02, env, bodyFlag false)
  | .addf core eng env => some (core, eng.num, 0x03, env, bodyFlag true)
  | .upassOpen core eng env => some (core, eng.num, 0x04, env, bodyUpass true)
  | .upassClose core eng env => some (core, eng.num, 0x05, env, bodyUpass false)
  | .fmm core env => some (core, 0, 0x10, env, bodyFmm)
  | .bmm core env => some (core, 1, 0x20, env, bodyBmm)
  | .add core env => some (core, 2, 0x30, env, bodyFloat)
  | .sub core env => some (core, 2, 0x31, env, bodyFloat)
  | .mul core env => some (core, 2, 0x32, env, bodyFloat)
  | .minF core env => some (core, 2, 0x33, env, bodyFloat)
  | .maxF core env => some (core, 2, 0x34, env, bodyFloat)
  | .cmp core env => some (core, 2, 0x35, env, bodyFloat)
  | .fma core env => some (core, 2, 0x36, env, bodyFloat)
  | .sel core env => some (core, 2, 0x37, env, bodySel)
  | .absF core env => some (core, 2, 0x38, env, bodyFloat)
  | .neg core env => some (core, 2, 0x39, env, bodyFloat)
  | .cvt core env => some (core, 2, 0x3A, env, bodyFloat)
  | .exp core env => some (core, 2, 0x40, env, bodyFloat)
  | .exp2 core env => some (core, 2, 0x41, env, bodyFloat)
  | .log core env => some (core, 2, 0x42, env, bodyFloat)
  | .log2 core env => some (core, 2, 0x43, env, bodyFloat)
  | .rcp core env => some (core, 2, 0x44, env, bodyFloat)
  | .rsqrt core env => some (core, 2, 0x45, env, bodyFloat)
  | .sqrt core env => some (core, 2, 0x46, env, bodyFloat)
  | .div core env => some (core, 2, 0x47, env, bodyFloat)
  | .tanh core env => some (core, 2, 0x48, env, bodyFloat)
  | .sin core env => some (core, 2, 0x49, env, bodyFloat)
  | .cos core env => some (core, 2, 0x4A, env, bodyFloat)
  | .comb core env => some (core, 2, 0x50, env, bodyComb)
  | .rsum core env => some (core, 2, 0x51, env, bodyRsum)
  | .rmax core env => some (core, 2, 0x52, env, bodyRmax)
  | .iadd core env => some (core, 2, 0x58, env, bodyInt)
  | .isub core env => some (core, 2, 0x59, env, bodyInt)
  | .imin core env => some (core, 2, 0x5A, env, bodyInt)
  | .imax core env => some (core, 2, 0x5B, env, bodyInt)
  | .icmp core env => some (core, 2, 0x5C, env, bodyInt)
  | .andU core env => some (core, 2, 0x5D, env, bodyInt)
  | .orU core env => some (core, 2, 0x5E, env, bodyInt)
  | .xorU core env => some (core, 2, 0x5F, env, bodyInt)
  | .shl core env => some (core, 2, 0x60, env, bodyInt)
  | .shr core env => some (core, 2, 0x61, env, bodyInt)
  | .vmode core env => some (core, 2, 0x68, env, bodyVmode)
  | .optAdam core env => some (core, 2, 0x6A, env, bodyAdam)
  | .optMom core env => some (core, 2, 0x6B, env, bodyMom)
  | .optStep core env => some (core, 2, 0x6C, env, bodyOptStep)
  | .conv core env => some (core, 3, 0x70, env, bodyConv)
  | .conv2 core env => some (core, 3, 0x71, env, bodyConv2)
  | .convx core env => some (core, 3, 0x72, env, bodyConvx)
  | .gather core env => some (core, 4, 0x80, env, bodyGather)
  | .kvread core env => some (core, 4, 0x82, env, bodyKvread)
  | .route core env => some (core, 4, 0x83, env, bodyRoute)
  | .copy core env => some (core, 5, 0x90, env, bodyCopy)
  | .prefetch core env => some (core, 5, 0x91, env, bodyPrefetch)
  | .kvappend core env => some (core, 5, 0x94, env, bodyKvappend)
  | .furl core env => some (core, 5, 0x96, env, bodyFurl)
  | .unfurl core env => some (core, 5, 0x97, env, bodyUnfurl)
  | .csend core env => some (core, 5, 0x98, env, bodyCsend)
  | _ => none

namespace State

/-- The head `w` of a queue, of opcode `op`, may issue, no WAITF holds the queue, and a transfer tag or miss register is free where it
needs one (R198, R234, R245, R290). -/
def HeadReady (s : State) (core eng op : Nat) (w : TWord) : Prop :=
  s.headOf core eng = some w ∧ TW.opcode w = op ∧ s.mayIssue core eng w = true ∧ (s.q core eng).waiting = false
    ∧ s.tagsOut core eng w = false

/-- The head has left its queue, and the cycles it waited are counted (R169, R198). -/
def taken (s : State) (core eng : Nat) (w : TWord) (env : Env) : State := (s.waitStall core eng env.stall).takeHead core eng w

/-- An instruction has left its queue and stands in its Replay Log (R198, R227, R440). -/
def issued (s : State) (core eng : Nat) (w : TWord) (env : Env) : State :=
  ((s.taken core eng w env).markUpdate core eng w).logEnter core eng w (s.srcOf core eng (TW.waitA w))
    (s.srcOf core eng (TW.waitB w))

/-- It passes the checks of R223, and what it meets is clean: no refetch, no detection, and its update pass is not
skipped. -/
def Clean (s : State) (core eng : Nat) (w : TWord) (env : Env) : Prop :=
  (s.taken core eng w env).refusal core eng w env.ext = none ∧ (s.q core eng).restale = false
    ∧ env.hits = [] ∧ (s.issued core eng w env).skipped core eng w = false

/-- The conditions on the state and the operands under which an instruction whose effect needs no other device is carried
out and completes at once: it is the head, may issue, passes its checks, meets no array fault and no segment that lands
apart, and nothing is in flight before it (R198, R200, R223). -/
def Completes (s : State) (core eng op : Nat) (w : TWord) (env : Env) : Prop :=
  s.HeadReady core eng op w ∧ s.Clean core eng w env ∧ env.faults = [] ∧ env.apart = [] ∧ (s.q core eng).flight = []

/-- Its `SEQ` (R227). -/
def issueSeq (s : State) (core eng : Nat) (w : TWord) (env : Env) : Nat := ((s.issued core eng w env).q core eng).seq.toNat

/-- What the engine's work gives an instruction that issues. -/
def runOf (s : State) (core eng : Nat) (w : TWord) (env : Env) (body : Body) : Run := (s.issued core eng w env).work core eng w env body

/-- The state in which the work of an instruction is done and its log entry names the blocks it read and wrote. -/
def worked (s : State) (core eng : Nat) (w : TWord) (env : Env) (body : Body) : State :=
  let r := s.runOf core eng w env body
  r.st.logMod core eng (s.issueSeq core eng w env) fun e => { e with blocksIn := r.reads, blocksOut := r.writes }

/-- The state in which it has completed with the statuses its work met (R200, R226). -/
def completed (s : State) (core eng : Nat) (w : TWord) (env : Env) (body : Body) : State :=
  (s.worked core eng w env body).finish core eng w (s.issueSeq core eng w env)
    ((s.issued core eng w env).streamBit core w) (s.runOf core eng w env body).met

end State

/-- The row of a Chanter instruction: cluster, kind, and the CHN and AON cycles that pass. -/
def chnInstr : Instr → Option (Nat × ChnKind × Nat × Nat)
  | .chanterBaseInstr c cycles aon => some (c, .base, cycles, aon)
  | .tdisp c cycles aon => some (c, .tdisp, cycles, aon)
  | .tdispm c cycles aon => some (c, .tdispm, cycles, aon)
  | .tdesc c cycles aon => some (c, .tdesc, cycles, aon)
  | .tdrain c cycles aon => some (c, .tdrain, cycles, aon)
  | .dmBitSetStore c cycles aon => some (c, .bitSet, cycles, aon)
  | .dmBitClearStore c cycles aon => some (c, .bitClear, cycles, aon)
  | .dmAmo c cycles aon => some (c, .amo, cycles, aon)
  | .tmboxClear c cycles aon => some (c, .mboxClear, cycles, aon)
  | _ => none

/-- A Chanter executes the instruction word `w` of `len` bytes at its pc. -/
def State.Fetches (s : State) (c : Nat) (k : ChnKind) (w len : Nat) : Prop :=
  s.chnReady c k = true ∧ s.chnFetch c = .ok (w, len)

/-- The flow that a received frame belongs to. -/
def frameKey (f : Frame) : Nat := flowKey (hDdie f.hdr) (hSrc f.hdr) (hSdie f.hdr)

/-- A frame of type `typ` for this device comes in at port `p` and passes every check of the link and of the transport but
its sequence number (R348, R351, R354, R357). -/
def State.Takes (s : State) (p : Nat) (f : Frame) (typ : Nat) : Prop :=
  hVer f.hdr = 1 ∧ hType f.hdr = typ ∧ (typ = 7 → hOp f.hdr 3 0 ≤ 4) ∧ s.passesOn f = false ∧ (s.linkTake p f).2 = true
    ∧ f.crcOk = true ∧ (hDinc f.hdr = s.ownInc ∨ typ = 5 ∧ hDinc f.hdr = 0) ∧ (typ = 7 ∨ s.isLost (hSrc f.hdr) = false)
    ∧ ((s.linkTake p f).1.meetInc (frameKey f) (hSinc f.hdr)).2 = true

/-- The state in which the frame's own effect happens: the link has taken it, and its flow has met the incarnation and the
acknowledgement that it carries. -/
def State.entered (s : State) (p : Nat) (f : Frame) : State :=
  let t := ((s.linkTake p f).1.meetInc (frameKey f) (hSinc f.hdr)).1
  if hAckV f.hdr then t.takeAck (frameKey f) (hApsn f.hdr) else t

/-- The frame is the next in order of its flow (R355). -/
def State.InOrder (s : State) (p : Nat) (f : Frame) : Prop :=
  wrapN 32 ((hPsn f.hdr : Int) - ((s.entered p f).flow (frameKey f)).expect) = 0

/-- Rows of frames that the transport delivers in order: port, frame, type, and what the type asks. -/
def frameRow : Instr → Option (Nat × Frame × Nat × (State → Nat → State × Ans))
  | .writeFrameRx p f => some (p, f, 0, State.applyWrite f)
  | .readReqRx p f => some (p, f, 1, State.applyReadReq f)
  | .readDataRx p f => some (p, f, 2, State.applyReadData f)
  | .flagFrameRx p f => some (p, f, 3, State.applyFlag f)
  | _ => none

/-- Rows of notices: port, frame, kind, and what a receiver does for a subject, its incarnation and an origin. -/
def noticeRow : Instr → Option (Nat × Frame × Nat × (State → Nat → Nat → Nat → State))
  | .resetNoticeRx p f => some (p, f, 0, State.noticeLost)
  | .peerDownRx p f => some (p, f, 1, State.noticeLost)
  | .peerUpRx p f accept => some (p, f, 2, State.noticeUp accept)
  | .restoreRx p f others rebuilt => some (p, f, 3, State.noticeRestore others rebuilt)
  | .replayRx p f => some (p, f, 4, State.noticeReplay)
  | _ => none

/-- A flow has delivered a frame. -/
def State.delivered (s : State) (key : Nat) : State := s.modFlow key fun x => { x with expect := x.expect + 1, crcFail := 0 }

/-- The front entry `e` of a ring is of the opcode of a row, and it is the ring's turn to start one: its function is `fn`, and `t` is the
state in which it has left the fetched entries (R405). -/
def State.Starts (s : State) (r op fn : Nat) (e : List Byte) (t : State) : Prop :=
  ∃ es, (s.ring r).entries = e :: es ∧ s.ringFn r = some fn ∧ entryOp e = op ∧ s.nextStart = some r ∧ t = s.begin r

/-- `t` is what a reset by source `src` leaves of `s` (R457, R475 to R478); `keep` says that the source keeps HBM. -/
def State.ResetAs (s t : State) (src : Nat) (keep : Bool) : Prop :=
  t.chip.otp = s.chip.otp ∧ t.chip.flash = s.chip.flash ∧ t.chip.stayMem = s.chip.stayMem ∧ t.hostMem = s.hostMem
    ∧ t.pending = s.pending ∧ (∀ d k, t.stay d k = s.stay d k)
    ∧ (∀ r i, t.rd r i = if r = .CKR_GLITCH_COUNT ∧ i = 0 then s.rd r i else r.resetAt i) ∧ (∀ p, (t.part p).job = none)
    ∧ (∀ a, t.mem.rd a = if keep = true ∧ s.chip.hbmLost = false ∧ a < hbmEnd then s.mem.rd a else 0)
    ∧ t.chip.mrmStays = (s.chip.mrmStays || s.inMrm) ∧ t.chip.power = (s.chip.power && s.chip.start != .cold)
    ∧ t.recov.failedTest = s.recov.failedTest
    ∧ t.chip.src = (if s.chip.power = true ∧ s.chip.start ≠ .cold then 0
      else if (s.chip.start = .ready ∨ s.chip.start = .held) ∧ State.srcRank s.chip.src < State.srcRank src then s.chip.src else src)
    ∧ t.chip.seen = s.chip.seen ||| BitVec.ofNat 8 (2 ^ src)

end Sys2Proof.Machine
end

