-- ==== Sys2Proof/Certificates/Slice0/Obligations.lean ====
section
/-! DEFINITION. The statements for the provers. -/

open Sys2Proof Sys2Proof.Machine

/-- A step with a command in front of the queue is exactly that command's meaning on the state with the queue's rest.
The queue is the model's own (log entry 1). -/
def Obligations.StepRunsFront : Prop :=
  ∀ (c : Instr) (cs : List Instr) (s : State), step { s with pending := c :: cs } = exec c { s with pending := cs }

/-- On an empty queue the block idles: a step answers the same state. This is the model's choice (log entry 1); every
tick that the spec gives is a command of its own. -/
def Obligations.StepIdlesOnEmptyQueue : Prop :=
  ∀ s : State, s.pending = [] → step s = .next s

/-- At reset every register of every unit holds the reset value of its table, with the values of R394 for partition 0,
of R395 for PLC_SYNC_CTRL, of R453 for RES_SNAP_CTRL, of R473 for MGT_WD_CTRL and of R54 for VEC_MODE.FTZ shown; every
byte of memory reads 0, every queue of tensor instructions and every token is empty, no window and no ring entry
exists, every job is IDLE, and no command waits. The bytes of HBM are the model's reading of phase 8 (log entry 5),
host memory's are its choice (log entry 7). -/
def Obligations.ResetHoldsTheSpecsValues : Prop :=
  (∀ (r : Reg) (i : Nat), State.reset.rd r i = r.resetAt i)
    ∧ State.reset.rd .PLC_PART_CLUSTERS 0 = 0xFFFFFFFF#32 ∧ State.reset.rd .PLC_PART_CLUSTERS 1 = 0#32
    ∧ State.reset.rd .PLC_PART_HBM 0 = 0x90#32 ∧ State.reset.rd .PLC_SYNC_CTRL 3 = 0x0FA0#32
    ∧ State.reset.rd .RES_SNAP_CTRL 0 = 0x80714000#32 ∧ State.reset.rd .MGT_WD_CTRL 0 = 0x0A064064#32
    ∧ (∀ core, State.reset.flag .VEC_MODE core 0 = false)
    ∧ (∀ a, State.reset.mem.rd a = 0#8) ∧ (∀ core eng, (State.reset.q core eng).items = [])
    ∧ (∀ core eng t, (State.reset.tok core eng t).count = 0 ∧ (State.reset.tok core eng t).pend = 0)
    ∧ (∀ w, State.reset.win w = none) ∧ (∀ r, (State.reset.ring r).entries = [])
    ∧ (∀ p, p < 8 → State.reset.jobState p = 0) ∧ State.reset.pending = []

/-- For NOP, SETF, ADDF, UPASS_OPEN, UPASS_CLOSE, FMM, BMM, ADD, SUB, MUL, MIN, MAX, CMP, FMA, SEL, ABS, NEG, CVT,
EXP, EXP2, LOG, LOG2, RCP, RSQRT, SQRT, DIV, TANH, SIN, COS, COMB, RSUM, RMAX, IADD, ISUB, IMIN, IMAX, ICMP, AND, OR,
XOR, SHL, SHR, VMODE, OPT_ADAM, OPT_MOM, OPT_STEP, CONV, CONV2, CONVX, GATHER, KVREAD, ROUTE, COPY, PREFETCH,
KVAPPEND, FURL, UNFURL and CSEND (each row with the core, queue, opcode and work that tensorRow gives it): in every
state in which the queue's head has that opcode, may issue and finds a free tag or miss register where it needs one, no WAITF holds the queue, and the head passes the
checks of R223, the command answers the next state in which the head has left its queue with its tokens consumed,
stands in its Replay Log, and has had the work of its engine carried out on it. -/
def Obligations.TensorRowsIssueTheirHead : Prop :=
  ∀ (i : Instr) (core eng op : Nat) (env : Env) (body : Body) (w : TWord) (s : State),
    tensorRow i = some (core, eng, op, env, body) → s.HeadReady core eng op w →
    (s.taken core eng w env).refusal core eng w env.ext = none →
    exec i s = .next ((s.issued core eng w env).carry core eng w (s.issueSeq core eng w env) env
      (State.staleMet (s.q core eng).restale w) body)

/-- For each row of tensorRow: when the head issues and passes its checks, meets no detection, no refetch and no skip,
when the work of its engine waits for nothing more and leaves nothing in flight in the queue, the command answers the
next state in which that work is done, the log entry names the blocks read and written, and the instruction has
completed with exactly the statuses that its work met. And by conditions on the state and the operands alone, the
instruction being the head of a queue with nothing in flight, free to issue, passing its checks, with no detection,
array fault, refetch or skip: NOP, UPASS_OPEN and UPASS_CLOSE of every queue; FMM, BMM and every instruction of the
Vector, Convert and Gather Engines; SETF and ADDF of a flag of this device; COPY, PREFETCH, FURL and UNFURL whose tiles
are not of a peer; KVAPPEND of such a tile whose rows the active staging page has room for; and CSEND of a collective
that has lost no member, all of whose receivers are on this device: each answers the next state in which it has
completed. -/
def Obligations.TensorRowsCompleteAtOnce : Prop :=
  (∀ (i : Instr) (core eng op : Nat) (env : Env) (body : Body) (w : TWord) (s : State),
    tensorRow i = some (core, eng, op, env, body) → s.HeadReady core eng op w → s.Clean core eng w env →
    (s.runOf core eng w env body).waits = [] → (s.runOf core eng w env body).segs = [] → (s.runOf core eng w env body).col = none →
    (s.runOf core eng w env body).stuck = false → ((s.worked core eng w env body).q core eng).flight = [] →
    exec i s = .next (s.completed core eng w env body))
  ∧ (∀ (core : CoreId) (eng : Eng) (env : Env) (w : TWord) (s : State),
      ∀ x ∈ [(Instr.nop core eng env, 0x00, bodyNone), (.upassOpen core eng env, 0x04, bodyUpass true),
        (.upassClose core eng env, 0x05, bodyUpass false)],
      s.Completes core eng.num x.2.1 w env → exec x.1 s = .next (s.completed core eng.num w env x.2.2))
  ∧ (∀ (core : CoreId) (env : Env) (w : TWord) (s : State),
      ∀ x ∈ [(Instr.fmm core env, 0, 0x10, bodyFmm), (.bmm core env, 1, 0x20, bodyBmm), (.conv core env, 3, 0x70, bodyConv),
        (.conv2 core env, 3, 0x71, bodyConv2), (.convx core env, 3, 0x72, bodyConvx), (.gather core env, 4, 0x80, bodyGather),
        (.kvread core env, 4, 0x82, bodyKvread), (.route core env, 4, 0x83, bodyRoute), (.add core env, 2, 0x30, bodyFloat),
        (.sub core env, 2, 0x31, bodyFloat), (.mul core env, 2, 0x32, bodyFloat), (.minF core env, 2, 0x33, bodyFloat),
        (.maxF core env, 2, 0x34, bodyFloat), (.cmp core env, 2, 0x35, bodyFloat), (.fma core env, 2, 0x36, bodyFloat),
        (.sel core env, 2, 0x37, bodySel), (.absF core env, 2, 0x38, bodyFloat), (.neg core env, 2, 0x39, bodyFloat),
        (.cvt core env, 2, 0x3A, bodyFloat), (.exp core env, 2, 0x40, bodyFloat), (.exp2 core env, 2, 0x41, bodyFloat),
        (.log core env, 2, 0x42, bodyFloat), (.log2 core env, 2, 0x43, bodyFloat), (.rcp core env, 2, 0x44, bodyFloat),
        (.rsqrt core env, 2, 0x45, bodyFloat), (.sqrt core env, 2, 0x46, bodyFloat), (.div core env, 2, 0x47, bodyFloat),
        (.tanh core env, 2, 0x48, bodyFloat), (.sin core env, 2, 0x49, bodyFloat), (.cos core env, 2, 0x4A, bodyFloat),
        (.comb core env, 2, 0x50, bodyComb), (.rsum core env, 2, 0x51, bodyRsum), (.rmax core env, 2, 0x52, bodyRmax),
        (.iadd core env, 2, 0x58, bodyInt), (.isub core env, 2, 0x59, bodyInt), (.imin core env, 2, 0x5A, bodyInt),
        (.imax core env, 2, 0x5B, bodyInt), (.icmp core env, 2, 0x5C, bodyInt), (.andU core env, 2, 0x5D, bodyInt),
        (.orU core env, 2, 0x5E, bodyInt), (.xorU core env, 2, 0x5F, bodyInt), (.shl core env, 2, 0x60, bodyInt),
        (.shr core env, 2, 0x61, bodyInt), (.vmode core env, 2, 0x68, bodyVmode), (.optAdam core env, 2, 0x6A, bodyAdam),
        (.optMom core env, 2, 0x6B, bodyMom), (.optStep core env, 2, 0x6C, bodyOptStep)],
      s.Completes core x.2.1 x.2.2.1 w env → exec x.1 s = .next (s.completed core x.2.1 w env x.2.2.2))
  ∧ (∀ (core : CoreId) (eng : Eng) (env : Env) (w : TWord) (s : State), s.flagScope core w ≤ 2 →
      ∀ x ∈ [(Instr.setf core eng env, 0x02, bodyFlag false), (.addf core eng env, 0x03, bodyFlag true)],
      s.Completes core eng.num x.2.1 w env → exec x.1 s = .next (s.completed core eng.num w env x.2.2))
  ∧ (∀ (core : CoreId) (env : Env) (w : TWord) (s : State), (∀ d ∈ s.descsOf core w, Tile.space d ≠ 3) →
      (∀ x ∈ [(Instr.copy core env, 0x90, bodyCopy), (.prefetch core env, 0x91, bodyPrefetch), (.furl core env, 0x96, bodyFurl),
        (.unfurl core env, 0x97, bodyUnfurl)],
        s.Completes core 5 x.2.1 w env → exec x.1 s = .next (s.completed core 5 w env x.2.2))
      ∧ (∀ x, x = s.stageOf (clOfCore core) (core % 8) → (x.page x.active).st = .filling → (x.page x.active).fill + bits w 58 43 ≤ 256 →
        s.Completes core 5 0x94 w env → exec (.kvappend core env) s = .next (s.completed core 5 w env bodyKvappend))
      ∧ (∀ e t, t = s.issued core 5 w env → e = t.col (dieOfCore core) (bits w 76 65) → t.colLost e = false →
        (∀ dev ∈ t.colPeers e true (bits w 64 60) (bits w 59 42), dev = t.devId) →
        s.Completes core 5 0x98 w env → exec (.csend core env) s = .next (s.completed core 5 w env bodyCsend)))

/-- For each row of tensorRow: when the head may issue and fails a check of R223 with a status, the command answers
the next state in which the head has left its queue and has been refused with that status: it entered no Replay Log
and did no work, its event record tells of the refusal, and its core's queues hold for a context-level fault of cause
0x08. -/
def Obligations.RefusedHeadHoldsItsCore : Prop :=
  ∀ (i : Instr) (core eng op : Nat) (env : Env) (body : Body) (w : TWord) (s : State) (st : Status),
    tensorRow i = some (core, eng, op, env, body) → s.HeadReady core eng op w →
    (s.taken core eng w env).refusal core eng w env.ext = some st →
    exec i s = .next ((s.taken core eng w env).refuse core eng w st)
      ∧ ((s.core core).hold = none → (((s.taken core eng w env).refuse core eng w st).core core).hold = some ⟨0x08, eng, st⟩)

/-- For each row of tensorRow, in a state in which the core has a context-level hold, the command changes nothing. -/
def Obligations.HeldCoreIssuesNothing : Prop :=
  ∀ (i : Instr) (core eng op : Nat) (env : Env) (body : Body) (s : State),
    tensorRow i = some (core, eng, op, env, body) → (s.core core).hold.isSome = true → exec i s = .next s

/-- A WAITF at the head whose condition is true, or that an update pass skips, issues and completes at once; one whose
condition is false holds its queue, its own engine's items unchanged and nothing else changed; when the condition of a
WAITF that holds its queue has become true the event issues it. A CRECV at the head that passes its checks issues and
then takes any result that has already come. -/
def Obligations.WaitfAndCrecvIssueOrHold : Prop :=
  (∀ (core : CoreId) (eng : Eng) (env : Env) (w : TWord) (s : State), s.HeadReady core eng.num 0x01 w →
      (s.taken core eng.num w env).refusal core eng.num w env.ext = none →
      (s.blockedWait core eng.num = none ∨ s.skipped core eng.num w = true) →
      exec (.waitf core eng env) s = .next ((s.issued core eng.num w env).carry core eng.num w (s.issueSeq core eng.num w env) env
        [] bodyNone))
  ∧ (∀ (core : CoreId) (eng : Eng) (env : Env) (w : TWord) (s : State), s.HeadReady core eng.num 0x01 w →
      (s.blockedWait core eng.num).isSome = true → s.skipped core eng.num w = false →
      exec (.waitf core eng env) s = .next ((s.waitStall core eng.num env.stall).modQ core eng.num fun q => { q with waiting := true }))
  ∧ (∀ (core : CoreId) (eng : Eng) (w : TWord) (s : State), s.headOf core eng.num = some w →
      (s.q core eng.num).waiting = true → TW.opcode w = 1 → s.mayIssue core eng.num w = true → s.waitHolds core w = true →
      exec (.waitfSatisfied core eng) s = .next (s.issue core eng.num w .quiet bodyNone))
  ∧ (∀ (core : CoreId) (env : Env) (w : TWord) (s : State), s.HeadReady core 5 0x99 w →
      (s.taken core 5 w env).refusal core 5 w env.ext = none →
      exec (.crecv core env) s = .next (((s.issued core 5 w env).carry core 5 w (s.issueSeq core 5 w env) env
        [] bodyCrecv).deliverAll 8))

/-- When the head of a queue waits on a token with COUNT 0, PEND above 0 and PEND equal to PEND_OWN, and no
context-level fault holds the core, the event answers a next state in which the head has left its queue and counts in SEQ,
SHR_TOKDL_COUNT has risen by 1 up to its limit, SHR_STATUS bit 30 is set, and the core holds for a fault of cause 0x08
with status DEADLOCK. It executes and posts nothing: no COUNT rises. That it counts in SEQ is the model's reading (log entry 24). -/
def Obligations.TokenDeadlockEndsTheHead : Prop :=
  ∀ (core : CoreId) (eng : Eng) (w : TWord) (k : Nat) (s : State), s.headOf core eng.num = some w → k ∈ TW.waits w →
    (s.tok core eng.num k).count = 0 → 0 < (s.tok core eng.num k).pend →
    (s.tok core eng.num k).pend = (s.tok core eng.num k).pendOwn → (s.core core).hold = none →
    ∃ t, exec (.tokenDeadlock core eng) s = .next t
      ∧ (t.q core eng.num).items = (s.q core eng.num).items.drop 1 ∧ (t.q core eng.num).seq = (s.q core eng.num).seq + 1
      ∧ t.rd .SHR_TOKDL_COUNT (clOfCore core) = BitVec.ofNat 32 (min (2 ^ 32 - 1) ((s.rd .SHR_TOKDL_COUNT (clOfCore core)).toNat + 1))
      ∧ t.flag .SHR_STATUS (clOfCore core) 30 = true
      ∧ (t.core core).hold = some ⟨0x08, eng.num, .deadlock⟩
      ∧ (∀ e id, (t.tok core e id).count = (s.tok core e id).count)

/-- FLAG_DEADLOCK of a die completes every WAITF of the closed sets of its wait-for graph with DEADLOCK, in turn, each
setting SHR_STATUS bit 31 and counting in SHR_DEADLOCK_COUNT of its cluster. WAITF_TIMEOUT of a WAITF that holds its
queue on an open flag, while the context runs, the cluster's timeout is not 0 and no fault holds the core, completes it with TIMEOUT,
sets SHR_STATUS bit 29 and counts in SHR_TIMEOUT_COUNT. -/
def Obligations.FlagDeadlockAndTimeoutEndWaits : Prop :=
  (∀ (die : DieId) (s : State), exec (.flagDeadlock die) s = .next ((s.deadWaits die).foldl (fun s n =>
      ((s.endWait n.1 n.2.1 n.2.2 .deadlock).setFlag .SHR_STATUS (clOfCore n.1) 31).countSat .SHR_DEADLOCK_COUNT
        (clOfCore n.1) 1) s))
  ∧ (∀ (core : CoreId) (eng : Eng) (w : TWord) (s : State), s.blockedWait core eng.num = some w → s.running (clOfCore core) = true →
      s.fld .SHR_CTRL (clOfCore core) 31 16 ≠ 0 → s.flagClosed core w = false → (s.core core).hold = none →
      exec (.waitfTimeout core eng) s = .next (((s.endWait core eng.num w .timeout).setFlag .SHR_STATUS (clOfCore core)
        29).countSat .SHR_TIMEOUT_COUNT (clOfCore core) 1))

/-- When the head's waits are satisfied, one of its tokens is STALE, nothing holds the core and no refetch is under
way, STALE_REFETCH answers a next state in which a refetch is under way, the head and every token stand as before, and
memory is unchanged. When a refetch is under way and a head stands in the queue, STALE_REFETCH_LAND answers a next
state in which none is, the queue's items stand as before, and a token that the head waits on is still STALE only
where one of its armed ranges has seen a further write. -/
def Obligations.StaleHeadRefetchesBeforeItIssues : Prop :=
  (∀ (core : CoreId) (eng : Eng) (w : TWord) (s : State), s.headOf core eng.num = some w → (s.core core).hold = none →
      s.waitsMet core eng.num w = true → s.waitsStale core eng.num w = true → (s.q core eng.num).refetching = false →
      ∃ t, exec (.staleRefetch core eng) s = .next t ∧ (t.q core eng.num).refetching = true
        ∧ (t.q core eng.num).restale = true ∧ (t.q core eng.num).items = (s.q core eng.num).items ∧ t.mem = s.mem
        ∧ ∀ c e id, t.tok c e id = s.tok c e id)
  ∧ (∀ (core : CoreId) (eng : Eng) (w : TWord) (s : State), s.headOf core eng.num = some w →
      (s.q core eng.num).refetching = true →
      ∃ t, exec (.staleRefetchLand core eng) s = .next t ∧ (t.q core eng.num).refetching = false
        ∧ (t.q core eng.num).items = (s.q core eng.num).items
        ∧ ∀ k ∈ TW.waits w, (t.tok core eng.num k).stale = true →
          ((t.core core).watch.any fun x => x.2.armed && x.2.eng == eng.num && x.2.tok == k && x.2.seen) = true)

/-- A write through SHR_FLAG_DATA or SHR_REG_DATA by a requester that reaches the register changes the selected flag
or setter group, to the value written (a group's reserved bits 0), when the context is stopped, the selection exists
and a die flag lies in the cluster's range; any other such write changes nothing but SHR_STATUS bit 25. A write to
SHR_CTRL or SHR_DFLAG_RANGE is performed while the context is stopped, and otherwise changes nothing but that bit. A
requester that does not reach the block changes nothing. -/
def Obligations.ShroudDataWritesFollowTheirGuards : Prop :=
  (∀ (c : ClId) (req : Req) (v : Word) (s : State), s.reaches req .SHR c 0x24 = true →
      (s.shrWritable c (s.sel req .SHR_FLAG_SEL c) = true → ∃ t, exec (.shrFlagDataWrite c req v) s = .next t
        ∧ t.flagVal c (bit (s.sel req .SHR_FLAG_SEL c) 10) (bits (s.sel req .SHR_FLAG_SEL c) 9 0) = v
        ∧ t = { s with clusters := t.clusters, dies := t.dies })
      ∧ (s.shrWritable c (s.sel req .SHR_FLAG_SEL c) = false →
        exec (.shrFlagDataWrite c req v) s = .next (s.setFlag .SHR_STATUS c 25)))
  ∧ (∀ (c : ClId) (req : Req) (v : Word) (s : State), s.reaches req .SHR c 0x2C = true →
      (s.shrWritable c (s.sel req .SHR_REG_SEL c) = true → ∃ t, exec (.shrRegDataWrite c req v) s = .next t
        ∧ t.group c (bit (s.sel req .SHR_REG_SEL c) 10) (bits (s.sel req .SHR_REG_SEL c) 9 0)
            (bits (s.sel req .SHR_REG_SEL c) 11 11) = (if bit v 30 then v &&& 0xFFFFFC00#32 else v &&& 0xFFFFE000#32)
        ∧ t = { s with clusters := t.clusters, dies := t.dies })
      ∧ (s.shrWritable c (s.sel req .SHR_REG_SEL c) = false →
        exec (.shrRegDataWrite c req v) s = .next (s.setFlag .SHR_STATUS c 25)))
  ∧ (∀ (c : ClId) (req : Req) (v : Word) (s : State),
      (s.reaches req .SHR c 0x10 = true → s.running c = false →
        exec (.shrConfigWrite c req false v) s = .next (s.wr .SHR_CTRL c (v &&& 0xFFFF0000#32)))
      ∧ (s.reaches req .SHR c 0x18 = true → s.running c = false →
        exec (.shrConfigWrite c req true v) s = .next (s.wr .SHR_DFLAG_RANGE c (v &&& 0x03FF03FF#32)))
      ∧ (∀ range, s.reaches req .SHR c (if range then 0x18 else 0x10) = true → s.running c = true →
        exec (.shrConfigWrite c req range v) s = .next (s.setFlag .SHR_STATUS c 25))
      ∧ (∀ range, s.reaches req .SHR c (if range then 0x18 else 0x10) = false → exec (.shrConfigWrite c req range v) s = .next s))

/-- In a destination whose lines do not overlap, an elementwise run leaves at every row and column the code that the
operation gives for the operands as they stood at issue. And for every row of the Forward Array, the Backward Array
and the Vector Engine whose head issues with nothing amiss (SETF and ADDF: of a flag of this device): the command answers a next state in which a byte of memory
reads as before unless it lies in a destination tile of the instruction, in an entry of a Replay Log, in the cluster's
Event Ring, or in the Snapshot Slot page of a page still protected; host memory, the fabric, the host interface, the
chip and the waiting commands are as they were. -/
def Obligations.ResultsStandWhereTheyAreStoredAndNowhereElse : Prop :=
  (∀ (m : Memory) (core : Nat) (ftz : Bool) (x : VArgs) (i j width : Nat),
      (Tile.dataRanges x.dd).Pairwise (fun a b => a.1 + a.2 ≤ b.1 ∨ b.1 + b.2 ≤ a.1) → i < Tile.rows x.dd → j < Tile.cols x.dd →
      width = (if Tile.isPair x.dd then 32 else Tile.elemBits (Tile.fmt x.dd)) →
      Tile.code (runFloat m core ftz x).mem core x.dd i j = (floatElem m core ftz x i j).1 % 2 ^ width
      ∧ Tile.code (runInt m core x).mem core x.dd i j = (intOp x.op x.cond (BitVec.ofNat 32 (Tile.code m core x.da i j))
        (BitVec.ofNat 32 (bCode m core x.bmode x.db x.imm i j).2)).toNat % 2 ^ width)
  ∧ (∀ (i : Instr) (core eng op : Nat) (env : Env) (body : Body) (w : TWord) (s : State) (a ring : Nat),
      tensorRow i = some (core, eng, op, env, body) → eng ≤ 2 → (op = 0x02 ∨ op = 0x03 → s.flagScope core w ≤ 2) →
      s.HeadReady core eng op w → s.Clean core eng w env →
      (∀ r ∈ ((TW.outs w).map (s.desc core)).flatMap (Tile.physRanges core), a < r.1 ∨ r.1 + r.2 ≤ a) →
      (∀ c e seq, a < s.logAddr c e seq ∨ s.logAddr c e seq + 64 ≤ a) →
      ring = cmemBase (clOfCore core) + s.fld .CHN_EVR_BASE (clOfCore core) 23 5 * 32 → a < ring ∨ ring + 2 ^ 21 ≤ a →
      (∀ pg ∈ s.snap.prot, a < s.slotPage pg ∨ s.slotPage pg + State.pageBytes ≤ a) →
      ∃ t, exec i s = .next t ∧ t.mem.rd a = s.mem.rd a ∧ t.hostMem = s.hostMem ∧ t.fab = s.fab ∧ t.hif = s.hif ∧ t.chip = s.chip
        ∧ t.pending = s.pending)

/-- For CHANTER_BASE_INSTR, TDISP, TDISPM, TDESC, TDRAIN, DM_BIT_SET_STORE, DM_BIT_CLEAR_STORE, DM_AMO, TMBOX_CLEAR
and TMBOUT_WRITE: when the cluster's context runs, no dispatch is held, the Chanter does not wait in WFI, and the
instruction at the pc is of the row's kind and executes to a next pc, the command answers the state in which the
cycles have passed, the instruction has had its effect, the pc is that next pc and the instruction has retired; a
write of tmbout also raises a mailbox event to the Masthead. By the instruction and the state alone: LUI, AUIPC, the
integer operations, jumps, branches, loads and stores of Data Memory, FENCE and MRET; stores through the two aliases;
LR, SC and every AMO on Data Memory; a write of tmbox; a write of tmbout; TDRAIN of drained queues; and TDESC of an entry that no waiting
instruction names, in cores that are enabled, each complete with the result that the standard or the rule gives. The
base instruction set is the RISC-V standard's (log entry 11). -/
def Obligations.ChanterRowsRetireWhatTheyExecute : Prop :=
  (∀ (i : Instr) (c cycles aon : Nat) (k : ChnKind) (w len : Nat) (s u : State) (pc : DWord),
      chnInstr i = some (c, k, cycles, aon) → s.Fetches c k w len →
      (s.chnClock c cycles aon).execRv c w (s.chn c).pc len = .next u pc →
      exec i s = .next (u.chnRetire c pc (State.writesInstret w)))
  ∧ (∀ (c : ClId) (cycles aon w len : Nat) (s u : State) (pc : DWord), s.Fetches c .mboxOut w len →
      (s.chnClock c cycles aon).execRv c w (s.chn c).pc len = .next u pc →
      exec (.tmboutWrite c cycles aon) s = .next ((u.chnRetire c pc (State.writesInstret w)).emit (.mailbox c)))
  ∧ (∀ (c : ClId) (cycles aon w len : Nat) (s t : State) (pc next a b : DWord), s.Fetches c .base w len → t = s.chnClock c cycles aon →
      pc = (s.chn c).pc → next = pc + BitVec.ofNat 64 len → a = (s.chn c).reg (Rv.rs1Of w) → b = (s.chn c).reg (Rv.rs2Of w) →
      (∀ v : DWord, (Rv.opOf w, some v) ∈ [(0x37, some (Rv.immU w)), (0x17, some (pc + Rv.immU w)),
          (0x33, Rv.alu (Rv.f7Of w) (Rv.f3Of w) a b), (0x3B, Rv.alu32 (Rv.f7Of w) (Rv.f3Of w) a b)]
          ∨ (Rv.opOf w = 0x13 ∧ Rv.f3Of w ≠ 1 ∧ Rv.f3Of w ≠ 5 ∧ Rv.alu 0 (Rv.f3Of w) a (Rv.immI w) = some v) →
        exec (.chanterBaseInstr c cycles aon) s = .next ((t.modChn c fun h => h.setReg (Rv.rdOf w) v).chnRetire c next false))
      ∧ (Rv.opOf w = 0x6F → exec (.chanterBaseInstr c cycles aon) s
        = .next ((t.modChn c fun h => h.setReg (Rv.rdOf w) next).chnRetire c (pc + Rv.immJ w) false))
      ∧ (Rv.opOf w = 0x67 → Rv.f3Of w = 0 → exec (.chanterBaseInstr c cycles aon) s
        = .next ((t.modChn c fun h => h.setReg (Rv.rdOf w) next).chnRetire c ((a + Rv.immI w) &&& ~~~1#64) false))
      ∧ (∀ taken : Bool, Rv.opOf w = 0x63 → Rv.branch (Rv.f3Of w) a b = some taken → exec (.chanterBaseInstr c cycles aon) s
        = .next (t.chnRetire c (if taken then pc + Rv.immB w else next) false))
      ∧ (∀ n sg x, Rv.opOf w = 0x03 → State.loadOf (Rv.f3Of w) = some (n, sg) → x = (a + Rv.immI w).toNat → x % n = 0 →
        0x100000 ≤ x → x + n ≤ 0x140000 → ∀ v, v = leNat ((s.chn c).dm.rdN (x - 0x100000) n) →
        exec (.chanterBaseInstr c cycles aon) s = .next ((t.modChn c fun h => h.setReg (Rv.rdOf w)
          (if sg then BitVec.ofInt 64 (sext (8 * n) v) else BitVec.ofNat 64 v)).chnRetire c next false))
      ∧ (∀ n x, Rv.opOf w = 0x23 → Rv.f3Of w < 4 → n = 2 ^ Rv.f3Of w → x = (a + Rv.immS w).toNat → x % n = 0 → 0x100000 ≤ x →
        x + n ≤ 0x140000 → exec (.chanterBaseInstr c cycles aon) s = .next ((t.modChn c fun h => { h with
          dm := h.dm.wrN (x - 0x100000) (natLe n b.toNat) }).chnRetire c next false))
      ∧ (Rv.opOf w = 0x0F → Rv.f3Of w ≤ 1 → exec (.chanterBaseInstr c cycles aon) s = .next (t.chnRetire c next false))
      ∧ (w = 0x30200073 → exec (.chanterBaseInstr c cycles aon) s = .next ((t.modChn c fun h => { h with
          mstatus := (h.mstatus &&& ~~~8#64) ||| (if bit h.mstatus 7 then 8#64 else 0) ||| 0x80#64 }).chnRetire c (s.chn c).mepc false)))
  ∧ (∀ (c : ClId) (cycles aon w len n x o : Nat) (s t : State) (k : ChnKind) (next b : DWord), s.Fetches c k w len →
      t = s.chnClock c cycles aon → next = (s.chn c).pc + BitVec.ofNat 64 len → b = (s.chn c).reg (Rv.rs2Of w) →
      x = ((s.chn c).reg (Rv.rs1Of w) + Rv.immS w).toNat → Rv.f3Of w < 4 → n = 2 ^ Rv.f3Of w → x % n = 0 →
      (k = .bitSet → o = x - 0x140000 → x + n ≤ 0x180000 → exec (.dmBitSetStore c cycles aon) s = .next ((t.modChn c fun h => { h with
        dm := h.dm.wrN o (List.zipWith (· ||| ·) (h.dm.rdN o n) (natLe n b.toNat)) }).chnRetire c next false))
      ∧ (k = .bitClear → o = x - 0x180000 → x + n ≤ 0x1C0000 → exec (.dmBitClearStore c cycles aon) s = .next ((t.modChn c fun h => { h with
        dm := h.dm.wrN o (List.zipWith (fun y z => y &&& ~~~z) (h.dm.rdN o n) (natLe n b.toNat)) }).chnRetire c next false)))
  ∧ (∀ (c : ClId) (cycles aon w len n x o f5 old : Nat) (s t : State) (next b e : DWord), s.Fetches c .amo w len →
      t = s.chnClock c cycles aon → next = (s.chn c).pc + BitVec.ofNat 64 len → b = (s.chn c).reg (Rv.rs2Of w) →
      x = ((s.chn c).reg (Rv.rs1Of w)).toNat → (Rv.f3Of w = 2 ∧ n = 4 ∨ Rv.f3Of w = 3 ∧ n = 8) → x % n = 0 → 0x100000 ≤ x →
      x + n ≤ 0x140000 → o = x - 0x100000 → f5 = Rv.f7Of w / 4 → old = leNat ((s.chn c).dm.rdN o n) →
      e = (if n = 4 then Rv.sx32 (BitVec.ofNat 64 old) else BitVec.ofNat 64 old) →
      (f5 = 2 → Rv.rs2Of w = 0 → exec (.dmAmo c cycles aon) s = .next ((t.modChn c fun h =>
        ({ h with resv := some (x, n) } : Chanter).setReg (Rv.rdOf w) e).chnRetire c next false))
      ∧ (f5 = 3 → (s.chn c).resv = some (x, n) → exec (.dmAmo c cycles aon) s = .next ((t.modChn c fun h =>
        ({ h with dm := h.dm.wrN o (natLe n b.toNat), resv := none } : Chanter).setReg (Rv.rdOf w) 0).chnRetire c next false))
      ∧ (f5 = 3 → (s.chn c).resv ≠ some (x, n) → exec (.dmAmo c cycles aon) s = .next ((t.modChn c fun h =>
        ({ h with resv := none } : Chanter).setReg (Rv.rdOf w) 1).chnRetire c next false))
      ∧ (∀ v : Nat, (n = 4 → (Rv.amoOp f5 (BitVec.ofNat 32 old) (b.truncate 32)).map (·.toNat) = some v) →
        (n = 8 → (Rv.amoOp f5 (BitVec.ofNat 64 old) b).map (·.toNat) = some v) → exec (.dmAmo c cycles aon) s = .next ((t.modChn c fun h =>
          ({ h with dm := h.dm.wrN o (natLe n v) } : Chanter).setReg (Rv.rdOf w) e).chnRetire c next false)))
  ∧ (∀ (c : ClId) (cycles aon w len : Nat) (s t : State) (next v new : DWord) (m : Word), s.Fetches c .mboxClear w len →
      t = s.chnClock c cycles aon → next = (s.chn c).pc + BitVec.ofNat 64 len → m = s.rd .CHN_MBOX c →
      v = (if 4 ≤ Rv.f3Of w then BitVec.ofNat 64 (Rv.rs1Of w) else (s.chn c).reg (Rv.rs1Of w)) →
      new = (if Rv.f3Of w % 4 = 1 then v else if Rv.f3Of w % 4 = 2 then m.setWidth 64 ||| v else m.setWidth 64 &&& ~~~v) →
      exec (.tmboxClear c cycles aon) s = .next (((t.wr .CHN_MBOX c (m &&& ~~~(new.truncate 32))).modChn c fun h =>
        h.setReg (Rv.rdOf w) (m.setWidth 64)).chnRetire c next false))
  ∧ (∀ (c : ClId) (cycles aon w len : Nat) (s t : State) (next v new : DWord) (m : Word), s.Fetches c .mboxOut w len →
      t = s.chnClock c cycles aon → next = (s.chn c).pc + BitVec.ofNat 64 len → m = s.rd .CHN_MBOX_OUT c →
      v = (if 4 ≤ Rv.f3Of w then BitVec.ofNat 64 (Rv.rs1Of w) else (s.chn c).reg (Rv.rs1Of w)) →
      new = (if Rv.f3Of w % 4 = 1 then v else if Rv.f3Of w % 4 = 2 then m.setWidth 64 ||| v else m.setWidth 64 &&& ~~~v) →
      exec (.tmboutWrite c cycles aon) s = .next ((((t.wr .CHN_MBOX_OUT c (m ||| new.truncate 32)).modChn c fun h =>
        h.setReg (Rv.rdOf w) (m.setWidth 64)).chnRetire c next false).emit (.mailbox c)))
  ∧ (∀ (c : ClId) (cycles aon w len : Nat) (s : State), s.Fetches c .tdrain w len → Rv.f7Of w = 0 → Rv.rdOf w = 0 → Rv.rs2Of w = 0 →
      ((s.chn c).reg (Rv.rs1Of w)).toNat < 16384 → s.drained c ((s.chn c).reg (Rv.rs1Of w)).toNat = true →
      exec (.tdrain c cycles aon) s = .next ((s.chnClock c cycles aon).chnRetire c ((s.chn c).pc + BitVec.ofNat 64 len) false))
  ∧ (∀ (c : ClId) (cycles aon w len x v : Nat) (s : State), s.Fetches c .tdesc w len → Rv.f7Of w = 0 →
      x = ((s.chn c).reg (Rv.rs1Of w)).toNat → v = ((s.chn c).reg (Rv.rs2Of w)).toNat → v < 65536 → x % 32 = 0 → 0x100000 ≤ x →
      x + 32 ≤ 0x140000 → s.disabledOf c (v / 256) = 0 →
      (∀ k, k < 8 → (v / 256).testBit k = true → s.namesDesc (8 * c + k) (v % 256) = false ∧ s.journalFull (8 * c + k) (v % 256) = false) →
      ∃ t, exec (.tdesc c cycles aon) s = .next t ∧ t.mem = s.mem ∧ (t.chn c).pc = (s.chn c).pc + BitVec.ofNat 64 len
        ∧ (t.chn c).reg (Rv.rdOf w) = 0
        ∧ ∀ core i, t.desc core i = if core / 8 = c.val ∧ (v / 256).testBit (core % 8) = true ∧ i = v % 256
          then BitVec.ofNat 256 (leNat ((s.chn c).dm.rdN (x - 0x100000) 32)) else s.desc core i)

/-- For the Chanter rows of chnInstr: when the instruction that the Chanter executes raises an exception with one
cause and a stated mtval, the command answers the state in which mepc is the instruction's pc, mcause and mtval are
the exception's, MIE has moved to MPIE and is 0, MPP is machine mode, the pc is mtvec's base, and no reservation is
held. When it stalls (a dispatch onto a full queue, TDRAIN), the command answers the state in which it has not
retired. Which mtval an illegal instruction leaves is free (log entry 11). -/
def Obligations.ChanterRowsTrapAndStall : Prop :=
  (∀ (i : Instr) (c cycles aon : Nat) (k : ChnKind) (w len : Nat) (s u : State) (x : Rv.Trap),
      chnInstr i = some (c, k, cycles, aon) → s.Fetches c k w len →
      (s.chnClock c cycles aon).execRv c w (s.chn c).pc len = .trap u x → x.open_ = false → x.alt = x.cause →
      exec i s = .next (u.modChn c fun h =>
        { h with
          mepc := h.pc
          mcause := BitVec.ofNat 64 x.cause
          mtval := x.tval
          mstatus := (if bit h.mstatus 3 then 0x80#64 else 0) ||| 0x1800#64
          pc := h.mtvec &&& ~~~3#64
          resv := none }))
  ∧ (∀ (i : Instr) (c cycles aon : Nat) (k : ChnKind) (w len : Nat) (s u : State),
      chnInstr i = some (c, k, cycles, aon) → s.Fetches c k w len →
      (s.chnClock c cycles aon).execRv c w (s.chn c).pc len = .stall u → exec i s = .next u)

/-- When the Chanter executes a TDISP whose word, the pair of its source registers, or a TDISPM whose word, the 16 aligned
bytes of Data Memory at its address, names no disabled core and has a free entry in each selected queue, the command
answers a state in which the word stands at the end of exactly the
queues of its engine in the cores of its CORE_MASK, every other queue's items are as before, tdispcnt has risen by 1,
memory is unchanged, and, where the word has LAST 0 or nothing is armed, the pc is that of the next instruction. -/
def Obligations.TdispEntersEverySelectedQueue : Prop :=
  ∀ (i : Instr) (c : ClId) (cycles aon w len : Nat) (s : State) (x : TWord), Rv.rdOf w = 0 →
    ((i = .tdisp c cycles aon ∧ s.Fetches c .tdisp w len ∧ Rv.f7Of w = 0
        ∧ x = BitVec.ofNat 128 (((s.chn c).reg (Rv.rs1Of w)).toNat + ((s.chn c).reg (Rv.rs2Of w)).toNat * 2 ^ 64))
      ∨ (∃ a, i = .tdispm c cycles aon ∧ s.Fetches c .tdispm w len ∧ a = ((s.chn c).reg (Rv.rs1Of w) + Rv.immI w).toNat
        ∧ a % 16 = 0 ∧ 0x100000 ≤ a ∧ a + 16 ≤ 0x140000 ∧ x = BitVec.ofNat 128 (leNat ((s.chn c).dm.rdN (a - 0x100000) 16)))) →
    s.disabledOf c (TW.coreMask x) = 0 → s.hasRoom c x = true →
    ∃ t, exec i s = .next t ∧ t.mem = s.mem
      ∧ (∀ core eng, (t.q core eng).items = (s.q core eng).items
          ++ (if core / 8 = c.val ∧ core % 8 ∈ State.selected x ∧ eng = State.routeOf x then [x] else []))
      ∧ (t.chn c).tdispcnt = (s.chn c).tdispcnt + 1
      ∧ (TW.last x = false ∨ (s.chn c).armed = false → (t.chn c).pc = (s.chn c).pc + BitVec.ofNat 64 len)

/-- A held dispatch whose queues have free entries goes out, its hold cycles counted. CHANTER_TIMER brings time to
tmtimecmp. The highest pending and enabled interrupt is taken while MIE is 1: mepc is the pc, mcause its number with
bit 63, a held dispatch is abandoned, and the pc is its vector. CHN_MBOX_SET sets the doorbell bits. A write of 1 to
RUN with no load in progress starts the context; during a load into the active slot it waits for it; a write of 0
clears RUN and abandons a held dispatch, whose hold cycles are a free value (log entry 119). -/
def Obligations.ChanterEventsComplete : Prop :=
  (∀ (c : ClId) (cycles aon : Nat) (d : HeldDispatch) (s : State), (s.chn c).held = some d → s.running c = true →
      s.hasRoom c d.word = true →
      exec (.dispatchHeldRelease c cycles aon) s = .next (let t := ((((s.chnTick c cycles aon).countHold c cycles).modChn c
        fun h => { h with held := none }).dispatch c d.word (d.pc + BitVec.ofNat 64 d.len))
        t.1.chnRetire c t.2 false))
  ∧ (∀ (c : ClId) (s : State), (s.chnTime c).toNat < (s.chn c).tmtimecmp.toNat →
      exec (.chanterTimer c) s = .next (s.modChn c fun h => { h with time := h.tmtimecmp }))
  ∧ (∀ (c : ClId) (cycles aon b : Nat) (s : State), topInterrupt s c = some b → s.running c = true →
      bit (s.chn c).mstatus 3 = true →
      exec (.chanterInterruptTaken c cycles aon) s = .next ((if (s.chn c).held.isSome then
          (s.chnTick c cycles aon).countHold c cycles else s.chnTick c cycles aon).modChn c fun h =>
        { h with
          held := none, wfi := false, resv := none, mepc := h.pc, mcause := BitVec.ofNat 64 (2 ^ 63 + b), mtval := 0
          mstatus := 0x1880#64
          pc := (h.mtvec &&& ~~~3#64) + (if bit h.mtvec 0 then BitVec.ofNat 64 (4 * b) else 0) }))
  ∧ (∀ (c : ClId) (v : Word) (s : State), s.reached .CHN c 0 = true →
      exec (.chnMboxSet c v) s = .next (s.wr .CHN_MBOX c (s.rd .CHN_MBOX c ||| v)))
  ∧ (∀ (c : ClId) (s : State), s.reached .CHN c 0 = true → s.running c = false → (s.chn c).ld = none →
      exec (.chnRun c true) s = .next (startContext s c))
  ∧ (∀ (c : ClId) (l : Load) (s : State), s.reached .CHN c 0 = true → s.running c = false → (s.chn c).ld = some l → l.out = false →
      l.target = (if (s.chn c).active then 1 else 0) →
      exec (.chnRun c true) s = .next (s.modChn c fun h => { h with ld := some { l with startAfter := true } }))
  ∧ (∀ (c : ClId) (s : State), s.reached .CHN c 0 = true → exec (.chnRun c false) s = .next (((s.endHold c).modChn c fun h =>
      { h with held := none, ld := h.ld.map fun l => { l with startAfter := false } }).clrFlag .CHN_CTRL c 0))
  ∧ (∀ (c : ClId) (v : Word) (run : Bool) (s : State), s.reached .CHN c 0 = false →
      exec (.chnMboxSet c v) s = .next s ∧ exec (.chnRun c run) s = .next s)

/-- A write of 1 to RUN, which reaches the cluster's CHN block, of a stopped context with no load in progress answers a state in which the context runs; its
Chanter stands at the active slot's base plus ENTRY with x1 to x31 at 0, MIE 0, no custom pending bit, no reservation
and no held dispatch; every token of its cores has COUNT 0 and PEND 0; every queue's SEQ is 0; and memory, Data Memory
and every other cluster's Chanter are as before. Clearing SEQ at a context start is the model's reading (DEDUCED, log
entry 21). -/
def Obligations.ContextStartClearsWhatTheSpecNames : Prop :=
  ∀ (c : ClId) (s : State), s.reached .CHN c 0 = true → s.running c = false → (s.chn c).ld = none →
    ∃ t, exec (.chnRun c true) s = .next t ∧ t.running c = true
      ∧ (t.chn c).pc = BitVec.ofNat 64 (s.fld .CHN_SLOT_CTRL c 16 2 * 4) ∧ (∀ r, (t.chn c).reg r = 0)
      ∧ bit (t.chn c).mstatus 3 = false ∧ (t.chn c).mip = 0 ∧ (t.chn c).resv = none ∧ (t.chn c).held = none
      ∧ (∀ k eng id, k < 8 → t.tok (8 * c + k) eng id = Tok.reset)
      ∧ (∀ k eng, k < 8 → (t.q (8 * c + k) eng).seq = 0)
      ∧ t.mem = s.mem ∧ (t.chn c).dm = (s.chn c).dm ∧ (∀ d, d ≠ c.val → t.chn d = s.chn d)

/-- For writes that reach the cluster's CHN block (any other changes nothing): a write of ARM arms an unarmed loadable slot with the written ENTRY, is refused with SLOT_BUSY during a load into
that slot, and changes nothing while the slot is armed. DISARM cancels an arm. GO, with no load in progress, refuses
reserved targets, a slot target with DIR 1 and a range outside the target with LD_ERR, refuses the armed slot and the
active slot of a running context with SLOT_BUSY, performs a zero length at once, and otherwise starts the load. A load
that ends moves its bytes and is pending as LOADED. -/
def Obligations.SlotsAndLoaderFollowTheirGuards : Prop :=
  (∀ (c : ClId) (v : Word) (s : State), s.reached .CHN c 0 = true → bit v 31 = true → (s.chn c).armed = false → (s.chn c).ld = none →
      exec (.slotArm c v) s = .next ((s.setFld .CHN_SLOT_CTRL c 16 2 (bits v 16 2)).modChn c fun h => { h with armed := true }))
  ∧ (∀ (c : ClId) (v : Word) (l : Load) (s : State), s.reached .CHN c 0 = true → bit v 31 = true → (s.chn c).armed = false → (s.chn c).ld = some l →
      l.target = loadable s c → l.out = false →
      exec (.slotArm c v) s = .next ((s.setFld .CHN_SLOT_CTRL c 16 2 (bits v 16 2)).setFlag .CHN_STATUS c 31))
  ∧ (∀ (c : ClId) (v : Word) (s : State), (s.chn c).armed = true → exec (.slotArm c v) s = .next s)
  ∧ (∀ (c : ClId) (v : Word) (s : State), s.reached .CHN c 0 = true → bit v 30 = true →
      exec (.slotDisarm c v) s = .next ((s.setFld .CHN_SLOT_CTRL c 16 2 (bits v 16 2)).modChn c fun h => { h with armed := false }))
  ∧ (∀ (c : ClId) (v : Word) (s : State), s.reached .CHN c 0 = false →
      exec (.slotArm c v) s = .next s ∧ exec (.slotDisarm c v) s = .next s ∧ exec (.loaderGo c v) s = .next s)
  ∧ (∀ (c : ClId) (v : Word) (s u : State), s.reached .CHN c 0 = true → bit v 31 = true → (s.chn c).ld = none →
      u = s.setFld .CHN_LD_LEN c 18 4 (bits v 18 4) →
      ∀ t out off len, t = u.fld .CHN_LD_DST c 31 30 → out = u.flag .CHN_LD_DST c 29 → off = u.fld .CHN_LD_DST c 17 4 →
      len = u.fld .CHN_LD_LEN c 18 4 → ∀ l : Load,
      l = ⟨t, out, 16 * off, 16 * len, u.fld .CHN_LD_SRC_LO c 31 4 * 16 + u.fld .CHN_LD_SRC_HI c 15 0 * 2 ^ 32, false⟩ →
      exec (.loaderGo c v) s = .next (
        if t = 3 ∨ (out ∧ t ≤ 1) ∨ (if t ≤ 1 then 8192 else 16384) < off + len then loadRefused u c 26
        else if t ≤ 1 ∧ ((decide (t = 1) = (s.chn c).active ∧ s.running c) ∨ (decide (t = 1) ≠ (s.chn c).active ∧ (s.chn c).armed))
          then loadRefused u c 31
        else if len = 0 then loadEnd u c l false else u.modChn c fun h => { h with ld := some l }))
  ∧ (∀ (c : ClId) (l : Load) (s : State), (s.chn c).ld = some l → inMap l.src l.len = true → l.startAfter = false →
      exec (.loaderDone c []) s = .next (((loadMove s c l).setFlag .CHN_STATUS c 27).modChn c fun h =>
        { h with ld := none, mip := setBit h.mip 19 }))

/-- When a cluster's first post waits, REEF_POST answers a state in which that post is gone, and its entry holds the
maximum of STEP_MAX and the posted magnitude (where both are magnitudes), SAT_TOTAL and VAN_TOTAL raised by the counts
with saturation at 32 bits, SAT_STEP and VAN_STEP with saturation at 16 bits, POSTED 1, and OVF 1 if the post met a
non-finite element; every other word of the table, every register and memory are as before. -/
def Obligations.ReefPostMergesOnePost : Prop :=
  ∀ (c : ClId) (x : RPost) (xs : List RPost) (s : State), (s.cluster c).posts = x :: xs →
    ∃ t, exec (.reefPost c) s = .next t ∧ (t.cluster c).posts = xs
      ∧ ((s.reefW c x.entry 16).toNat ≤ 0x7F800000 → x.max.toNat ≤ 0x7F800000 →
          (t.reefW c x.entry 16).toNat = max (s.reefW c x.entry 16).toNat x.max.toNat)
      ∧ (t.reefW c x.entry 17).toNat = min ((s.reefW c x.entry 17).toNat + x.sat) (2 ^ 32 - 1)
      ∧ (t.reefW c x.entry 18).toNat = min ((s.reefW c x.entry 18).toNat + x.van) (2 ^ 32 - 1)
      ∧ bits (t.reefW c x.entry 19) 31 16 = min (bits (s.reefW c x.entry 19) 31 16 + x.sat) 65535
      ∧ bits (t.reefW c x.entry 19) 15 0 = min (bits (s.reefW c x.entry 19) 15 0 + x.van) 65535
      ∧ bit (t.reefW c x.entry 21) 26 = true ∧ (x.ovf = true → bit (t.reefW c x.entry 21) 30 = true)
      ∧ (∀ e k, k < 32 → e ≠ x.entry ∨ k ∉ [16, 17, 18, 19, 21] → t.reefW c e k = s.reefW c e k)
      ∧ t.regs = s.regs ∧ t.mem = s.mem

/-- A write through CVT_REEF_DATA by a requester that reaches it, while the cluster's context is stopped, stores the
word, its reserved fields 0, at the selected entry and word, and the word index advances when AINC is set; while the context runs it changes
nothing but CVT_REEF_STATUS.WR_REFUSED (bit 31). A read is served at any time and returns the selected word as it
stands. The Norm Watch Table behaves the same through TTL_NW_DATA, its guard being that no context of the device runs,
and its refusal TTL_NUM_STATUS.NW_WR_REFUSED (bit 26). An ENTRY above 511 is taken modulo 512, the model's choice (log entry
132). -/
def Obligations.TableWindowsFollowTheContext : Prop :=
  (∀ (c : ClId) (req : Req) (v : Word) (s : State), s.reaches req .CVT c 0x28 = true → s.running c = false →
      exec (.reefDataWrite c req v) s = .next ((s.setReefW c (bits (s.sel req .CVT_REEF_SEL c) 14 5)
        (bits (s.sel req .CVT_REEF_SEL c) 4 0) v).advance req .CVT_REEF_SEL c 15 4 0 32 1))
  ∧ (∀ (c : ClId) (req : Req) (v : Word) (s : State), s.reaches req .CVT c 0x28 = true → s.running c = true →
      exec (.reefDataWrite c req v) s = .next (s.setFlag .CVT_REEF_STATUS c 31))
  ∧ (∀ (c : ClId) (req : Req) (s : State), s.reaches req .CVT c 0x28 = true →
      exec (.reefDataRead c req) s = .next ((s.emit (.readData (s.reefW c (bits (s.sel req .CVT_REEF_SEL c) 14 5)
        (bits (s.sel req .CVT_REEF_SEL c) 4 0)))).advance req .CVT_REEF_SEL c 15 4 0 32 1))
  ∧ (∀ (req : Req) (v : Word) (s : State), s.reaches req .TTL 0 0x120 = true → s.anyRunning = false →
      exec (.nwDataWrite req v) s = .next ((s.nwLoad (bits (s.sel req .TTL_NW_SEL 0) 14 5 % 512)
        (bits (s.sel req .TTL_NW_SEL 0) 4 0) v).advance req .TTL_NW_SEL 0 15 4 0 8 1))
  ∧ (∀ (req : Req) (v : Word) (s : State), s.reaches req .TTL 0 0x120 = true → s.anyRunning = true →
      exec (.nwDataWrite req v) s = .next (s.setFlag .TTL_NUM_STATUS 0 26))
  ∧ (∀ (req : Req) (s : State), s.reaches req .TTL 0 0x120 = true →
      exec (.nwDataRead req) s = .next ((s.emit (.readData (s.nwData req))).advance req .TTL_NW_SEL 0 15 4 0 8 1))

/-- When the verdict of a partition's step is clean, every post has landed, no queue of the partition is in its update
pass and Reef has not yet done its orders, REEF_STEP_BOUNDARY answers a state in which, in every cluster of the
partition, SKIP_RUN is 0; and with n the old CLEAN plus 1 (CLEAN saturates at 65,535): if INTERVAL is not 0 and n has
reached it, CLEAN is 0 and EXP is 1 more, but not above EXP_MAX; otherwise CLEAN is n and EXP is unchanged. -/
def Obligations.CleanStepsGrowTheLossScale : Prop :=
  ∀ (p : PartId) (others : List TidSum) (s : State), (s.part p).verdict = some false → (s.part p).reefDone = false →
    s.postsLanded p = true → s.noUpass p = true →
    ∃ t, exec (.reefStepBoundary p others) s = .next t ∧ ∀ c ∈ s.partClusters p, ∀ n iv e,
      n = min (s.fld .CVT_LOSS_SCALE c 31 16 + 1) 65535 → iv = s.fld .CVT_LS_CTRL c 31 16 →
      e = s.fld .CVT_LOSS_SCALE c 7 0 →
      t.fld .CVT_REEF_STATUS c 7 0 = 0
      ∧ (iv ≠ 0 → iv ≤ n → t.fld .CVT_LOSS_SCALE c 31 16 = 0
          ∧ t.fld .CVT_LOSS_SCALE c 7 0 = if e < s.fld .CVT_LS_CTRL c 15 8 then e + 1 else e)
      ∧ (iv = 0 ∨ n < iv → t.fld .CVT_LOSS_SCALE c 31 16 = n ∧ t.fld .CVT_LOSS_SCALE c 7 0 = e)

/-- When the verdict of a partition's step is an overflow, every post has landed, no queue of the partition is in its
update pass and Reef has not yet done its orders, REEF_STEP_BOUNDARY answers a state in which the partition has
counted one more skipped step and, in every cluster of the partition, EXP is 1 less, but not below EXP_MIN, CLEAN is
0, CVT_SKIP_COUNT has risen by 1 and SKIP_RUN has risen by 1 (both saturate); where SKIP_RUN has just reached a
SKIP_LIMIT that is not 0, SKIP_LIMIT_EVENT is set. The job's state is unchanged. -/
def Obligations.OverflowStepsLowerTheLossScale : Prop :=
  ∀ (p : PartId) (others : List TidSum) (s : State), (s.part p).verdict = some true → (s.part p).reefDone = false →
    s.postsLanded p = true → s.noUpass p = true →
    ∃ t, exec (.reefStepBoundary p others) s = .next t ∧ (t.part p).skips = (s.part p).skips + 1
      ∧ t.jobState p = s.jobState p ∧ ∀ c ∈ s.partClusters p, ∀ e run lim,
      e = s.fld .CVT_LOSS_SCALE c 7 0 → run = s.fld .CVT_REEF_STATUS c 7 0 → lim = s.fld .CVT_REEF_CTRL c 31 24 →
      t.fld .CVT_LOSS_SCALE c 7 0 = (if s.fld .CVT_LS_CTRL c 7 0 < e then e - 1 else e)
      ∧ t.fld .CVT_LOSS_SCALE c 31 16 = 0
      ∧ (t.rd .CVT_SKIP_COUNT c).toNat = min ((s.rd .CVT_SKIP_COUNT c).toNat + 1) (2 ^ 32 - 1)
      ∧ t.fld .CVT_REEF_STATUS c 7 0 = min 255 (run + 1)
      ∧ (lim ≠ 0 → run + 1 = lim → t.flag .CVT_REEF_STATUS c 27 = true)

/-- In a partition whose step runs, with no verdict yet and every post landed, OVERFLOW_VERDICT forms the OR of the
other members' bit, what the partition's gradient accumulation met and every entry's OVF in the partition, carries the
request and the non-finite mark of R427, when the verdict is clean selects outlier channels, and gives Telltale the
step's observations. REEF_STEP_BOUNDARY does Reef's orders 4 to 7 once, when the
verdict is formed, every post has landed and no queue is in its update pass. -/
def Obligations.ReefAndVerdictRowsComplete : Prop :=
  (∀ (p : PartId) (ovf req nf : Bool) (stats : List TidStat) (obs : List (Fin 512 × Word)) (s : State), s.stepping p = true →
      (s.part p).verdict = none → s.postsLanded p = true → ∀ v : Bool,
      v = (ovf || (s.part p).gradNf || (s.partClusters p).any fun c => (s.cluster c).reef.any fun e => e.1 % 32 == 21 && bit e.2 30) →
      ∀ t : State, t = (s.modPart p fun x => { x with
        verdict := some v, reqOr := s.asksEpoch p || req, nfOr := x.nf || nf, nf := false
        armed := x.armed && !(s.snapIdle && s.riskAsks p) }) →
      ∀ u : State, u = (if s.asksEpoch p then t.clrFlag .RES_SNAP_CMD 0 0 else t) →
      exec (.overflowVerdict p ovf req nf ⟨stats, obs⟩) s = .next ((if v then u else u.selectOutliers p stats).holdNorms p v obs))
  ∧ (∀ (p : PartId) (others : List TidSum) (v : Bool) (s : State), (s.part p).verdict = some v →
      (s.part p).reefDone = false → s.postsLanded p = true → s.noUpass p = true →
      exec (.reefStepBoundary p others) s = .next ((s.reefBoundary p v others).modPart p fun x =>
        { x with reefDone := true, skips := if v then x.skips + 1 else x.skips }))

/-- A running step whose Reef orders are done and whose update pass is over becomes ready, with the mode and window of
PLC_SYNC_CTRL, which take effect then. A ready step of MODE 0 takes its boundary at once; one of MODE 1 at an edge, or with an
expiry counted at the end of its window; one of MODE 2 at its barrier. A rising edge of STEP_SYNC counts in EDGES and is a counted
early edge for each partition without a ready step whose mode in effect is 1; for a step whose window ended before the edge it comes
after the expiry. The pin sampled low only shows in LEVEL. A step held for its input begins when its buffer is complete.
That early edges count in MODE 1 alone is the model's reading (log entry 79), and so is the level operand of the row (log entry 78).
-/
def Obligations.StepRowsComplete : Prop :=
  (∀ (p : PartId) (met : Metrics) (s : State), s.stepping p = true → (s.part p).reefDone = true → (s.part p).ready = none →
      s.noUpass p = true → exec (.stepReady p met) s = .next (s.modPart p fun x =>
        { x with ready := some ⟨s.fld .PLC_SYNC_CTRL p 31 30, s.fld .PLC_SYNC_CTRL p 11 0, met⟩, sync := s.rd .PLC_SYNC_CTRL p }))
  ∧ (∀ (p : PartId) (r : Ready) (us : Nat) (s : State), (s.part p).ready = some r →
      (r.mode = 0 → exec (.stepBoundary p) s = .next (s.takeBoundary p 0))
      ∧ (r.mode = 1 → exec (.stepSyncWindowExpire p) s = .next
          (((s.countSat .PLC_SYNC_EXPIRED_COUNT p 1).setFlag .PLC_STATUS p 28).takeBoundary p r.window))
      ∧ (r.mode = 2 → exec (.stepBarrierDone p us) s = .next (s.takeBoundary p us)))
  ∧ (∀ (waited : List Nat) (s : State), exec (.stepSyncEdge ⟨waited, false⟩) s = .next (s.setFld .PLC_SYNC_RAW 0 0 0 0))
  ∧ (∀ (waited : List Nat) (s : State), exec (.stepSyncEdge ⟨waited, true⟩) s = .next ((List.range 8).foldl (fun u p =>
      if ((u.part p).ready.map (·.mode)).getD (bits (u.part p).sync 31 30) ≠ 1 then u.syncLate p (waited.getD p 0)
      else if (u.syncLate p (waited.getD p 0)).part p |>.ready.isSome then (u.syncLate p (waited.getD p 0)).takeBoundary p (waited.getD p 0)
      else ((u.syncLate p (waited.getD p 0)).countSat .PLC_SYNC_EARLY_COUNT p 1).setFlag .PLC_STATUS p 29)
      ((s.setFld .PLC_SYNC_RAW 0 31 16 (s.fld .PLC_SYNC_RAW 0 31 16 + 1)).setFld .PLC_SYNC_RAW 0 0 0 1))
    ∧ ∀ p us, (∀ r, (s.part p).ready = some r → us ≤ r.window) → s.syncLate p us = s)
  ∧ (∀ (p : PartId) (us : Nat) (s : State), (s.part p).inputHold = true → s.stepping p = true →
      s.inputReady p (s.rd .PLC_STEP p) = true →
      exec (.stepBegin p us) s = .next (s.modPart p fun x => { x with inputHold := false, stallUs := us }))

/-- When a partition with a job has a ready step of MODE 0 whose marks ask for no epoch, whose metrics ring is off,
which carries no non-finite mark, is not the job's last and awaits no re-plan, and the next step's input is complete,
STEP_BOUNDARY answers a state in which PLC_STEP has risen by 1, the step's marks are gone, one of the two Boundary
Record areas is written in turn, RES_SNAP_CTRL, RES_SNAP_CEIL, MGT_WD_CTRL and MGT_REJOIN take effect, the recoveries
of levels 1 and 2 in the partition no longer count, the STEP interrupt is pending in every Chanter of the partition, and a byte
of memory reads as before unless it lies in that Boundary Record area, in an entry of a Replay Log, or in the Snapshot Slot page of
a page still protected. What a Boundary Record area holds is the model's layout (log entries 80, 169). -/
def Obligations.BoundaryAdvancesTheStep : Prop :=
  ∀ (p : PartId) (r : Ready) (j : Job) (s : State), (s.part p).ready = some r → r.mode = 0 → (s.part p).job = some j →
    j.met = none → (s.part p).nfOr = false → (s.part p).reqOr = false →
    (s.jobState p == 7 || (j.steps != 0 && (s.rd .PLC_STEP p + 1 - j.start).toNat == j.steps % 2 ^ 32)) = false →
    (s.part p).replanDue = false → s.inputReady p (s.rd .PLC_STEP p + 1) = true →
    ∃ t, exec (.stepBoundary p) s = .next t ∧ t.rd .PLC_STEP p = s.rd .PLC_STEP p + 1
      ∧ (t.part p).verdict = none ∧ (t.part p).reefDone = false ∧ (t.part p).ready = none ∧ (t.part p).job = some j
      ∧ (t.part p).recNext = !(s.part p).recNext
      ∧ (if (s.part p).recNext then (t.part p).rec1.isSome = true ∧ (t.part p).rec0 = (s.part p).rec0
          else (t.part p).rec0.isSome = true ∧ (t.part p).rec1 = (s.part p).rec1)
      ∧ t.snap.ctrl = s.rd .RES_SNAP_CTRL 0 ∧ t.snap.ceil = s.rd .RES_SNAP_CEIL 0
      ∧ t.recov.wd = s.rd .MGT_WD_CTRL 0 ∧ t.recov.rejoin = s.rd .MGT_REJOIN 0
      ∧ (∀ f ∈ t.recov.seen, 3 ≤ f.level ∨ s.partOf (clOfCore f.unit) ≠ p)
      ∧ (∀ c ∈ s.partClusters p, bit (t.chn c).mip 20 = true)
      ∧ (∀ a, (a < s.recordAt p (s.part p).recNext ∨ s.recordAt p (s.part p).recNext + State.recordBytes ≤ a) →
          (∀ c e seq, a < s.logAddr c e seq ∨ s.logAddr c e seq + 64 ≤ a) →
          (∀ pg ∈ s.snap.prot, a < s.slotPage pg ∨ s.slotPage pg + State.pageBytes ≤ a) → t.mem.rd a = s.mem.rd a)

/-- The observations of a third step only set NW_DROPPED; the next one of the oldest step whose boundary has been taken
leaves the queue and, of a valid entry, is processed by R188: n2 zero is a downward NORM_ALARM that leaves the
entry unchanged (its x and z are free, log entry 22); the first observation sets MEAN and VAR and counts WARM down (from WARM 0 the
count that is left is free, log entry 22); in warm-up one is absorbed; then z at Z_ALARM posts NORM_ALARM and is not absorbed, but
for the fourth in a row, which sets a new level; z at Z_WARN posts NORM_WARN; and one below Z_ALARM is absorbed. A complete sample is judged
and leaves the Shadow Buffer; with a non-finite value in it, it counts as lost; with finite values its judgement
counts, and it posts SHADOW_ALARM, SHADOW_WARN or nothing by the levels of its format's pair. -/
def Obligations.NumericAssuranceRowsComplete : Prop :=
  (∀ (p : Nat) (overflow : Bool) (obs : List (Fin 512 × Word)) (s : State), 2 ≤ s.nwQ.length →
      obs.filter (fun x => !(overflow && bit (s.nwW x.1 1) 30)) ≠ [] → s.holdNorms p overflow obs = s.setFlag .TTL_NUM_STATUS 0 27)
  ∧ (∀ (i : Nat) (p : PartId) (e : Fin 512) (n2 : Word) (os : List (Nat × Word)) (s u : State), s.nwQ.findIdx? (·.due) = some i →
      s.nwQ[i]? = some ⟨p, true, (e.val, n2) :: os⟩ → bit (s.nwW e 1) 31 = true →
      u = { s with nwQ := if os = [] then s.nwQ.eraseIdx i else s.nwQ.set i ⟨p, true, os⟩ } →
      ((dec32 n2).isZero = true → exec (.normWatchObservation p e n2) s = .next (({ u with fresh := u.fresh + 2 } : State).normEvent e true false
        (Config.freeWord s.fresh) (Config.freeWord (s.fresh + 1) ||| 0x80000000#32)))
      ∧ ((dec32 n2).isZero = false → s.nwSeen.contains e = false → ∀ (x : Word) (t : State), x = mul32 0x3F000000#32 (log2_32 n2) →
        t = ({ u.setNwW e 4 x with nwSeen := u.nwSeen ++ [e.val] } : State).setNwStat e x 0 →
        exec (.normWatchObservation p e n2) s = .next (if bits (s.nwW e 1) 23 16 = 0
          then ({ t with fresh := t.fresh + 1 } : State).setNwF e 23 16 (bits (Config.freeWord s.fresh) 7 0)
          else t.setNwF e 23 16 (bits (s.nwW e 1) 23 16 - 1)))
      ∧ ((dec32 n2).isZero = false → s.nwSeen.contains e = true → ∀ (x a d sigma z : Word) (w run : Nat) (t : State),
        x = mul32 0x3F000000#32 (log2_32 n2) → a = enc32 (.fin false 1 (-((bits (s.nwW e 1) 29 27 : Int) + 1))) →
        d = sub32 x (s.nwW e 2) → sigma = max32 (sqrt32 (s.nwW e 3)) 0x3D800000#32 → z = div32 (abs32 d) sigma →
        w = bits (s.nwW e 1) 23 16 → run = bits (s.nwW e 1) 26 24 + 1 → t = u.setNwW e 4 x →
        (w ≠ 0 → exec (.normWatchObservation p e n2) s = .next ((t.setNwF e 23 16 (w - 1)).absorb e a d))
        ∧ (w = 0 → (State.sixteenth (bits (s.nwW e 1) 7 0)).le (dec32 z) = true → ∀ v : State,
          v = t.normEvent e true true x (if bit d 31 then neg32 z else z) →
          exec (.normWatchObservation p e n2) s = .next (if run < 4 then v.setNwF e 26 24 run
            else ((v.setNwF e 26 24 0).setNwStat e x 0).setNwF e 23 16 16))
        ∧ (w = 0 → (State.sixteenth (bits (s.nwW e 1) 7 0)).le (dec32 z) = false →
          ((State.sixteenth (bits (s.nwW e 1) 15 8)).le (dec32 z) = true → exec (.normWatchObservation p e n2) s
            = .next ((t.normEvent e false true x (if bit d 31 then neg32 z else z)).absorb e a d))
          ∧ ((State.sixteenth (bits (s.nwW e 1) 15 8)).le (dec32 z) = false →
            exec (.normWatchObservation p e n2) s = .next (t.absorb e a d)))))
  ∧ (∀ (i : Nat) (p : PartId) (e : Fin 512) (n2 : Word) (os : List (Nat × Word)) (s : State), s.nwQ.findIdx? (·.due) = some i →
      s.nwQ[i]? = some ⟨p, true, (e.val, n2) :: os⟩ → bit (s.nwW e 1) 31 = false → exec (.normWatchObservation p e n2) s
        = .next { s with nwQ := if os = [] then s.nwQ.eraseIdx i else s.nwQ.set i ⟨p, true, os⟩ })
  ∧ (∀ (core : CoreId) (sh : Shadow) (n : Nat) (s : State), (s.core core).shadow = some sh → sh.n = some n →
      ∀ (r : List (List Word)) (num den : Word) (bad : Bool) (u : State),
      r = (sh.x.take sh.y.length).map (s.stripRow core sh n) →
      num = (rsumPair (((sh.y.zip r).flatMap fun p => (p.1.zip p.2).map fun q => sub32 q.1 q.2).map fun x => mul32 x x)).1 →
      den = (rsumPair (r.flatMap fun l => l.map fun x => mul32 x x)).1 →
      bad = (sh.x.any (fun l => l.any (codeNonfinite 3)) || sh.y.any (fun l => l.any isNonfinite32)
        || r.any (fun l => l.any isNonfinite32) || isNonfinite32 num || isNonfinite32 den) →
      u = (s.modCore core fun c => { c with shadow := none }) →
      (bad = true → exec (.shadowSampleJudge core) s = .next (u.countSat .TTL_SHADOW_LOST 0 1))
      ∧ (bad = false → State.levelReached (if sh.gradient then bits sh.thr 31 24 else bits sh.thr 15 8) num den = true →
        exec (.shadowSampleJudge core) s = .next ((((u.countWrap .TTL_SHADOW_DONE 0 1).setFlag .TTL_NUM_STATUS 0 30).countSat
          .TTL_SHADOW_ALARM_COUNT 0 1).postMore (dieOfCore core) .shadowAlarm sh.tid (div32 num den) [BitVec.ofNat 32 core]))
      ∧ (bad = false → State.levelReached (if sh.gradient then bits sh.thr 31 24 else bits sh.thr 15 8) num den = false →
        State.levelReached (if sh.gradient then bits sh.thr 23 16 else bits sh.thr 7 0) num den = true →
        exec (.shadowSampleJudge core) s = .next ((((u.countWrap .TTL_SHADOW_DONE 0 1).setFlag .TTL_NUM_STATUS 0 31).countSat
          .TTL_SHADOW_WARN_COUNT 0 1).postMore (dieOfCore core) .shadowWarn sh.tid (div32 num den) [BitVec.ofNat 32 core]))
      ∧ (bad = false → State.levelReached (if sh.gradient then bits sh.thr 31 24 else bits sh.thr 15 8) num den = false →
        State.levelReached (if sh.gradient then bits sh.thr 23 16 else bits sh.thr 7 0) num den = false →
        exec (.shadowSampleJudge core) s = .next (u.countWrap .TTL_SHADOW_DONE 0 1)))

/-- HBM_SLOT_GRANT accepts or holds the arrivals of its stack, counts every cycle a request is held, and, when the
accepted request for the named block completes, grants its slot to the best held request that fits. A miss of a core's
own die that returns clean fills a line of its set and frees its miss register; one or two CRC mismatches count, set
MEM_STATUS bit 31, post and fill as well; a miss that an invalidation met does not fill. A segment that lands clean
writes its bytes and leaves its instruction; resent up to three times it marks RECOMPUTED; all four failing, it writes
nothing, marks RESTORED, is persistent, and a restore is due; one whose source window a HOSTWIN_REVOKE has taken before it
started writes nothing and marks FAULT_ADDRESS; where an engine finds no free tag, the cycles count. An
on-die correction is counted. -/
def Obligations.MemoryRowsComplete : Prop :=
  (∀ (k : StackId) (arrivals : List Arrival) (cycles done : Nat) (a : Nat × Nat) (s t : State),
      t = (arrivals.filter fun x => 256 * x.block < hbmEnd && (s.stackOf (256 * x.block)).1 == k.val).foldl
        (fun s x => s.arrive k x) s →
      ∀ x : Ctrl, x = { t.ctrl k with held := (t.ctrl k).held.map fun h => { h with waited := h.waited + cycles } } →
      ∀ u : State, u = t.countSat .MEM_HOLD_COUNT k (cycles * (t.ctrl k).held.length) →
      (x.accepted.find? (fun y => y.2 == done) = none → exec (.hbmSlotGrant k arrivals cycles done) s = .next (u.setCtrl k x))
      ∧ (x.accepted.find? (fun y => y.2 == done) = some a → ∀ y : Ctrl, y = { x with accepted := x.accepted.erase a } →
        exec (.hbmSlotGrant k arrivals cycles done) s = .next (match u.bestHeld y with
          | none => u.setCtrl k y
          | some h => u.setCtrl k ⟨y.held.erase h, y.accepted ++ [(h.core.val, h.block)]⟩)))
  ∧ (∀ (c : ClId) (k : Fin 8) (core block : Nat) (n : Fin 3) (s t : State), core = 8 * c + k → block * 256 / dieHbm = dieOfCore core →
      t = s.modCore core (fun c => { c with miss := c.miss.filter fun x => x.1 != block }) →
      ((s.core core).miss.contains (block, true) = false →
        exec (.dataCacheMissFill c k block false n) s = .next (t.modCore core fun c => c.fill block)
        ∧ (n.val < 2 → exec (.dataCacheMissFill c k block true n) s = .next
          ((((t.countSat .MEM_CRC_COUNT (t.stackOf (256 * block)).1 (n + 1)).setFlag .MEM_STATUS (t.stackOf (256 * block)).1 31).post
            (dieOfCore core) .detectedRecomputed (BitVec.ofNat 32 (256 * block)) 0).modCore core fun c => c.fill block)))
      ∧ ((s.core core).miss.contains (block, true) = true → exec (.dataCacheMissFill c k block false n) s = .next t))
  ∧ (∀ (core : CoreId) (addr : Nat) (fails : Fin 5) (cycles : Nat) (s : State),
      (s.segmentAt core addr = none → exec (.segmentLand core addr ⟨fails, cycles⟩) s = .next s)
      ∧ ∀ (f : Flight) (r : Nat × Nat) (d : Desc) (t : State), s.segmentAt core addr = some (f, r) → d = f.descs.getLastD 0 →
        t = (if (s.core core).gthWait.isSome ∨ (s.tagsHeld core).2 < s.tagsWanted core 5
          then s.countSat .XFR_TAG_HOLD core cycles else s) →
        (t.sourceGone core f = true → exec (.segmentLand core addr ⟨fails, cycles⟩) s
          = .next ((t.tagFreed core 5).settle moveLand core 5 { f with segs := f.segs.erase r, met := f.met ++ [.faultAddress] }))
        ∧ (t.sourceGone core f = false → (∀ (u : State) (st : List Status), (fails.val = 0 ∧ u = t ∧ st = [])
            ∨ (1 ≤ fails.val ∧ fails.val ≤ 3 ∧ u = (t.setFlag .XFR_STATUS core 29).detected core ∧ st = [.recomputed]) →
          ∀ v : State × List Status, v = u.landRanges core d [r] (if Tile.space d = 4 then f.img
            else imageOf u.mem [(phys core (Tile.space d) r.1, r.2)] (f.img.rdN r.1 r.2)) →
          exec (.segmentLand core addr ⟨fails, cycles⟩) s
            = .next ((v.1.tagFreed core 5).settle moveLand core 5 { f with segs := f.segs.erase r, met := f.met ++ st ++ v.2 }))
        ∧ (fails.val = 4 → exec (.segmentLand core addr ⟨fails, cycles⟩) s = .next ((((t.setFlag .XFR_STATUS core 29).restoreFor core
            addr).tagFreed core 5).settle moveLand core 5 { f with segs := f.segs.erase r, met := f.met ++ [.restored] }))))
  ∧ (∀ (k : StackId) (s : State), exec (.stackOdeccReport k) s = .next (s.countSat .MEM_ODECC_COUNT k 1))

/-- For every state, die d and HBM address a of that die, with o = a − d × 0x0024_0000_0000, U = 2 MiB where the die's
MEM_CTRL.ILV is 1 and 4 KiB where it is 0, and n = o div U: the address lies in stack 6d + (n mod 6), at stack-local
address (n div 6) × U + (o mod U). -/
def Obligations.StackInterleaveSpreadsHbm : Prop :=
  ∀ (s : State) (d a o u n : Nat), d < 4 → d * 0x2400000000 ≤ a → a < (d + 1) * 0x2400000000 →
    o = a - d * 0x2400000000 → u = (if s.flag .MEM_CTRL (6 * d) 0 then 2097152 else 4096) → n = o / u →
    s.stackOf a = (6 * d + n % 6, n / 6 * u + o % u)

/-- Two HBM addresses with the same stack and the same stack-local address are the same address. -/
def Obligations.StackInterleaveIsOneToOne : Prop :=
  ∀ (s : State) (a b : Nat), a < hbmEnd → b < hbmEnd → s.stackOf a = s.stackOf b → a = b

/-- KV_OPEN, KV_TRUNC, KV_CLOSE, KV_OFFLOAD, KV_ADOPT and KV_RESET, when KVP_CMD0's OP is the row's and no command is
busy, store KVP_CMD3 and perform the command; while one is busy each of the six changes nothing but KVP_STATUS.WR_REFUSED
(the active walks are the row's operand); a write that does not reach the cluster's KVP block changes nothing. The order in
which a command's staged rows and their flush meet is the model's choice (log entry 125). A held update is tried again with its cycles counted. RECLAIM_TO_FREE returns
reusable pages and drained staging pages. A full staging page whose flush overwrites nothing an older walk needs is
flushed from its first unwritten row, of two the one that filled first; a stalled flush goes on where it stopped. A flush
that would overwrite what an older walk needs is held and its cycles count. -/
def Obligations.KvCommandRowsComplete : Prop :=
  (∀ (c : ClId) (cmd3 : Word) (walks : List Word) (s t : State), s.reached .KVP c 0 = true → s.flag .KVP_CMD_RESULT c 0 = false →
      t = ((setWalks s c walks).wr .KVP_CMD3 c cmd3).kvCommand c →
      (s.fld .KVP_CMD0 c 31 24 = 1 → exec (.kvOpen c cmd3 walks) s = .next t)
      ∧ (s.fld .KVP_CMD0 c 31 24 = 2 → exec (.kvTrunc c cmd3 walks) s = .next t)
      ∧ (s.fld .KVP_CMD0 c 31 24 = 3 → exec (.kvClose c cmd3 walks) s = .next t)
      ∧ (s.fld .KVP_CMD0 c 31 24 = 4 → exec (.kvOffload c cmd3 walks) s = .next t)
      ∧ (s.fld .KVP_CMD0 c 31 24 = 5 → exec (.kvAdopt c cmd3 walks) s = .next t)
      ∧ (s.fld .KVP_CMD0 c 31 24 = 6 → exec (.kvReset c cmd3 walks) s = .next t))
  ∧ (∀ (i : Instr) (op : Nat) (c : ClId) (cmd3 : Word) (walks : List Word) (s : State),
      (i, op) ∈ [(Instr.kvOpen c cmd3 walks, 1), (.kvTrunc c cmd3 walks, 2), (.kvClose c cmd3 walks, 3),
        (.kvOffload c cmd3 walks, 4), (.kvAdopt c cmd3 walks, 5), (.kvReset c cmd3 walks, 6)] →
      (s.reached .KVP c 0 = true → s.flag .KVP_CMD_RESULT c 0 = true → s.fld .KVP_CMD0 c 31 24 = op →
        exec i s = .next ((setWalks s c walks).setFlag .KVP_STATUS c 26))
      ∧ (s.reached .KVP c 0 = false → exec i s = .next s))
  ∧ (∀ (c : ClId) (walks : List Word) (cycles : Nat) (s : State), (s.kv c).held = true →
      exec (.kvUpdateRelease c walks cycles) s = .next ((((setWalks s c walks).countSat .KVP_HOLD_COUNT c cycles).modKv c
        fun k => { k with held := false }).kvCommand c))
  ∧ (∀ (c : ClId) (walks : List Word) (s : State), exec (.reclaimToFree c walks) s = .next
      (((setWalks s c walks).reclaim c ((setWalks s c walks).kv c).reclaim.length).drainStages c))
  ∧ (∀ (c : ClId) (k : Fin 8) (walks : List Word) (cycles : Nat) (sec : Bool) (s u : State), u = setWalks s c walks →
      (flushNext (u.stageOf c k) = some sec →
        (u.flushHeld c k sec = false → exec (.stagingFlush c k walks cycles) s = .next ((u.setStage c k ((u.stageOf c k).setPage sec
          { (u.stageOf c k).page sec with st := .flushing })).flushFrom c k sec))
        ∧ (u.flushHeld c k sec = true → exec (.stagingFlush c k walks cycles) s = .next (u.countSat .KVP_HOLD_COUNT c cycles)))
      ∧ ([false, true].find? (fun x => ((u.stageOf c k).page x).st == .stalled) = some sec →
        (u.flushHeld c k sec = false → exec (.flushResume c ⟨k, walks, cycles⟩) s = .next (u.flushFrom c k sec))
        ∧ (u.flushHeld c k sec = true → exec (.flushResume c ⟨k, walks, cycles⟩) s = .next (u.countSat .KVP_HOLD_COUNT c cycles))))

/-- For KV_OPEN, KV_TRUNC, KV_CLOSE, KV_OFFLOAD, KV_ADOPT and KV_RESET that reach the KVP block, with no command busy and the row's OP in
KVP_CMD0, the command answers a next state t that is one of three. Performed: STATUS is OK, BUSY is 0 and the
generation is one more, or 0 for RESET. Held for an older walk: BUSY is 1, and nothing else of memory or of the
Halyard has changed. Refused: STATUS is not OK, BUSY is 0, and nothing else of memory or of the Halyard has changed.
-/
def Obligations.KvCommandsArePerformedHeldOrRefused : Prop :=
  ∀ (i : Instr) (op : Nat) (c : ClId) (cmd3 : Word) (walks : List Word) (s : State),
    (i, op) ∈ [(Instr.kvOpen c cmd3 walks, 1), (.kvTrunc c cmd3 walks, 2), (.kvClose c cmd3 walks, 3),
      (.kvOffload c cmd3 walks, 4), (.kvAdopt c cmd3 walks, 5), (.kvReset c cmd3 walks, 6)] →
    s.reached .KVP c 0 = true → s.flag .KVP_CMD_RESULT c 0 = false → s.fld .KVP_CMD0 c 31 24 = op →
    ∃ t, exec i s = .next t
      ∧ ((t.fld .KVP_CMD_RESULT c 31 24 = 0 ∧ t.flag .KVP_CMD_RESULT c 0 = false
            ∧ (t.kv c).gen = if op = 6 then 0 else (s.kv c).gen + 1)
          ∨ (t.flag .KVP_CMD_RESULT c 0 = true ∧ t.mem = s.mem ∧ t.kv c = { s.kv c with walks := walks, held := true })
          ∨ (t.fld .KVP_CMD_RESULT c 31 24 ≠ 0 ∧ t.flag .KVP_CMD_RESULT c 0 = false ∧ t.mem = s.mem
            ∧ t.kv c = { s.kv c with walks := walks }))

/-- KV_OPEN of a FREE sequence with arguments in range, which no older walk needs, writes the sequence's other half in
a new generation as OPEN with length 0, its rank, group size, list and capacity, and every list entry with PAGE none, what stood there kept as its previous half.
KV_CLOSE of an OPEN or OFFLOADED sequence, which no older walk needs, discards its staged rows, frees every page it
holds into the Reclaim Queue under the new generation, and writes the other half as FREE. -/
def Obligations.KvOpenOpensAFreeSequence : Prop :=
  (∀ (c : ClId) (cmd3 : Word) (walks : List Word) (s u : State), s.reached .KVP c 0 = true → s.flag .KVP_CMD_RESULT c 0 = false →
      s.fld .KVP_CMD0 c 31 24 = 1 → u = (setWalks s c walks).wr .KVP_CMD3 c cmd3 →
      ∀ seq g rank list cap : Nat, seq = u.fld .KVP_CMD0 c 17 0 → g = u.fld .KVP_CMD1 c 12 11 → rank = u.fld .KVP_CMD1 c 10 0 →
      list = (u.rd .KVP_CMD2 c).toNat → cap = u.fld .KVP_CMD3 c 14 0 →
      seq < u.kvSeqCount c → State.seqState (u.seqNow c seq) = 0 → g ≤ 2 → rank % (32 * 2 ^ g) = 0 → 32 ≤ rank → rank ≤ 1024 →
      1 ≤ cap → cap ≤ 16384 → list % 256 = 0 → 64 * u.kvSeqCount c + 4 * u.kvPages c ≤ list →
      list + 16 * cap ≤ (u.rd .KVP_TABLE_SIZE c).toNat * 4096 → u.heldBy c seq ((List.range cap).map fun k => u.kvTableBase c + list + 16 * k) = false →
      ∀ n : Word, n = (u.kv c).gen + 1 →
      exec (.kvOpen c cmd3 walks) s = .next (((List.range cap).foldl (fun x k =>
          x.putEntry (x.kvTableBase c + list + 16 * k) noPage (sext 8 (x.mem.rd (x.kvTableBase c + list + 16 * k + 12)).toNat) n)
        (u.putHalf c seq (BitVec.ofNat 32 (2 ^ 30 + g * 2 ^ 28 + rank)) 0 0 list cap n)).kvDone c n))
  ∧ (∀ (c : ClId) (cmd3 : Word) (walks : List Word) (s u : State), s.reached .KVP c 0 = true → s.flag .KVP_CMD_RESULT c 0 = false →
      s.fld .KVP_CMD0 c 31 24 = 3 → u = (setWalks s c walks).wr .KVP_CMD3 c cmd3 →
      ∀ (seq : Nat) (w1 n : Word) (xs : List (Nat × Nat)), seq = u.fld .KVP_CMD0 c 17 0 → w1 = u.seqNow c seq →
      n = (u.kv c).gen + 1 → xs = u.heldPages c seq 0 → seq < u.kvSeqCount c →
      (State.seqState w1 = 1 ∨ State.seqState w1 = 2) → u.heldBy c seq (u.listAddrs c seq (xs.map (·.1))) = false →
      ∀ t : State, t = ((u.discardStaged c seq 0).dropUpdates c seq 0 n).dropPages c seq xs n →
      exec (.kvClose c cmd3 walks) s = .next ((t.putHalf c seq (setBits w1 31 30 0) (t.seqLen c seq) (t.seqAlen c seq)
        (t.seqList c seq) (t.seqCap c seq) n).kvDone c n))

/-- For WRITE_FRAME_RX, READ_REQ_RX, READ_DATA_RX and FLAG_FRAME_RX, and for COLL_FRAME_RX with the collectives'
delivery after it: a frame of the row's type that the link takes, whose checks all pass and whose PSN is the next of
its flow answers the state in which its type's effect has happened; the flow then expects the next PSN and an ACK goes
out (with ECE where a WRITE, READ_DATA or COLL frame was marked), or a NACK where the effect refuses it; a READ_REQ is
answered by its READ_DATA alone; a COLL frame that cannot be taken yet stays unreceived. -/
def Obligations.FrameRowsDeliverInOrder : Prop :=
  (∀ (i : Instr) (p typ : Nat) (f : Frame) (ap : State → Nat → State × Ans) (s u : State) (a : Ans),
      frameRow i = some (p, f, typ, ap) → s.Takes p f typ → s.InOrder p f → ap (s.entered p f) (frameKey f) = (u, a) →
      (a = .ack → exec i s = .next ((u.delivered (frameKey f)).sendAck (frameKey f) (State.marked f && (typ == 0 || typ == 2))))
      ∧ (a = .nack → exec i s = .next ((u.delivered (frameKey f)).sendNack (frameKey f) (hPsn f.hdr)))
      ∧ (a = .quiet → exec i s = .next (u.modFlow (frameKey f) fun x => { x with crcFail := 0 })))
  ∧ (∀ (p : PortId) (f : Frame) (s u : State) (a : Ans), s.Takes p f 4 → s.InOrder p f →
      State.applyColl f (s.entered p f) (frameKey f) = (u, a) →
      (a = .ack → exec (.collFrameRx p f) s = .next (((u.delivered (frameKey f)).sendAck (frameKey f) (State.marked f)).deliverAll 8))
      ∧ (a = .hold → exec (.collFrameRx p f) s = .next (u.deliverAll 8)))

/-- A WRITE inside the device map that reaches no Table Region stores its data; with NOTIFY it then adds 1 to the flag
it names, and is refused where the flag is not the sender's to set. A READ_REQ inside the map is answered by READ_DATA
with the bytes there. READ_DATA of a tag in use gives its bytes to the instruction that waits for them. A FLAG frame
updates a die flag. A WRITE or READ_REQ outside the map is refused. -/
def Obligations.WriteFramesWriteTheirData : Prop :=
  (∀ (f : Frame) (s : State) (key : Nat), inMap (hOp f.hdr 47 0) f.data.length = true →
      s.rawHits [(hOp f.hdr 47 0, f.data.length)] = [] →
      (hNotify f.hdr = false → State.applyWrite f s key = (s.store (hOp f.hdr 47 0) f.data, .ack))
      ∧ (hNotify f.hdr = true → ∀ u, u = (s.store (hOp f.hdr 47 0) f.data).remoteUpdate (hOp f.hdr 59 58) (hOp f.hdr 57 48)
          (hSrc f.hdr) (hSdie f.hdr) true 1 → State.applyWrite f s key = (u.1, if u.2 then .ack else .nack)))
  ∧ (∀ (f : Frame) (s : State) (key : Nat), inMap (hOp f.hdr 47 0) f.data.length = false →
      State.applyWrite f s key = (s, .nack))
  ∧ (∀ (f : Frame) (s : State) (key : Nat), inMap (hOp f.hdr 47 0) (4 * hOp f.hdr 74 64) = true →
      State.applyReadReq f s key = (((s.modFlow key fun x => { x with expect := x.expect + 1 }).queueFrame key 2
        (BitVec.ofNat 96 (hOp f.hdr 95 80 * 2 ^ 80)) (s.mem.rdN (hOp f.hdr 47 0) (4 * hOp f.hdr 74 64)) false none).1, .quiet))
  ∧ (∀ (f : Frame) (s : State) (key : Nat), inMap (hOp f.hdr 47 0) (4 * hOp f.hdr 74 64) = false →
      State.applyReadReq f s key = (s, .nack))
  ∧ (∀ (f : Frame) (s : State) (key : Nat) (r : PeerRead),
      (s.fab.reads.find? fun r => r.tag == hOp f.hdr 95 80 && r.key == key) = some r → ∀ t : State,
      t = ((s.modFab fun x => { x with reads := x.reads.erase r }).modQ r.owner.1 r.owner.2.1 fun q => { q with
        flight := q.flight.map fun g => if g.seq = r.owner.2.2 then { g with img := g.img.wrN r.addr (f.data.take r.len) } else g }) →
      State.applyReadData f s key = (t.answer anyLand r.owner (key, r.psn) none, .ack))
  ∧ (∀ (f : Frame) (s : State) (key : Nat), ∀ u, u = s.remoteUpdate (hDdie f.hdr) (hOp f.hdr 41 32) (hSrc f.hdr) (hSdie f.hdr)
      (hOp f.hdr 42 42 == 1) (BitVec.ofNat 32 (hOp f.hdr 31 0)) →
      State.applyFlag f s key = (u.1, if u.2 then .ack else .nack))

/-- An ACK of a peer whose checks pass releases the frames before its APSN (a probe, with DINC 0, is answered by an
ACK), and a NACK ends its frame's instruction with FAULT_ADDRESS; neither takes a PSN (the model's reading, log entry 65). A notice of the row's kind that
is the next in order of its flow and no repeat is passed on to this device's children in the fan-out, sets
FAB_STATUS.NOTICE (bit 30), has its kind's effect for its subject, and is acknowledged; a repeat is acknowledged
alone. -/
def Obligations.AcknowledgementsAndNotices : Prop :=
  (∀ (p : PortId) (f : Frame) (s t : State), t = ((s.linkTake p f).1.meetInc (frameKey f) (hSinc f.hdr)).1 →
      (s.Takes p f 5 → exec (.ackRx p f) s = .next (if hDinc f.hdr = 0 then
        (t.takeAckFrame (frameKey f) f.hdr).sendAck (frameKey f) false else t.takeAckFrame (frameKey f) f.hdr))
      ∧ (s.Takes p f 6 → exec (.nackRx p f) s = .next (t.takeNack (frameKey f) f.hdr)))
  ∧ (∀ (i : Instr) (p kind : Nat) (f : Frame) (act : State → Nat → Nat → Nat → State) (s u : State) (new : Bool),
      noticeRow i = some (p, f, kind, act) → s.Takes p f 7 → hOp f.hdr 3 0 = kind → s.InOrder p f →
      (s.entered p f).noticeIn f.hdr = (u, new) → ∀ t : State,
      t = (if new then act u (hOp f.hdr 49 32) (hOp f.hdr 79 64) (hOp f.hdr 25 8) else u) →
      exec i s = .next ((t.delivered (frameKey f)).sendAck (frameKey f) false))

/-- For WRITE_FRAME_RX, READ_REQ_RX, READ_DATA_RX and FLAG_FRAME_RX: a frame that passes every other check but is not
the next of its flow has none of its type's effect: the command answers the state in which the frame has entered, an
ACK goes out, and a frame that came before is counted in FAB_DUP_COUNT, its ACK with ECE where a WRITE or READ_DATA frame
was marked. A frame whose payload fails its CRC, or that
names another incarnation of this device, is only counted as dropped (that the latter counts is the model's reading, log entry
65). -/
def Obligations.RepeatedAndEarlyFramesHaveNoEffect : Prop :=
  (∀ (i : Instr) (p typ : Nat) (f : Frame) (ap : State → Nat → State × Ans) (s : State) (d : Nat),
      frameRow i = some (p, f, typ, ap) → s.Takes p f typ →
      d = wrapN 32 ((hPsn f.hdr : Int) - ((s.entered p f).flow (frameKey f)).expect) → d ≠ 0 →
      exec i s = .next (if d < 2 ^ 31 then (s.entered p f).sendAck (frameKey f) false
        else ((s.entered p f).countSat .FAB_DUP_COUNT 0 1).sendAck (frameKey f) (State.marked f && (typ == 0 || typ == 2))))
  ∧ (∀ (i : Instr) (p typ : Nat) (f : Frame) (ap : State → Nat → State × Ans) (s : State),
      frameRow i = some (p, f, typ, ap) → hVer f.hdr = 1 → hType f.hdr = typ → s.passesOn f = false →
      (s.linkTake p f).2 = true → (f.crcOk = false ∨ hDinc f.hdr ≠ s.ownInc) →
      exec i s = .next ((s.linkTake p f).1.countSat .FAB_DROP_COUNT 0 1))

/-- At a port that is up: LACK releases the frames up to its LSEQ, CREDIT returns credits up to 64 KiB, and LANEMAP
moves striping to its lanes and is answered. RSTN asks nothing of its receiver. A Direct frame for another device
leaves by an up candidate port with TTL one less. Two microseconds without LACK send every unacknowledged frame again,
counted and posted; the ninth time the port goes down. LACK is returned. A margin below the limit, or more corrected
symbols than the limit, takes the lane out. A port comes up when training completes on an enabled port of a device
with a valid ID. An RTO on a flow with frames outstanding resends it and probes with an ACK, and posts LINK_RETRY
of each port that sends frames again, with their number. A frame unacknowledged for ACK_TO ends the instruction
that waits for it with TIMEOUT. A peer with frames outstanding that is silent for LOST_TO, or whose Direct
ports are all down, is reported lost. Ten microseconds without an ECE raise the flow's rate by one step, up to 100. -/
def Obligations.LinkAndTransportTimerRowsComplete : Prop :=
  (∀ (p : PortId) (s : State), s.portUp p = true →
      (∀ lseq : Fin 65536, exec (.lackRx p lseq) s = .next ((s.modPort p fun x =>
        { x with tx := x.tx.filter fun f => !decide ((lseq.val + 65536 - f.lseq) % 65536 < 32768) }).linkRelease p))
      ∧ (∀ (vc : Fin 4) (n : Fin 1024), exec (.creditRx p vc n) s = .next ((s.modPort p fun x =>
        { x with credit := SMap.set 256 x.credit vc (min 256 (SMap.get 256 x.credit vc + n)) }).linkRelease p))
      ∧ (∀ lanes : Fin 16, s.ethernet = false → (s.port p).lanes ≠ lanes.val → exec (.lanemapRx p lanes) s = .next
        (((((s.modPort p fun x =>
          { x with retrain := if lanes.val = 15 then none else (List.range 4).find? (fun l => !lanes.val.testBit l) }).setLanes p lanes).setFlag .FAB_PORT_STATUS p
              (if lanes.val = 15 then 29 else 30)).emit (.control p 2 0 lanes)).nextRetrain p))
      ∧ (s.ethernet = false → exec (.linkAckTimer p) s = .next (s.emit (.control p 0 (((s.port p).rxSeq + 65535) % 65536) 0)))
      ∧ (∀ (lane : Fin 4) (m : Nat), m < s.fld .FAB_PORT_CTRL p 20 13 → exec (.laneMarginLow p lane m) s = .next (s.laneOut p lane))
      ∧ (∀ l farId, (s.port p).retrain = some l → exec (.laneRetrainDone p farId) s = .next
        (((((s.modPort p fun x => { x with retrain := none }).setLanes p 15).setFlag .FAB_PORT_STATUS p 29).emit
          (.control p 2 0 15)).nextRetrain p)))
  ∧ (∀ (p : PortId) (s : State), exec (.rstnRx p) s = .next s)
  ∧ (∀ (p : PortId) (f : Frame) (s : State) (rdst ttl vc lseq cls out : Nat) (cs : List Nat),
      f.link = .direct rdst ttl vc lseq true false → rdst ≠ s.devId → s.portUp p = true → s.ethernet = false →
      (s.linkTake p f).2 = true → ttl ≠ 0 → bit (SMap.get (0 : Word) s.fab.route rdst) 31 = true →
      bit (SMap.get (0 : Word) s.fab.route rdst) 30 = false →
      cs = s.portsUp.filter (fun q => bit (SMap.get (0 : Word) s.fab.route rdst) q) → cs ≠ [] → cls = vc / 2 % 2 →
      out = cs.getD (State.pathHash (hSrc f.hdr) (hDst f.hdr) cls % cs.length) 0 →
      exec (.frameForward p f) s = .next ((s.linkTake p f).1.linkSend out
        { lseq := 0, vc := 2 * cls + vc % 2, ttl := ttl - 1, hdr := f.hdr, data := f.data, resends := 0
          back := some (p, vc, State.frameCredits f.data) }))
  ∧ (∀ (p : PortId) (f : LinkFrame) (fs : List LinkFrame) (s : State), (s.port p).tx = f :: fs →
      (f.resends < 8 → exec (.linkResendTimeout p) s = .next ((f :: fs).foldl
        (fun s g => s.emit (.direct p g.vc g.ttl g.lseq g.hdr g.data false))
        (((s.countSat .FAB_PORT_LRETRY p (fs.length + 1)).post (p / 6) .linkRetry (BitVec.ofNat 32 p)
          (BitVec.ofNat 32 (fs.length + 1))).modPort p fun x => { x with tx := x.tx.map fun g => { g with resends := g.resends + 1 } })))
      ∧ (8 ≤ f.resends → exec (.linkResendTimeout p) s = .next (s.portDown p)))
  ∧ (∀ (p : PortId) (lane : Fin 4) (n k : Nat) (s t : State),
      t = (s.countSat .FAB_PORT_FEC_CORR p n).countSat .FAB_PORT_FEC_UNCORR p k →
      exec (.fecLimitExceeded p lane n k) s = .next (if 2 ^ t.fld .FAB_PORT_CTRL p 25 21 < n then t.laneOut p lane else t))
  ∧ (∀ (req : Req) (p : PortId) (v : Word) (s t : State), s.reaches req .PORT p 0 = true →
      t = s.wr .FAB_PORT_CTRL p (v &&& 0xC3FFE000#32) →
      exec (.laneRetrainWrite req p v) s = .next (if bit v 31 then t.retrainLanes p (bits v 29 26)
        else if t.portUp p then t.portDown p else t))
  ∧ (∀ (p : PortId) (farId : Fin 4096) (s : State), s.portUp p = false → s.flag .FAB_PORT_CTRL p 31 = true →
      s.flag .FAB_DEVID 0 31 = true → s.portHeld p = false → s.idSuits = true → exec (.portUp p farId) s = .next
        (((((s.modPort p fun _ => Port.reset).setFld .FAB_PORT_STATUS p 3 0 15).setFld .FAB_PORT_STATUS p 21 4
          (if s.ethernet then 0 else farId)).setFlag .FAB_PORT_STATUS p 31).countPorts))
  ∧ (∀ (die : DieId) (dev : Fin 262144) (ddie : DieId) (k : Nat) (s t : State), k = flowKey die dev ddie →
      ((s.flow k).unacked ≠ [] ∨ (s.flow k).backlog ≠ []) →
      t = (s.modFlow k fun f => { f with resent := false }).resend k →
      ∀ ps : List Nat, ps = (s.flow k).unacked.filterMap (fun x => t.pickPort (keyDie k) t.devId (keyDev k) (frameClass x.typ)) →
      exec (.transportRto die dev ddie) s = .next ((ps.eraseDups.foldl (fun u p => u.post (p / 6) .linkRetry (BitVec.ofNat 32 p)
        (BitVec.ofNat 32 (ps.filter fun q => q == p).length)) t).sendAck k false))
  ∧ (∀ (die : DieId) (dev : Fin 262144) (ddie : DieId) (psn k core eng seq : Nat) (x : TxFrame) (g : Flight) (s : State),
      k = flowKey die dev ddie → ((s.flow k).unacked ++ (s.flow k).backlog).find? (fun x => x.psn == psn) = some x →
      x.owner = some (core, eng, seq) →
      (s.q core eng).flight.find? (fun g => g.seq == seq && g.waits.contains (k, psn)) = some g →
      exec (.fabricAckTimeout die dev ddie psn) s = .next ((s.flagIf (TW.opcode g.word == 0x98 || TW.opcode g.word == 0x99)
        .COL_STATUS (dieOfCore core) 27).endFlight core eng seq .timeout))
  ∧ (∀ (dev : Fin 262144) (s : State),
      (s.fab.flows.any fun x => keyDev x.1 == dev.val && (x.2.unacked != [] || x.2.backlog != [])) = true →
      exec (.lostPeerTimeout dev) s = .next (s.reportLost dev false))
  ∧ (∀ (dev : Fin 262144) (ps : List Nat) (s : State), s.ethernet = false →
      ps = (List.range 24).filter (fun p => s.fld .FAB_PORT_STATUS p 21 4 == dev.val) → ps ≠ [] →
      (∀ p ∈ ps, s.portUp p = false) → exec (.portsDownLost dev) s = .next (s.reportLost dev false))
  ∧ (∀ (die : DieId) (dev : Fin 262144) (ddie : DieId) (s : State), exec (.ecnRateRecover die dev ddie) s = .next
      (s.modFlow (flowKey die dev ddie) fun f => { f with rate := min 100 (f.rate + 1), halved := false }))

/-- When the front entry of a ring is of the row's opcode and may start: NOP completes with OK. PORT_OPEN of a window
that R412 lets open opens it at stream position 0 and completes with OK and its length (an INPUT window's buffer is
incomplete from then on); any other PORT_OPEN completes with FAULT_ADDRESS and opens nothing. PORT_CLOSE of an open
ADDRESS window closes it and completes with OK unless poison, or excess bytes of a write, spoiled it. HOSTWIN_GRANT of
a free window with a page-aligned range grants it; HOSTWIN_REVOKE of a granted one revokes it. -/
def Obligations.PlainEntriesComplete : Prop :=
  (∀ (r : Fin 256) (fn : Nat) (e : List Byte) (s t : State), s.Starts r 0x00 fn e t →
      exec (.hostNop r) s = .next (t.completePlain r e .ok))
  ∧ (∀ (r : Fin 256) (fn : Nat) (e : List Byte) (s t : State), s.Starts r 0x10 fn e t →
      (∀ k x, t.localWin fn (bits (entryW e 2) 3 0) = some k → t.portAsks fn k e = some x →
        exec (.portOpen r) s = .next (((match x.input with
          | some par => t.spoilBuffer fn (par == 1)
          | none => t).setWin k (some x)).completeWith r e .ok (natLe 4 x.len)) ∧ x.pos = 0)
      ∧ (∀ k, t.localWin fn (bits (entryW e 2) 3 0) = some k → t.portAsks fn k e = none →
        exec (.portOpen r) s = .next (t.completePlain r e .faultAddress)))
  ∧ (∀ (r : Fin 256) (fn k : Nat) (x : PWin) (e : List Byte) (s t : State), s.Starts r 0x11 fn e t →
      t.localWin fn (bits (entryW e 2) 3 0) = some k → t.win k = some x → x.input = none →
      exec (.portClose r) s = .next ((t.setWin k none).completeWith r e
        (if x.poison ∨ x.refused ∨ (x.overrun ∧ !x.dirRead) then .faultAddress else .ok)
        (natLe 4 x.pos ++ natLe 1 (x.overrun.toNat + 2 * x.poison.toNat))))
  ∧ (∀ (r : Fin 256) (fn k base size : Nat) (e : List Byte) (s t : State), s.Starts r 0x20 fn e t →
      k = 16 * fn + bits (entryW e 2) 3 0 → base = (entryW e 3).toNat + (entryW e 4).toNat * 2 ^ 32 →
      size = (entryW e 5).toNat + (entryW e 6).toNat * 2 ^ 32 → SMap.get none s.hostWins k = none → base % 4096 = 0 →
      size % 4096 = 0 → size ≠ 0 → size ≤ 2 ^ 44 →
      ∀ g : HostWin, g = ⟨BitVec.ofNat 64 base, size, bit (entryW e 2) 9, bit (entryW e 2) 8⟩ →
      exec (.hostwinGrant r) s = .next (({ t with hostWins := SMap.set none t.hostWins k (some g) } : State).completePlain r e .ok))
  ∧ (∀ (r : Fin 256) (fn k : Nat) (w : HostWin) (e : List Byte) (s t : State), s.Starts r 0x21 fn e t →
      k = 16 * fn + bits (entryW e 2) 3 0 → SMap.get none s.hostWins k = some w →
      ∀ u : State, u = t.landStarted k →
      exec (.hostwinRevoke r) s = .next (({ u with hostWins := SMap.set none u.hostWins k none } : State).completePlain r e .ok))

/-- PORT_CLOSE of an open INPUT window, of a function whose partition it is, answers a state in which the window is
closed. When every byte of the buffer has come, none too many, none poisoned and none refused by a Table Region, and its first word is the step that
the buffer serves next, the buffer of that parity is complete for that step; otherwise the buffer is as before and
PLC_STATUS bit 31 is set. Memory and the job's state are as before in either case. -/
def Obligations.InputWindowsCompleteTheirBuffer : Prop :=
  ∀ (r : Fin 256) (fn k par : Nat) (x : PWin) (e : List Byte) (s t : State), s.Starts r 0x11 fn e t →
    t.localWin fn (bits (entryW e 2) 3 0) = some k → t.win k = some x → x.input = some par →
    ∃ u, exec (.portClose r) s = .next u ∧ u.win k = none ∧ u.mem = s.mem ∧ u.jobState fn = s.jobState fn
      ∧ ((x.pos = x.len ∧ x.overrun = false ∧ x.poison = false ∧ x.refused = false ∧ s.mem.rd32 x.base = s.servedStep fn par) →
          (if par = 1 then (u.part fn).buf1 else (u.part fn).buf0) = some (s.mem.rd32 x.base))
      ∧ (¬(x.pos = x.len ∧ x.overrun = false ∧ x.poison = false ∧ x.refused = false ∧ s.mem.rd32 x.base = s.servedStep fn par) →
          u.part fn = s.part fn ∧ u.flag .PLC_STATUS fn 31 = true)

/-- JOB_SUBMIT to an IDLE partition, with its descriptor wholly inside the partition's HBM, takes the job into PLACING
with its flows open when R378's checks pass (of several members, while no other partition has such a job); a check that fails
fails the job with its status, and so does a second job of several members. PLAN_COMPUTE in PLACING keeps the plan that R380 and
R382 give, with what it decides, or fails the job with its report and FAULT_ADDRESS where there is none; on facts that answer no plan
of the device's it keeps PLACING (log entry 75). PLAN_AGREEMENT of members whose digests
agree loads the plan, leaves out the members lost meanwhile, writes the Placement Report and completes the submission with
OK in LOADING; a disagreement fails the job with VERSION_MISMATCH. JOB_START in LOADING starts it afresh, or from its
epoch with RESUME. JOB_STOP in RUNNING enters STOPPING; JOB_ABORT ends a job that is not IDLE; JOB_RELEASE in DONE or
FAILED leaves IDLE. An entry whose condition does not hold (a partition that is not IDLE or a descriptor outside its HBM for
JOB_SUBMIT; another state, another JOB_ID or no job for the others; no such epoch for a start with RESUME) completes with
FAULT_ADDRESS and changes nothing else. Which status a failed check gives, and what each step of the job's life keeps, rest on log
entries 75 to 77. -/
def Obligations.JobEntriesComplete : Prop :=
  (∀ (r : Fin 256) (ver : Nat × Nat) (wg : List Nat) (fn a : Nat) (e : List Byte) (j : Job) (s t u : State), s.Starts r 0x01 fn e t →
      a = (entryW e 2).toNat + bits (entryW e 3) 15 0 * 2 ^ 32 → t.jobState fn = 0 → j = t.jdJob a r (entryTag e) (entryIrq e) →
      u = (t.modPart fn fun x => { Part.reset with job := some j, sync := x.sync }).modRing r (fun q => { q with due := q.due + 1 }) →
      (t.inPartHbm fn a (entryW e 4).toNat = true →
        (t.jdForm a = true → t.versionOk ver = true → (t.jdDigestOk a = true → (t.jdContentOk a wg = true →
            ((t.jd a 28 4 = 0 ∨ ∀ q, q < 8 → t.jobState q ≠ 0 → ∀ i, (t.part q).job = some i → i.pm1 = 0) →
              exec (.jobSubmit r ver wg) s = .next ((u.openFlows j.members).setJobState fn 2))
            ∧ (t.jd a 28 4 ≠ 0 → (∃ q i, q < 8 ∧ t.jobState q ≠ 0 ∧ (t.part q).job = some i ∧ i.pm1 ≠ 0) →
              exec (.jobSubmit r ver wg) s = .next ((u.setJobState fn 9).firstCompletion fn .faultAddress (0, 0))))
          ∧ (t.jdContentOk a wg = false →
            exec (.jobSubmit r ver wg) s = .next ((u.setJobState fn 9).firstCompletion fn .faultAddress (0, 0))))
          ∧ (t.jdDigestOk a = false →
            exec (.jobSubmit r ver wg) s = .next ((u.setJobState fn 9).firstCompletion fn .authFail (0, 0))))
        ∧ (t.jdForm a = false ∨ t.versionOk ver = false →
          exec (.jobSubmit r ver wg) s = .next ((u.setJobState fn 9).firstCompletion fn .versionMismatch (0, 0))))
      ∧ (t.inPartHbm fn a (entryW e 4).toNat = false → exec (.jobSubmit r ver wg) s = .next (t.completePlain r e .faultAddress)))
  ∧ (∀ (r : Fin 256) (ver : Nat × Nat) (wg : List Nat) (fn : Nat) (e : List Byte) (s t : State), s.Starts r 0x01 fn e t →
      t.jobState fn ≠ 0 → exec (.jobSubmit r ver wg) s = .next (t.completePlain r e .faultAddress))
  ∧ (∀ (p : PartId) (j : Job) (f : PlanFacts) (s : State), (s.part p).job = some j → s.jobState p = 2 →
      (∀ pl x, s.place p j f = .placed pl x → exec (.planCompute p f) s = .next (s.modPart p fun y => { y with plan := some pl, place := x }))
      ∧ (∀ records r, s.place p j f = .failed records →
        r = s.writeReport p { Place.reset with rank := (s.planMembers p).idxOf s.devId, report := f.report, records := records } .faultAddress →
        exec (.planCompute p f) s = .next ((r.1.setJobState p 9).firstCompletion p .faultAddress r.2))
      ∧ (s.place p j f = .waits → exec (.planCompute p f) s = .next s))
  ∧ (∀ (p : PartId) (j : Job) (pl : Plan) (others : List DWord) (s : State), (s.part p).job = some j → (s.part p).plan = some pl →
      s.jobState p = 2 →
      (State.maxAgrees (s.part p).place.digest others = true → ∀ (t u : State) (r : State × (Nat × Nat)),
        t = (s.loadPlan p j pl).refreshWcopies →
        u = (t.wr .PLC_STEP p (if j.resume then j.epoch else j.start)).modPart p (fun x => { x with
          pages := pl.pages, job := some { j with members := t.planMembers p }, lost := [] }) →
        r = u.writeReport p (u.part p).place .ok →
        exec (.planAgreement p others) s = .next ((r.1.setJobState p 3).firstCompletion p .ok r.2))
      ∧ (State.maxAgrees (s.part p).place.digest others = false → exec (.planAgreement p others) s = .next
        (((s.setFlag .PLC_STATUS p 26).setJobState p 9).firstCompletion p .versionMismatch (0, 0))))
  ∧ (∀ (r : Fin 256) (fn : Nat) (e : List Byte) (j : Job) (pl : Plan) (s t : State), s.Starts r 0x02 fn e t →
      (s.part fn).job = some j → (s.part fn).plan = some pl → s.jobState fn = 3 → entryW e 2 = j.id →
      (j.resume = false → exec (.jobStart r) s = .next ((t.startFresh fn j pl).completePlain r e .ok))
      ∧ (j.resume = true → s.record 11 = j.id → j.epoch ≠ noEpoch → (s.record 8 = j.epoch ∨ s.record 9 = j.epoch) →
        exec (.jobStart r) s = .next ((t.startResume fn j).completePlain r e .ok))
      ∧ (j.resume = true → (s.record 11 ≠ j.id ∨ j.epoch = noEpoch ∨ (s.record 8 ≠ j.epoch ∧ s.record 9 ≠ j.epoch)) →
        exec (.jobStart r) s = .next (t.completePlain r e .faultAddress)))
  ∧ (∀ (r : Fin 256) (fn : Nat) (e : List Byte) (j : Job) (s t : State), (s.part fn).job = some j →
      (s.Starts r 0x02 fn e t → (s.jobState fn ≠ 3 ∨ entryW e 2 ≠ j.id) →
        exec (.jobStart r) s = .next (t.completePlain r e .faultAddress))
      ∧ (s.Starts r 0x03 fn e t → s.jobState fn = 4 → entryW e 2 = j.id →
        exec (.jobStop r) s = .next ((t.setJobState fn 7).completePlain r e .ok))
      ∧ (s.Starts r 0x03 fn e t → (s.jobState fn ≠ 4 ∨ entryW e 2 ≠ j.id) →
        exec (.jobStop r) s = .next (t.completePlain r e .faultAddress))
      ∧ (s.Starts r 0x04 fn e t → s.jobState fn ≠ 0 → entryW e 2 = j.id →
        exec (.jobAbort r) s = .next ((t.abortJob fn).completePlain r e .ok))
      ∧ (s.Starts r 0x04 fn e t → (s.jobState fn = 0 ∨ entryW e 2 ≠ j.id) →
        exec (.jobAbort r) s = .next (t.completePlain r e .faultAddress))
      ∧ (s.Starts r 0x05 fn e t → (s.jobState fn = 8 ∨ s.jobState fn = 9) →
        exec (.jobRelease r) s = .next ((t.releaseJob fn).completePlain r e .ok))
      ∧ (s.Starts r 0x05 fn e t → s.jobState fn ≠ 8 → s.jobState fn ≠ 9 →
        exec (.jobRelease r) s = .next (t.completePlain r e .faultAddress)))
  ∧ (∀ (r : Fin 256) (fn : Nat) (e : List Byte) (s t : State), (s.part fn).job = none →
      (s.Starts r 0x02 fn e t → exec (.jobStart r) s = .next (t.completePlain r e .faultAddress))
      ∧ (s.Starts r 0x03 fn e t → exec (.jobStop r) s = .next (t.completePlain r e .faultAddress))
      ∧ (s.Starts r 0x04 fn e t → exec (.jobAbort r) s = .next (t.completePlain r e .faultAddress))
      ∧ (s.Starts r 0x05 fn e t → exec (.jobRelease r) s = .next (t.completePlain r e .faultAddress)))

/-- A doorbell of an enabled local ring, an aligned word in BAR2, with an index inside its queue is stored; any other write
of BAR2 is discarded, and a read answers 0. The next ring by round robin has one
entry fetched: a valid entry waits its turn, an invalid one completes with VERSION_MISMATCH and has no other effect, a
fetch that ends in an error stops the ring pair. A completion is written at the tail of a queue that is not full, with
its vector signalled unless it is coalesced; on a full queue it waits. A write of RP_CFG that reaches stores the other fields where
they change and no ring pair of the function is enabled, and else sets FN_STATUS bit 31; then RING_DISABLE leaves EN 0, and
RING_ENABLE, of a ring pair that was disabled, enables it with empty queues where its sizes and version are legal and the device is
ready, and else sets FN_STATUS bit 28 (CFG_ERR). A range write that reaches is stored where the function has no ring enabled and no
window open and the range meets no other function's and ends within the device's; any other sets HIF_STATUS bit 31 and changes
nothing else. MSIX_UNMASK sends what was pending. -/
def Obligations.RingRowsComplete : Prop :=
  (∀ (fn : FnId) (i : Fin 256) (v : Word) (k : Nat) (s : State), s.fnPresent fn = true → s.inMrm = false → s.localRing fn i = some k → s.isReady = true →
      s.enabled k = true →
      (v.toNat < s.sqSize k → exec (.sqTailDoorbell fn i (.write 0 4 v)) s = .next (s.wr .RP_SQ_TAIL k v))
      ∧ (v.toNat < s.cqSize k → exec (.cqHeadDoorbell fn i (.write 0 4 v)) s = .next (s.wr .RP_CQ_HEAD k v)))
  ∧ (∀ (fn : FnId) (i : Fin 256) (shift size : Nat) (v : Word) (s : State), s.fnPresent fn = true →
      exec (.sqTailDoorbell fn i .read) s = .next (s.emit (.readData 0)) ∧ exec (.cqHeadDoorbell fn i .read) s = .next (s.emit (.readData 0))
      ∧ (size ≠ 4 ∨ (shift ≠ 0 ∧ shift ≠ 4) → exec (.sqTailDoorbell fn i (.write shift size v)) s = .next s)
      ∧ (size ≠ 4 ∨ shift ≠ 0 → exec (.cqHeadDoorbell fn i (.write shift size v)) s = .next s))
  ∧ (∀ (bytes : List Byte) (k : Nat) (s t : State), s.nextRing = some k → t = s.modHif (fun h => { h with rr := k }) →
      (∀ (e : List Byte) (u : State), e = (bytes ++ List.replicate 64 0).take 64 →
        u = t.setFld .RP_SQ_HEAD k 15 0 ((t.fld .RP_SQ_HEAD k 15 0 + 1) % t.sqSize k) →
        exec (.entryFetch bytes false) s = .next (if u.entryValid k e then u.modRing k fun q => { q with entries := q.entries ++ [e] }
          else u.completePlain k e .versionMismatch))
      ∧ (∀ fn, s.ringFn k = some fn → exec (.entryFetch bytes true) s = .next
        (((t.clrFlag .RP_CFG k 31).setFlag .RP_STATUS k 31).signal fn
          (((t.clrFlag .RP_CFG k 31).setFlag .RP_STATUS k 31).fld .RP_CFG k 15 8))))
  ∧ (∀ (k : Fin 256) (x : Compl) (xs : List Compl) (s : State), (s.ring k).comps = x :: xs →
      (s.cqFull k = true → exec (.completionWrite k) s = .next (s.setFlag .RP_STATUS k 30))
      ∧ (s.cqFull k = false → ∀ (t u v : State) (tail next n fn : Nat) (now : Bool), tail = s.fld .RP_CQ_TAIL k 15 0 →
        next = (tail + 1) % s.cqSize k → s.ringFn k = some fn → n = (s.ring k).unsig + 1 →
        now = (x.irq || decide (s.fld .RP_COAL k 7 0 = 0) || decide (s.fld .RP_COAL k 7 0 ≤ n)) →
        t = (s.writeHost (s.fld .RP_CQ_LO k 31 12 * 4096 + (s.rd .RP_CQ_HI k).toNat * 2 ^ 32 + 32 * tail)
          (s.complBytes k x)).setFld .RP_CQ_TAIL k 15 0 next →
        u = (if next = 0 then t.setFld .RP_CQ_TAIL k 16 16 (1 - s.fld .RP_CQ_TAIL k 16 16) else t) →
        v = (if u.cqFull k then u.setFlag .RP_STATUS k 30 else u).modRing k (fun q => { q with comps := xs, unsig := if now then 0 else n }) →
        exec (.completionWrite k) s = .next (if now then v.signal fn (s.fld .RP_CFG k 15 8) else v)))
  ∧ (∀ (k : Fin 256) (fn : Nat) (s : State), s.ringFn k = some fn → (s.ring k).unsig ≠ 0 →
      exec (.coalesceTimer k) s = .next ((s.modRing k fun q => { q with unsig := 0 }).signal fn (s.fld .RP_CFG k 15 8)))
  ∧ (∀ (req : Req) (fn : FnId) (i : Fin 256) (v : Word) (s : State),
      (s.localRing fn i = none ∨ (∃ k, s.localRing fn i = some k ∧ s.reaches req .RP k 0 = false) →
        exec (.ringEnable req fn i v) s = .next s ∧ exec (.ringDisable req fn i v) s = .next s)
      ∧ ∀ (k f : Nat) (new : Word) (u : State), s.localRing fn i = some k → s.reaches req .RP k 0 = true → s.ringFn k = some f →
        new = v &&& 0x00FFFF00#32 →
        u = (if new = s.rd .RP_CFG k &&& 0x00FFFF00#32 then s else if s.fnEnabled f then s.setFlag .FN_STATUS f 31
          else s.wr .RP_CFG k ((s.rd .RP_CFG k &&& 0x80000000#32) ||| new)) →
        exec (.ringDisable req fn i v) s = .next (u.clrFlag .RP_CFG k 31) ∧ (u.clrFlag .RP_CFG k 31).enabled k = false
        ∧ (u.enabled k = true → exec (.ringEnable req fn i v) s = .next u)
        ∧ (u.enabled k = false → ∀ legal : Prop, legal = (4 ≤ u.fld .RP_SIZE k 4 0 ∧ u.fld .RP_SIZE k 4 0 ≤ 16 ∧ 4 ≤ u.fld .RP_SIZE k 20 16
            ∧ u.fld .RP_SIZE k 20 16 ≤ 16 ∧ u.fld .HIF_VERSION f 7 0 ≤ u.fld .RP_CFG k 23 16
            ∧ u.fld .RP_CFG k 23 16 ≤ u.fld .HIF_VERSION f 15 8 ∧ u.isReady = true) →
          (legal → exec (.ringEnable req fn i v) s = .next ((((((u.wr .RP_SQ_HEAD k 0).wr .RP_SQ_TAIL k 0).wr .RP_CQ_TAIL k
            0x10000#32).wr .RP_CQ_HEAD k 0).setFlag .RP_CFG k 31).releaseJobComps f k))
          ∧ (¬legal → exec (.ringEnable req fn i v) s = .next (u.setFlag .FN_STATUS f 28))))
  ∧ (∀ (req : Req) (ports : Bool) (v : Word) (s : State), (s.reaches req .HIF 0 0x14 = false → exec (.fnRangeWrite req ports v) s = .next s)
      ∧ ∀ (fn first count : Nat), s.reaches req .HIF 0 0x14 = true → fn = bits (s.sel req .HIF_FN_SEL 0) 2 0 →
        first = (if ports then bits v 3 0 else bits v 7 0) → count = (if ports then bits v 20 16 else bits v 24 16) →
        (s.fnEnabled fn = false → (∀ w, w < (s.fnPorts fn).2 → s.win ((s.fnPorts fn).1 + w) = none) →
          (∀ f, f < 8 → f ≠ fn → rangesMeet first count (if ports then s.fnPorts f else s.fnRings f).1
            (if ports then s.fnPorts f else s.fnRings f).2 = false) → first + count ≤ (if ports then 16 else 256) →
          exec (.fnRangeWrite req ports v) s = .next (if ports then s.wr .HIF_FN_PORTS fn (v &&& 0x001F000F#32)
            else s.wr .HIF_FN_RINGS fn (v &&& 0x01FF00FF#32)))
        ∧ (s.fnEnabled fn = true ∨ (∃ w, w < (s.fnPorts fn).2 ∧ (s.win ((s.fnPorts fn).1 + w)).isSome = true)
            ∨ (∃ f, f < 8 ∧ f ≠ fn ∧ rangesMeet first count (if ports then s.fnPorts f else s.fnRings f).1
              (if ports then s.fnPorts f else s.fnRings f).2 = true) ∨ (if ports then 16 else 256) < first + count →
          exec (.fnRangeWrite req ports v) s = .next (s.setFlag .HIF_STATUS 0 31)))
  ∧ (∀ (fn : FnId) (v : Fin 256) (s : State), s.reached .FN fn 0x8000 = true →
      ((s.vec fn v).pend = true → exec (.msixUnmask fn v) s = .next ((s.setVec fn v
        { s.vec fn v with masked := false, pend := false }).emit (.msix fn v (s.vec fn v).addr (s.vec fn v).data)))
      ∧ ((s.vec fn v).pend = false → exec (.msixUnmask fn v) s = .next (s.setVec fn v { s.vec fn v with masked := false, pend := false })))

/-- When an entry is fetched whose VER is not the ring's RVER, whose opcode is none of the ten, or one of whose bits
31 to 18 of word 0 is set, ENTRY_FETCH answers a state in which the ring's last completion has status VERSION_MISMATCH
and the entry's OPCODE and TAG; no entry of the ring waits that did not wait before; the ring's HEAD alone of all
registers has moved; and nothing else has changed but the ring served last. -/
def Obligations.InvalidEntriesHaveNoOtherEffect : Prop :=
  ∀ (bytes : List Byte) (k : Nat) (e : List Byte) (s : State), s.nextRing = some k → e = (bytes ++ List.replicate 64 0).take 64 →
    (entryVer e ≠ s.fld .RP_CFG k 23 16 ∨ entryOp e ∉ [0x00, 0x01, 0x02, 0x03, 0x04, 0x05, 0x10, 0x11, 0x20, 0x21]
      ∨ bits (entryW e 0) 31 18 ≠ 0) →
    ∃ t x, exec (.entryFetch bytes false) s = .next t ∧ (t.ring k).comps = (s.ring k).comps ++ [x]
      ∧ x.status = Status.versionMismatch.num ∧ x.op = entryOp e ∧ x.tag = entryTag e
      ∧ (∀ r, (t.ring r).entries = (s.ring r).entries) ∧ (∀ r i, (r, i) ≠ (Reg.RP_SQ_HEAD, k) → t.rd r i = s.rd r i)
      ∧ t.rd .RP_SQ_HEAD k = setBits (s.rd .RP_SQ_HEAD k) 15 0 ((s.fld .RP_SQ_HEAD k 15 0 + 1) % s.sqSize k)
      ∧ t = { s with regs := t.regs, hif := { s.hif with rings := t.hif.rings, rr := k } }

/-- Outside Minimal Recovery Mode, a write TLP to an open write window stores its enabled bytes as the next bytes of
the stream, but bytes in a Table Region, which mark the window, drops bytes beyond the length and marks the overrun; a poisoned one stores nothing and marks the window. A
read of an open read window returns the stream's next bytes, and zeros beyond its length. An access to a window that
is not open sets FN_STATUS.UNMAPPED and counts. A function level reset aborts and releases the function's job and
clears its windows, grants, rings and vectors; FLR_PF0 then clears VF Enable, which resets every virtual function. -/
def Obligations.WindowAndResetRowsComplete : Prop :=
  (∀ (fn : FnId) (w : Fin 16) (data : List Byte) (k : Nat) (x : PWin) (s : State), s.fnPresent fn = true → s.inMrm = false → s.localWin fn w = some k →
      s.win k = some x → s.chip.mrmWin = none →
      (∀ g : State × Bool, g = s.commitMem (s.mem.wrN (x.base + x.pos) (data.take (x.len - x.pos)))
          [(x.base + x.pos, min (x.len - x.pos) data.length)] →
        x.dirRead = false → exec (.windowWriteTlp fn w data false) s = .next (g.1.setWin k (some { x with
          pos := x.pos + min (x.len - x.pos) data.length, overrun := x.overrun || decide (x.len - x.pos < data.length)
          refused := x.refused || g.2 })))
      ∧ (x.dirRead = false → exec (.windowWriteTlp fn w data true) s = .next ((s.setWin k (some { x with
          pos := x.pos + min (x.len - x.pos) data.length, overrun := x.overrun || decide (x.len - x.pos < data.length)
          poison := true })).setFlag .FN_STATUS fn 27))
      ∧ (∀ n m, x.dirRead = true → m = min n (x.len - x.pos) → exec (.windowReadTlp fn w n) s = .next ((s.setWin k (some { x with
          pos := x.pos + m, overrun := x.overrun || decide (m < n) })).emit (.winData (s.mem.rdN (x.base + x.pos) m ++ List.replicate (n - m) 0)))))
  ∧ (∀ (fn : FnId) (w : Fin 16) (data : List Byte) (poisoned : Bool) (n k : Nat) (s : State), s.fnPresent fn = true → s.inMrm = false → s.localWin fn w = some k →
      s.win k = none → s.chip.mrmWin = none →
      exec (.windowWriteTlp fn w data poisoned) s = .next ((s.setFlag .FN_STATUS fn 29).countSat .FN_UNMAPPED_COUNT fn 1)
      ∧ exec (.windowReadTlp fn w n) s = .next
        (((s.setFlag .FN_STATUS fn 29).countSat .FN_UNMAPPED_COUNT fn 1).emit (.winData (List.replicate n 0xFF))))
  ∧ (∀ (n : Fin 7) (s : State), s.fnPresent (n.val + 1) = true → exec (.flrVf n) s = .next (s.flr (n.val + 1)))
  ∧ (∀ s : State, exec .flrPf0 s = .next ([1, 2, 3, 4, 5, 6, 7].foldl (fun s fn => s.flr fn) (s.flr 0)))
  ∧ (∀ s : State, exec .vfEnableClear s = .next ([1, 2, 3, 4, 5, 6, 7].foldl (fun s fn => s.flr fn) s))

/-- FLR_VF answers a state in which the function's partition is IDLE with no job, its windows are closed, its host
windows are revoked, each of its ring pairs is disabled with no entry and no completion, its vectors are masked with
nothing pending (the state a vector has at reset is presumed, log entry 6), and its driver features, status and interrupt registers
hold their reset values. -/
def Obligations.FunctionResetsClearTheFunction : Prop :=
  ∀ (n : Fin 7) (s : State), s.fnPresent (n.val + 1) = true → ∃ t, exec (.flrVf n) s = .next t ∧ t.jobState (n.val + 1) = 0
    ∧ (s.jobState (n.val + 1) ≠ 0 → (t.part (n.val + 1)).job = none)
    ∧ (∀ i, i < (s.fnPorts (n.val + 1)).2 → t.win ((s.fnPorts (n.val + 1)).1 + i) = none)
    ∧ (∀ k, k < 16 → SMap.get none t.hostWins (16 * (n.val + 1) + k) = none)
    ∧ (∀ i, i < (s.fnRings (n.val + 1)).2 → (s.fnRings (n.val + 1)).1 + (s.fnRings (n.val + 1)).2 ≤ 256 →
        t.enabled ((s.fnRings (n.val + 1)).1 + i) = false ∧ t.ring ((s.fnRings (n.val + 1)).1 + i) = RingQ.reset)
    ∧ (∀ v, v < 256 → t.vec (n.val + 1) v = Vec.reset)
    ∧ t.rd .HIF_DRV_FEATURES (n.val + 1) = Reg.resetAt .HIF_DRV_FEATURES (n.val + 1)
    ∧ t.rd .FN_STATUS (n.val + 1) = Reg.resetAt .FN_STATUS (n.val + 1) ∧ t.rd .FN_IRQ (n.val + 1) = Reg.resetAt .FN_IRQ (n.val + 1)

/-- A tick of a started device scores what it measures; maintenance that waits goes on after it and after every row of
the epoch. FIRST_TOUCH_COPY of a protected page copies it and counts the stall. In COPY, EPOCH_COPY_DONE puts the
pages still protected into the slot, and the constant pages where they are kept when they are due, and passes to ENCODE, in
which the chunks of both go to their members in a job of 4 members or more; in ENCODE, EPOCH_ENCODE_DONE with every chunk of
the group keeps their XOR as parity, records the epoch in Stay 10 and waits for its commit, and without every chunk ENCODE
goes on; then EPOCH_COMMIT commits it. In
each, a collective that ends with a status discards the epoch, and so does a write of the epoch that a Table Region refused
(with FAULT_ADDRESS). REQ is set by a requester that reaches RES. RESTORE of
a running job restores it, or, where a persistent detection recurs at an address that a restore has answered since the last commit,
enters at chip level. -/
def Obligations.EpochRowsComplete : Prop :=
  (∀ (m0 m1 m2 m3 : Margins) (s : State), s.chip.start = .none → s.chip.fw.isSome = true →
      exec (.telltaleTick m0 m1 m2 m3) s = .next (s.telltaleTick [m0, m1, m2, m3]).maintSettle)
  ∧ (∀ (pg cycles : Nat) (s : State), s.snap.prot.contains pg = true → exec (.firstTouchCopy pg cycles) s = .next
      (((s.copyPages [pg]).countSat .RES_TOUCH_COUNT 0 1).countSat .RES_TOUCH_STALL 0 cycles))
  ∧ (∀ s : State, s.epochState = 2 → ∀ x t : State, x = s.copyRest.copyConsts → t = x.setEpochState 3 →
      (x.snap.refused = true → exec (.epochCopyDone none) s = .next (x.discardEpoch .faultAddress).maintSettle)
      ∧ (x.snap.refused = false → t.epochMembers < 4 → exec (.epochCopyDone none) s = .next t.maintSettle)
      ∧ (∀ pl, x.snap.refused = false → (t.part t.snap.part).plan = some pl → 4 ≤ t.epochMembers → ∀ u : State,
        u = t.sendChunks false (t.slotBase t.snap.part t.snap.slot) pl.pages.length (pl.images.map fun x => x.1) →
        exec (.epochCopyDone none) s = .next (if (u.part u.snap.part).constDue then
          u.sendChunks true pl.constAt pl.consts.length (pl.images.map fun x => x.2) else u).maintSettle)
      ∧ ∀ lost, exec (.epochCopyDone (some lost)) s = .next (s.discardEpoch (stopStatus lost)).maintSettle)
  ∧ (∀ (chunks consts : List (List (Nat × Byte))) (s : State), s.epochState = 3 →
      (s.epochMembers < 4 → s.snap.refused = false →
        exec (.epochEncodeDone ⟨chunks, consts⟩ none) s = .next ((s.setEpochReg 10 s.snap.epoch).setEpochState 4).maintSettle)
      ∧ (∀ pl, (s.part s.snap.part).plan = some pl → 4 ≤ s.epochMembers → chunks.length + 1 = (s.parityGroup s.snap.part).1.length →
        ((s.part s.snap.part).constDue = true → consts.length + 1 = (s.parityGroup s.snap.part).1.length) → ∀ t u : State,
        t = s.keepParity (if s.snap.slot then pl.parity1 else pl.parity0) (pl.images.map fun x => x.1) chunks →
        u = (if (t.part t.snap.part).constDue then t.keepParity pl.constParity (pl.images.map fun x => x.2) consts else t) →
        exec (.epochEncodeDone ⟨chunks, consts⟩ none) s = .next (if u.snap.refused then u.discardEpoch .faultAddress
          else (u.setEpochReg 10 u.snap.epoch).setEpochState 4).maintSettle)
      ∧ (4 ≤ s.epochMembers → chunks.length + 1 ≠ (s.parityGroup s.snap.part).1.length →
        exec (.epochEncodeDone ⟨chunks, consts⟩ none) s = .next s.maintSettle)
      ∧ ∀ lost, exec (.epochEncodeDone ⟨chunks, consts⟩ (some lost)) s = .next (s.discardEpoch (stopStatus lost)).maintSettle)
  ∧ (∀ s : State, s.epochState = 4 →
      exec (.epochCommit none) s = .next ((s.setEpochState 5).commitEpoch s.snap.part s.snap.epoch).maintSettle
      ∧ ∀ lost, exec (.epochCommit (some lost)) s = .next (s.discardEpoch (stopStatus lost)).maintSettle)
  ∧ (∀ (req : Req) (s : State), s.reaches req .RES 0 0x18 = true → exec (.snapReqWrite req) s = .next (s.setFlag .RES_SNAP_CMD 0 0))
  ∧ (∀ (p : PartId) (others : Word) (rebuilt : Option Rebuilt) (s : State), s.stepping p = true →
      ((∀ a ∈ s.snap.bad, a ∉ s.snap.lastBad) → s.multi p = false → ∀ t : State, t = (s.restorePart p s.devId others rebuilt).closeRec →
        exec (.restore p others rebuilt) s = .next { t with snap := { t.snap with bad := [], lastBad := s.snap.lastBad ++ s.snap.bad } })
      ∧ (∀ a, s.snap.bad.find? (fun x => s.snap.lastBad.contains x) = some a → exec (.restore p others rebuilt) s = .next
        (({ s with snap := { s.snap with bad := [] } } : State).enter ⟨4, 0x0F, addrDie a, 7⟩)))

/-- When an epoch of a started job is prepared, its commit's collective completes and no maintenance waits,
EPOCH_COMMIT answers a state in which no epoch is in progress; the epoch stands in Stay 8 where the record's Stay 8 was
empty, and else in Stay 9, on die 0 and on die 2; Stay 10 of both is empty; no page is protected; RES_SNAP_STATUS bit 31 is set; EPOCH_COMMITTED is posted; the
recoveries of level 3 no longer count; and memory is unchanged. -/
def Obligations.CommitRecordsTheEpoch : Prop :=
  ∀ s : State, s.epochState = 4 → (s.part s.snap.part).firstEpoch = false → s.recov.maint = none →
    ∃ t, exec (.epochCommit none) s = .next t ∧ t.epochState = 0
      ∧ (s.record 8 = noEpoch → t.stay 0 8 = s.snap.epoch ∧ t.stay 2 8 = s.snap.epoch ∧ t.stay 0 9 = s.stay 0 9)
      ∧ (s.record 8 ≠ noEpoch → t.stay 0 9 = s.snap.epoch ∧ t.stay 2 9 = s.snap.epoch ∧ t.stay 0 8 = s.stay 0 8)
      ∧ t.stay 0 10 = noEpoch ∧ t.stay 2 10 = noEpoch ∧ t.snap.prot = [] ∧ t.flag .RES_SNAP_STATUS 0 31 = true
      ∧ (t.die 0).events = (s.die 0).events
          ++ [⟨.epochCommitted, s.snap.epoch, BitVec.ofNat 32 (s.part s.snap.part).pages.length, []⟩]
      ∧ (∀ f ∈ t.recov.seen, f.level ≠ 3) ∧ t.mem = s.mem

/-- In REPLANNING, REPLAN_REBUILD, when the members' digests of the new plan agree, settles the epoch, sends this device's
share of what a lost member of its group held, and runs the job by
the plan that R380 and R382 give; where the digests differ the job ends with VERSION_MISMATCH, and where there is no plan, or
the losses cannot be rebuilt, with PEER_LOST. By a requester that reaches RES, while no maintenance runs: RECAL_PC of a stack counts
its held cycles, marks the temperature of its calibration and completes with OK; in a started device whose primary Masthead
runs it does so on its own at more than one device CRC error in 2^20 reads, or at a drift of 10 °C, and else changes nothing
(log entry 142); a drain or fence takes its clusters out of the mask and waits for their re-plan
(die 0 is refused, for a readmission too); a readmission of a drained, unfenced unit that passes its test returns it, and one that fails is
fenced; FW_HANDOVER begins, or waits for the epoch in progress. What a hand-over moves is the model's reading (log entry 87). -/
def Obligations.MaintenanceRowsComplete : Prop :=
  (∀ (p : PartId) (f : PlanFacts) (others : Word) (x : Brought) (j : Job) (s : State),
      (s.part p).job = some j → s.jobState p = 6 →
      (∀ pl y, s.place p j f = .placed pl y → s.lossFatal p = false →
        (State.maxAgrees y.digest x.digests = true → ∀ er : Word, er = State.maxEpoch s.epochC others →
          exec (.replanRebuild p f others x) s = .next (((s.settleEpoch p er .peerLost).rebuildShares p er x.shares.pages
            x.shares.consts).replan p j pl y er x.moved).maintSettle)
        ∧ (State.maxAgrees y.digest x.digests = false → exec (.replanRebuild p f others x) s
          = .next (((s.setFlag .PLC_STATUS p 26).endJob p 9 .versionMismatch).eventVector p).maintSettle))
      ∧ ((∃ records, s.place p j f = .failed records) ∨ ((∃ pl y, s.place p j f = .placed pl y) ∧ s.lossFatal p = true) →
        exec (.replanRebuild p f others x) s = .next ((s.endJob p 9 .peerLost).eventVector p).maintSettle)
      ∧ (s.place p j f = .waits → exec (.replanRebuild p f others x) s = .next s.maintSettle))
  ∧ (∀ (unit pc : Fin 32) (cycles reads errors : Nat) (s t : State), unit.val < 24 →
      t = ((s.countSat .MEM_HOLD_COUNT unit cycles).calibrated [(unit, pc)]).maintDone .ok → s.chip.start = .none →
      s.chip.fw.isSome = true → (s.die s.primary).mast.running = true → s.recov.maint = none →
      exec (.recalPc (.rate reads errors) unit pc cycles) s = .next (if reads < errors * 2 ^ 20 then t else s)
      ∧ exec (.recalPc .drift unit pc cycles) s = .next
        (if 10 ≤ (s.dieTemp (unit / 6) - SMap.get 0 s.recov.calTemp (32 * unit + pc)).natAbs then t else s))
  ∧ (∀ (req : Req) (s : State), s.reaches req .RES 0 0x60 = true → s.recov.maint = none →
      (∀ (unit pc : Fin 32) (cycles : Nat), unit.val < 24 → exec (.recalPc (.command req) unit pc cycles) s
        = .next (((s.countSat .MEM_HOLD_COUNT unit cycles).calibrated [(unit, pc)]).maintDone .ok))
      ∧ (∀ c : ClId, exec (.drainCluster req c) s = .next
          ((s.modRecov fun x => { x with maint := some ⟨2, c, 0, 0⟩ }).drainClusters (BitVec.ofNat 32 (2 ^ c.val))).maintSettle)
      ∧ (∀ c : ClId, exec (.fenceCluster req c) s = .next
          ((s.modRecov fun x => { x with maint := some ⟨4, c, 0, 0⟩ }).drainClusters (BitVec.ofNat 32 (2 ^ c.val))).maintSettle)
      ∧ (∀ d : DieId, d.val ≠ 0 → exec (.drainDie req d) s = .next
          ((s.modRecov fun x => { x with maint := some ⟨5, 0, 0, d⟩ }).drainClusters (State.dieMask d)).maintSettle)
      ∧ (∀ d : DieId, d.val ≠ 0 → exec (.fenceDie req d) s = .next
          ((s.modRecov fun x => { x with maint := some ⟨7, 0, 0, d⟩ }).drainClusters (State.dieMask d)).maintSettle)
      ∧ exec (.drainDie req 0) s = .next (s.maintDone .faultAddress) ∧ exec (.fenceDie req 0) s = .next (s.maintDone .faultAddress)
      ∧ (∀ pass, exec (.readmitDie req 0 pass) s = .next (s.maintDone .faultAddress))
      ∧ (∀ (i : Instr) (m : Maint) (pass : Bool), ((∃ c : ClId, i = .readmitCluster req c pass ∧ m = ⟨3, c, 0, 0⟩)
            ∨ (∃ d : DieId, d.val ≠ 0 ∧ i = .readmitDie req d pass ∧ m = ⟨6, 0, 0, d⟩)) → ∀ w : Word, w = State.Maint.mask m →
          s.rd .RES_FENCED 0 &&& w ≠ w → s.recov.drained &&& w ≠ 0 →
          (pass = false → exec i s = .next ((s.fenceUnits m).maintDone .faultAddress))
          ∧ (pass = true → ∀ t : State, t = (((List.range 32).filter fun c => bit w c && bit s.recov.drained c).foldl
              (fun s c => s.clearCluster c) s).modRecov (fun x => { x with maint := some m, drained := x.drained &&& ~~~w }) →
            exec i s = .next ((List.range 8).foldl (fun s p => if s.stepping p ∧ s.rd .PLC_PART_CLUSTERS p &&& w ≠ 0 then
              s.modPart p (fun x => { x with drainDue := true }) else s) t).maintSettle))
      ∧ exec (.fwHandover req) s = .next (s.modRecov fun x => { x with maint := some ⟨8, 0, 0, 0⟩ }).maintSettle)

/-- ENGINE_WATCHDOG of an instruction in execution enters level 2 with cause 0x01; MEMORY_REQUEST_WATCHDOG of a
waiting miss register or transfer tag, level 2 with 0x02; QUEUE_WATCHDOG of a waiting head of an unheld core, level 1
with 0x03; DISPATCH_WATCHDOG of a held dispatch, level 1 with 0x04 for its first full core; REFETCH_WATCHDOG of a
binding with 64 refetches, level 1 with 0x05; STEP_WATCHDOG of a running step whose timer is not 0, level 3 with 0x06
for the partition's first cluster. Each adds 1 to MGT_WD_FIRE. MGT_RESET_CMD of a requester that reaches MGT enters
its level with cause 0x0E, and is discarded while a recovery above level 1 runs. Which unit a firing names is the model's reading (log
entry 90). -/
def Obligations.WatchdogsEnterTheLadder : Prop :=
  (∀ (core : CoreId) (eng : Eng) (s : State),
      (((s.q core eng.num).flight.any fun f => !f.done) = true →
        exec (.engineWatchdog core eng) s = .next ((s.countSat .MGT_WD_FIRE 0 1).enter ⟨2, 0x01, core, eng.num⟩))
      ∧ ((s.core core).miss ≠ [] →
        exec (.memoryRequestWatchdog core eng) s = .next ((s.countSat .MGT_WD_FIRE 0 1).enter ⟨2, 0x02, core, eng.num⟩))
      ∧ (((s.q core eng.num).flight.any fun f => f.waits != [] || f.segs != []) = true →
        exec (.memoryRequestWatchdog core eng) s = .next ((s.countSat .MGT_WD_FIRE 0 1).enter ⟨2, 0x02, core, eng.num⟩))
      ∧ ((s.headOf core eng.num).isSome = true → s.queueCounts (clOfCore core) = true → (s.core core).hold = none →
        s.waitTimerRuns core eng.num = false →
        exec (.queueWatchdog core eng) s = .next ((s.countSat .MGT_WD_FIRE 0 1).enter ⟨1, 0x03, core, eng.num⟩)))
  ∧ (∀ (c : ClId) (k : Nat) (ks : List Nat) (s : State), s.heldCores c = k :: ks → s.queueCounts c = true →
      ((List.range 6).any fun e => s.waitTimerRuns k e) = false →
      exec (.dispatchWatchdog c) s = .next ((s.countSat .MGT_WD_FIRE 0 1).enter ⟨1, 0x04, k, 7⟩))
  ∧ (∀ (core : CoreId) (range : Fin 64) (w : WRange) (s : State), w = SMap.get WRange.reset (s.core core).watch range →
      w.armed = true → 64 ≤ w.refetches →
      exec (.refetchWatchdog core range) s = .next ((s.countSat .MGT_WD_FIRE 0 1).enter ⟨1, 0x05, core, w.eng⟩))
  ∧ (∀ (p : PartId) (c : Nat) (cs : List Nat) (s : State), s.partClusters p = c :: cs → s.stepping p = true → s.stepHeld p = false →
      bits s.recov.wd 11 0 ≠ 0 → ((c :: cs).any fun c => s.running c) = true →
      exec (.stepWatchdog p) s = .next ((s.countSat .MGT_WD_FIRE 0 1).enter ⟨3, 0x06, c, 7⟩))
  ∧ (∀ (req : Req) (v : Word) (s : State), s.reaches req .MGT 0 0x3C = true →
      (s.recovering = false → 1 ≤ bits v 31 28 → bits v 31 28 ≤ 4 → (bits v 31 28 = 3 → bits v 27 20 < 32) →
        exec (.mgtResetCmd req v) s = .next (s.enter ⟨bits v 31 28, 0x0E, bits v 27 20, 7⟩))
      ∧ (s.recovering = true → exec (.mgtResetCmd req v) s = .next s))

/-- In a state in which no earlier recovery of the same cause and unit counts, STEP_WATCHDOG, firing for a partition,
leaves the ladder with its fault unless a fault of level 4 or of level 3 of the same partition already stands there,
and then the ladder is as before; faults of levels 1 to 3 of that partition leave with its entry. Where a recovery of
the same fault counts since the last commit, the fault enters at level 4 with cause 0x0B and MGT_STATUS bit 31 is set.
-/
def Obligations.RecurrencesClimbTheLadder : Prop :=
  ∀ (p : PartId) (c : Nat) (cs : List Nat) (s : State), s.partClusters p = c :: cs → s.stepping p = true → s.stepHeld p = false →
    bits s.recov.wd 11 0 ≠ 0 → ((c :: cs).any fun c => s.running c) = true →
    ∃ t, exec (.stepWatchdog p) s = .next t
      ∧ ((∀ g ∈ s.recov.seen, ¬(g.level = 3 ∧ g.cause = 0x06 ∧ g.unit = c)) →
          ((∃ g ∈ s.recov.faults, 4 ≤ g.level ∨ (g.level = 3 ∧ s.faultPart g = s.partOf c)) → t.recov = s.recov)
          ∧ ((∀ g ∈ s.recov.faults, ¬(4 ≤ g.level ∨ (g.level = 3 ∧ s.faultPart g = s.partOf c))) →
              ⟨3, 0x06, c, 7⟩ ∈ t.recov.faults ∧ ∀ g ∈ t.recov.faults, g = ⟨3, 0x06, c, 7⟩ ∨ s.faultPart g ≠ s.partOf c))
      ∧ ((∃ g ∈ s.recov.seen, g.level = 3 ∧ g.cause = 0x06 ∧ g.unit = c) → (∀ g ∈ s.recov.faults, g.level < 4) →
          ⟨4, 0x0B, dieOfCl c, 7⟩ ∈ t.recov.faults ∧ t.flag .MGT_STATUS 0 31 = true)

/-- A context-level fault of a core is recorded, acted on by its cause, counted, and leaves the ladder; one whose action is
RESUME and that recurs climbs instead. An engine-
level fault samples its core, counts, and its core resumes with the engine cleared, or enters at level 3 where the
array stays stopped; a stopped array that recurs climbs. A partition-level fault samples, clears every cluster of the partition and
its Collective Table entries, and loads the parts of a loaded job
again, with PHASE 4; a member of a job of several announces it before and after and waits for the rejoin, and a peer lost meanwhile
is then acted on. A chip-level fault samples, announces the reset and
resets the device with source 7; a link that has failed for good enters as such a fault first, with cause 0x11. A missed deadline climbs
one level, and from level 4 the tray power-cycles. STEP_REPLAY replays the step when every member allows it, and
restores otherwise. Which fault a reset answers, how a link's failure enters, and what a reset loads again are the model's reading
(log entries 88, 89, 137). -/
def Obligations.ResetLevelsComplete : Prop :=
  (∀ (core : CoreId) (envs : List Env) (f : FaultRec) (s t : State), s.contextFault core = some f →
      (f.cause = 0x08 ∨ f.cause = 0x09 ∨ f.cause = 0x0A) → t = (s.openRec f).contextAction core f envs →
      exec (.contextReset core envs) s = .next (((t.countSat .MGT_CTX_COUNT 0 1).modRecov fun x =>
        { x with faults := x.faults.filter fun g => g != f }).setPhase 0))
  ∧ (∀ (core : CoreId) (envs : List Env) (f : FaultRec) (s t : State), s.contextFault core = some f →
      f.cause ≠ 0x08 → f.cause ≠ 0x09 → f.cause ≠ 0x0A → t = (s.openRec f).contextAction core f envs →
      ((∀ g ∈ s.recov.seen, FaultRec.same f g = false) → exec (.contextReset core envs) s = .next ((((t.countSat .MGT_CTX_COUNT 0
        1).modRecov fun x => { x with faults := x.faults.filter fun g => g != f }).leave f).setPhase 0))
      ∧ ((∃ g ∈ s.recov.seen, FaultRec.same f g = true) → exec (.contextReset core envs) s = .next (s.enter f)))
  ∧ (∀ (core : CoreId) (eng : Eng) (envs : List Env) (n : Nat) (f : FaultRec) (s t : State), s.engineFault core eng.num = some f →
      f.cause ≠ 0x07 ∨ (∀ g ∈ s.recov.seen, FaultRec.same f g = false) → t = (((((s.openRec f).takeSample f ((s.openRec f).partOf (clOfCore core)) [core.val] n).setPhase 3).countSat .MGT_ENG_COUNT 0 1).leave f) →
      exec (.engineReset core eng envs false n) s = .next (((t.clearStopped core eng.num).resumeCore core envs).setPhase 0)
      ∧ exec (.engineReset core eng envs true n) s = .next (t.enter ⟨3, 0x0B, clOfCore core, eng.num⟩))
  ∧ (∀ (core : CoreId) (eng : Eng) (envs : List Env) (still : Bool) (n : Nat) (f : FaultRec) (s : State),
      s.engineFault core eng.num = some f → f.cause = 0x07 → (∃ g ∈ s.recov.seen, FaultRec.same f g = true) →
      exec (.engineReset core eng envs still n) s = .next (s.enter f))
  ∧ (∀ (p : PartId) (n : Nat) (f : FaultRec) (s x t u v w y : State),
      s.recov.faults.find? (fun f => f.level == 3 && s.faultPart f == p.val) = some f →
      x = ((s.openRec f).takeSample f p (State.sampleCores f ((s.openRec f).partClusters p)) n).setPhase 2 →
      t = (if x.multi p && x.stepping p then x.originateCounted true else x).setPhase 3 →
      u = (((((((t.partClusters p).foldl (fun s c => s.clearCluster c) t).clearCols p).clearStepMarks p).resetFlags p).countSat
        .MGT_PART_COUNT 0 1).leave f) →
      ((∃ j pl, (u.part p).job = some j ∧ (u.part p).plan = some pl ∧ 3 ≤ u.jobState p ∧ u.jobState p ≤ 7
          ∧ v = ((u.setPhase 4).loadPlan p j (u.clusterPlan pl)).resetHalyards p)
        ∨ (((u.part p).job = none ∨ (u.part p).plan = none ∨ u.jobState p < 3 ∨ 7 < u.jobState p) ∧ v = u)) →
      w = v.setPhase (if v.stepping p then 5 else 0) →
      y = (if w.multi p && w.stepping p then (w.originate 2 w.devId w.ownInc 0).modPart p (fun x => { x with rejoin := true }) else w) →
      exec (.partitionReset p n) s = .next (if y.stepping p = true ∧ (y.part p).lost ≠ [] then y.holdJob p else y))
  ∧ (∀ (n p : Nat) (f : FaultRec) (s t u v : State), s.recov.faults.find? (fun f => f.level == 4) = some f →
      t = (if s.chip.events && s.chip.dynAddr.isSome then s.emit (.ibi 0xA1 10) else s).openRec f →
      p = ((List.range 8).find? fun p => t.jobState p != 0).getD 0 →
      u = (t.takeSample f p (State.sampleCores f (List.range 32)) n).setPhase 2 →
      v = (if u.ethernet then u else u.portsUp.foldl (fun s q => s.emit (.control q 3 0 0)) u) →
      exec (.chipReset ⟨none, n⟩) s = .next (((v.originate 0 v.devId v.ownInc 0).setPhase 3).resetBy 7 true)
      ∧ ∀ (link : DieId) (w : State), s = w.enter ⟨4, 0x11, link, 7⟩ → exec (.chipReset ⟨some link, n⟩) w = exec (.chipReset ⟨none, n⟩) s)
  ∧ (∀ (unit : Fin 256) (f : FaultRec) (s : State),
      (s.contextFault unit = some f → f.level = 1 → exec (.escalationDeadline 1 unit) s = .next
        (((s.setFlag .MGT_STATUS 0 31).modRecov fun x => { x with faults := x.faults.filter fun g => g != f }).enter (f.up f.cause)))
      ∧ (s.recov.faults.find? (fun f => f.level == 2 && f.unit == unit.val) = some f → exec (.escalationDeadline 2 unit) s = .next
        (((s.setFlag .MGT_STATUS 0 31).modRecov fun x => { x with faults := x.faults.filter fun g => g != f }).enter (f.up f.cause)))
      ∧ (s.recov.faults.find? (fun f => f.level == 3 && f.unit == unit.val) = some f → exec (.escalationDeadline 3 unit) s = .next
        (((s.setFlag .MGT_STATUS 0 31).modRecov fun x => { x with faults := x.faults.filter fun g => g != f }).enter (f.up 0x0C)))
      ∧ (s.recov.faults.find? (fun f => f.level == 4 && f.unit == unit.val) = some f → exec (.escalationDeadline 4 unit) s = .next
        ((s.setFlag .MGT_STATUS 0 31).emit .powerCycle)))
  ∧ (∀ (p : PartId) (allowed : Bool) (others : Word) (rebuilt : Option Rebuilt) (s : State), s.stepping p = true →
      (s.part p).plan.isSome = true → s.waitsRejoin p = false → exec (.stepReplay p allowed others rebuilt) s = .next
        (if allowed && s.mayReplay p then s.replayStep p else (s.restorePart p s.devId others rebuilt).closeRec))

/-- A running Masthead of a started device sends its heartbeat to the other three. The first two missed periods count;
at the third, a failed primary with a standby hands over to it, and any other failed Masthead goes down. A restart
that passes runs it again; a first failure counts. The tray heartbeat carries the next sequence number while the tray
counts; three missed ones power-cycle. A rejoin timer that ends in HOLDING passes to REPLANNING. Members whose digests and
steps agree in HOLDING resume, by a replay unless one has updated, or else a restore; a disagreement changes nothing. A
member that has reset its own partition, or whose start has reloaded its job, waits in RUNNING for the same agreement and resumes
the same way. At a start that completes, the job of a valid Job Record is planned and loaded again, RUNNING at the step that its
Boundary Records name; where the plan cannot be made nothing is loaded. -/
def Obligations.MastheadAndRejoinRowsComplete : Prop :=
  (∀ (d : DieId) (s : State), (s.die d).mast.running = true → s.chip.fencedDies.getLsbD d = false → s.chip.fw.isSome = true →
      exec (.mastheadHeartbeat d) s = .next (((List.range 4).filter fun k => k != d.val).foldl (fun s k => s.emit (.heartbeat d k))
        (s.modDie d fun x => { x with mast := { x.mast with missed := 0 } }))
      ∧ ((s.die d).mast.missed < 2 → exec (.mastheadWatchdog d) s = .next
        (s.modDie d fun x => { x with mast := { x.mast with missed := x.mast.missed + 1 } }))
      ∧ (2 ≤ (s.die d).mast.missed → d.val = s.primary → s.standbyRuns = true →
        exec (.mastheadWatchdog d) s = .next ((s.countSat .MGT_WD_FIRE 0 1).takeover (2 - d)))
      ∧ (2 ≤ (s.die d).mast.missed → d.val ≠ s.primary →
        exec (.mastheadWatchdog d) s = .next (((s.countSat .MGT_WD_FIRE 0 1).mastDown d).setFlag .MGT_STATUS 0 29)))
  ∧ (∀ (d : DieId) (s : State), (s.die d).mast.running = false → s.chip.fencedDies.getLsbD d = false → s.chip.fw.isSome = true →
      (s.die d).mast.fails < 2 →
      exec (.mastheadRestarted d true) s = .next (s.mastUp d)
      ∧ ((s.die d).mast.fails = 0 → exec (.mastheadRestarted d false) s = .next
        (s.modDie d fun x => { x with mast := { x.mast with fails := x.mast.fails + 1 } })))
  ∧ (∀ s : State, s.trayCounts = true → (s.inMrm = true ∨ (s.die s.primary).mast.running = true) →
      exec .trayHeartbeat s = .next (if s.chip.events && s.chip.dynAddr.isSome then
          (s.modChip fun c => { c with hbSeq := (s.chip.hbSeq + 1) % 256 }).emit (.ibi 0xA0 ((s.chip.hbSeq + 1) % 256))
        else s.modChip fun c => { c with hbSeq := (s.chip.hbSeq + 1) % 256 })
      ∧ exec .trayWatchdog s = .next (s.emit .powerCycle))
  ∧ (∀ (p : PartId) (s : State), s.jobState p = 5 →
      exec (.rejoinWindowExpire p) s = .next ((s.setJobState p 6).eventVector p)
      ∧ ∀ (votes : List RejoinVote) updated others rebuilt,
        (State.votesAgree ((s.part p).place.digest, s.rd .PLC_STEP p) votes = true → exec (.rejoinAgree p votes updated others rebuilt) s = .next
          ((((s.setJobState p 4).modPart p fun x => { x with lost := [] }).rejoinDone p (!updated) others
            rebuilt).eventVector p))
        ∧ (State.votesAgree ((s.part p).place.digest, s.rd .PLC_STEP p) votes = false →
          exec (.rejoinAgree p votes updated others rebuilt) s = .next s))
  ∧ (∀ (p : PartId) (votes : List RejoinVote) (updated : Bool) (others : Word) (rebuilt : Option Rebuilt) (s : State),
      s.waitsRejoin p = true → s.jobState p ≠ 5 →
      (State.votesAgree ((s.part p).place.digest, s.rd .PLC_STEP p) votes = true →
        exec (.rejoinAgree p votes updated others rebuilt) s = .next (s.rejoinDone p (!updated) others rebuilt))
      ∧ (State.votesAgree ((s.part p).place.digest, s.rd .PLC_STEP p) votes = false →
        exec (.rejoinAgree p votes updated others rebuilt) s = .next s))
  ∧ (∀ (p : PartId) (f : PlanFacts) (j : Job) (old : Plan) (x : Place) (s t : State), s.rejoins p = some (j, old, x) →
      t = ((s.wr .PLC_PART_HBM p (BitVec.ofNat 32 (bits (s.record 13) 27 20 * 256 + bits (s.record 13) 19 12))).wr .PLC_PART_CLUSTERS p
        (s.record 14)).modPart p (fun y => { y with job := some j }) →
      (∀ pl y, t.place p j f = .placed pl y → (s.reloadJob p f).jobState p = 4
        ∧ (s.reloadJob p f).rd .PLC_STEP p = (t.modPart p fun z => { z with plan := some { pl with
            brec0 := old.brec0, brec1 := old.brec1, slot0 := old.slot0, slot1 := old.slot1 } }).recordedStep p)
      ∧ ((∀ pl y, t.place p j f ≠ .placed pl y) → s.reloadJob p f = s))

/-- A source met by a device whose AON rail is up leaves OTP, flash, host memory, the Stay registers of every die,
Stay memory and the queue as they were; every register but CKR_GLITCH_COUNT stands at its reset value; no job is
loaded; HBM keeps its bytes when the source keeps HBM and HBM was not lost before, and every other byte reads 0; SRC
is the source's code, or 0 while a power-on start is still due in phase 0, and its bit joins SEEN; a reset in Minimal Recovery Mode
does not end the mode. A brown-out and a thermal trip
lose HBM; a thermal trip holds the device. A pin low for fewer than 10 cycles only adds 1 to CKR_GLITCH_COUNT; from 10
on it resets and holds the device until it rises. A release starts the device when no other source holds it, and
changes nothing else. POWER_ON keeps OTP, flash and the queue, clears memory and every register, and a power-on start
follows; POWER_LOSS leaves the device without its rail. Which clusters failed the last array test outlives a power-up (log entry
167); how sources merge and what a start keeps are the model's reading (log entries 93, 138). -/
def Obligations.ResetSourcesTakeEffect : Prop :=
  (∀ s : State, s.chip.start ≠ .off →
      (∃ t, exec .brownOut s = .next t ∧ s.ResetAs t 1 false)
      ∧ (∃ t, exec .thermalTrip s = .next t ∧ s.ResetAs t 2 false ∧ t.chip.therm = true ∧ t.chip.start = .held)
      ∧ (s.chip.start ≠ .held → ∃ t, exec .pcieHotReset s = .next t ∧ s.ResetAs t 4 true)
      ∧ (∀ n, s.chip.perst = false → (n < 10 → exec (.perstN n) s = .next (s.countSat .CKR_GLITCH_COUNT 0 1))
        ∧ (10 ≤ n → ∃ t, exec (.perstN n) s = .next t ∧ s.ResetAs t 3 true ∧ t.chip.perst = true ∧ t.chip.start = .held))
      ∧ (∀ n, s.chip.resetn = false → (n < 10 → exec (.resetN n) s = .next (s.countSat .CKR_GLITCH_COUNT 0 1))
        ∧ (10 ≤ n → ∃ t, exec (.resetN n) s = .next t ∧ s.ResetAs t 5 true ∧ t.chip.resetn = true ∧ t.chip.start = .held)))
  ∧ (∀ s : State, s.chip.start = .held → s.chip.therm = false →
      (s.chip.resetn = false → exec (.resetRelease true) s = .next { s with chip := { s.chip with perst := false, start := .ready } })
      ∧ (s.chip.perst = false → exec (.resetRelease false) s = .next { s with chip := { s.chip with resetn := false, start := .ready } })
      ∧ (s.chip.resetn = true → exec (.resetRelease true) s = .next { s with chip := { s.chip with perst := false } }))
  ∧ (∀ s : State, ∃ t u, exec .powerOn s = .next t ∧ exec .powerLoss s = .next u ∧ t.mem = [] ∧ (∀ r i, t.rd r i = r.resetAt i)
      ∧ t.chip.otp = s.chip.otp ∧ t.chip.flash = s.chip.flash ∧ t.pending = s.pending ∧ t.chip.power = true ∧ t.chip.src = 0 ∧ t.chip.seen = 1
      ∧ t.recov.failedTest = s.recov.failedTest
      ∧ t.chip.start = (if s.chip.perst || s.chip.resetn then .held else .ready)
      ∧ u.chip.start = .off ∧ u.chip.otp = s.chip.otp ∧ u.chip.flash = s.chip.flash ∧ u.pending = s.pending)

/-- A start that has no REFCLK waits for it; one whose dies are below 0 °C waits in the cold with the phases before
done. A start that is released goes on to the same state as a start that never waited. A start that finds a valid
Option Block asking for no Minimal Recovery Mode and an image that passes, and whose die 0 and its stacks are sound, with no
Job Record to reload,
completes: no start is under way, the device is ready, FAILS is 0, SEEN is empty, the image's Body digest and SVN run,
and in RETIRED it runs without becoming ready. A start with 4 failed starts before it, or without a valid Option
Block, or with the tray's request latched, or after a reset in the mode, comes up in Minimal Recovery Mode with no image
running. A start that runs
no longer than its first phases before the watchdog is reset by source 6 with FAILS one higher. How the phases follow one another
is the model's reading (log entry 93). -/
def Obligations.StartsRunTheirPhases : Prop :=
  (∀ (e : StartEnv) (s t : State), s.chip.start = .ready → t = (if s.chip.power then s.phase0 e else s) →
      (e.refclk = false → exec (.startSequence e) s = .next (s.modChip fun c => { c with start := .ref }))
      ∧ (e.refclk = true → e.warm = false → exec (.startSequence e) s = .next (t.modChip fun c => { c with start := .cold }))
      ∧ (e.refclk = true → e.warm = true → exec (.startSequence e) s = .next ((t.phase1 e).startOn e)
        ∧ exec (.refclkRuns e) (s.modChip fun c => { c with start := .ref }) = .next
          ((((if s.chip.power then (s.modChip fun c => { c with start := .ref }).phase0 e
            else s.modChip fun c => { c with start := .ref }) : State).phase1 e).startOn e)))
  ∧ (∀ (e : StartEnv) (s : State), s.chip.start = .cold → exec (.coldStartRelease e) s = .next ((s.phase1 e).startOn e))
  ∧ (∀ (e : StartEnv) (s : State) (c b : Bool), s.chip.start = .cold → s.obInUse = some c → leB (s.obCopy c) 12 4 % 2 = 0 → s.fails < 4 →
      s.chip.mrmLatch = false → s.chip.mrmStays = false → s.chip.jobRec = none → s.bootSlot = some b → e.mastFail.getLsbD 0 = false → (∀ k, k < 6 → e.stackFail.getLsbD k = false) →
      ∃ t, exec (.coldStartRelease e) s = .next t ∧ t.chip.start = .none ∧ t.chip.power = false ∧ t.lifeCycle = s.lifeCycle
        ∧ t.pending = s.pending
        ∧ (∃ f, t.chip.fw = some f ∧ f.digest = sliceB (s.slotImage b) 32 64 ∧ f.svn = imgSvn (s.slotImage b))
        ∧ (s.lifeCycle ≠ 4 → t.isReady = true ∧ t.fails = 0 ∧ t.chip.seen = 0 ∧ t.chip.armed = true))
  ∧ (∀ (e : StartEnv) (s : State), s.chip.start = .cold → s.chip.fw = none → (4 ≤ s.fails ∨ s.chip.mrmLatch = true ∨ s.chip.mrmStays = true ∨ s.obInUse = none) →
      ∃ t, exec (.coldStartRelease e) s = .next t ∧ t.inMrm = true ∧ t.chip.fw = none ∧ t.chip.power = false ∧ t.pending = s.pending)
  ∧ (∀ (e : StartEnv) (s t : State), s.chip.start = .ready → t = ((if s.chip.power then s.phase0 e else s).phase1 e).phase2 →
      t.wantsMrm = false → exec (.startWatchdog e) s = .next (((t.setStartRec 27 24 (min 15 (t.fails + 1))).modChip fun c =>
        { c with power := false, start := .none }).resetBy 6 true))

/-- In Minimal Recovery Mode, UPDATE_BEGIN with a length a slot holds erases the slot's record and opens window 0 onto
the slot, and a longer one gets FAULT_ADDRESS; UPDATE_END of a whole image that passes R505 writes the image with a
new record and answers OK, of one that fails answers the failed check, of a stream of another length FAULT_ADDRESS,
and without a window FAULT_ADDRESS; OB_WRITE opens window 0 for 512 bytes; EXIT clears FAILS and the latch and resets
by source 7. Out of the mode none of the four changes anything. A Masthead's write through CKR_STAY_DATA sets the
selected Stay register, through CKR_STAYMEM_DATA the selected word, and a host's only sets CKR_RST_STATUS bit 18. A
read through CKR_STAYMEM_DATA answers the selected word. Where a slot's record lies and what each command keeps are the model's reading
(log entry 94). -/
def Obligations.RecoveryModeRowsComplete : Prop :=
  (∀ (req : Req) (s : State), s.inMrm = true → s.reaches req .MGT 0 0x40 = true → ∀ len, len = 16 * bits (s.rd .MGT_MRM_ARG 0) 31 1 →
      (0xFFF00 < len → exec (.updateBegin req) s = .next (s.mrmStatus .faultAddress))
      ∧ (len ≤ 0xFFF00 → exec (.updateBegin req) s = .next ((s.flashWr (slotFlash (bit (s.rd .MGT_MRM_ARG 0) 0) + 0xFFF00)
        (List.replicate 256 0xFF#8)).openMrm (1, bits (s.rd .MGT_MRM_ARG 0) 0 0, len)))
      ∧ exec (.obWrite req) s = .next (s.openMrm (3, 0, 512))
      ∧ exec (.mrmExit req) s = .next ((((s.setStartRec 27 24 0).modChip fun c => { c with mrmLatch := false }).resetBy 7 true).modChip
        fun c => { c with mrmStays := false })
      ∧ (s.chip.mrmWin = none → exec (.updateEnd req) s = .next (s.mrmStatus .faultAddress))
      ∧ ∀ slot n, s.chip.mrmWin = some (1, slot, n) →
        (s.chip.mrmOver = true ∨ s.chip.mrmData.length ≠ n → exec (.updateEnd req) s = .next
          ((s.flashWr (slotFlash (slot == 1)) s.chip.mrmData).closeMrm .faultAddress))
        ∧ (s.chip.mrmOver = false → s.chip.mrmData.length = n → s.imageFails s.chip.mrmData (some (n / 16)) = none →
          exec (.updateEnd req) s = .next ((s.writeImage (slot == 1) s.chip.mrmData).closeMrm .ok))
        ∧ (∀ st, s.chip.mrmOver = false → s.chip.mrmData.length = n → s.imageFails s.chip.mrmData (some (n / 16)) = some st →
          exec (.updateEnd req) s = .next ((s.flashWr (slotFlash (slot == 1)) s.chip.mrmData).closeMrm st)))
  ∧ (∀ (req : Req) (s : State), s.inMrm = false → ∀ i ∈ [Instr.updateBegin req, .updateEnd req, .obWrite req, .mrmExit req], exec i s = .next s)
  ∧ (∀ (d : DieId) (v : Word) (s : State), s.reaches (.masthead d) .CKR 0 0x24 = true → s.reaches (.masthead d) .CKR 0 0x2C = true →
      (∀ k die, k = bits (s.sel (.masthead d) .CKR_STAY_SEL 0) 3 0 → die = bits (s.sel (.masthead d) .CKR_STAY_SEL 0) 5 4 → ¬(k = 15 ∧ die = 0) →
        exec (.stayDataWrite (.masthead d) false v) s = .next (s.setStay die k v))
      ∧ (∃ t, exec (.stayDataWrite (.masthead d) true v) s = .next t
        ∧ t.chip.stayMem = s.chip.stayMem.wr32 (4 * bits (s.sel (.masthead d) .CKR_STAYMEM_ADDR 0) 15 2) v)
      ∧ (∃ t, exec (.staymemDataRead (.masthead d)) s = .next t ∧ t.chip = s.chip
        ∧ t.out = (s.emit (.readData (s.chip.stayMem.rd32 (4 * bits (s.sel (.masthead d) .CKR_STAYMEM_ADDR 0) 15 2)))).out))
  ∧ (∀ (fn : FnId) (mem : Bool) (v : Word) (s : State), s.reaches (.host fn) .CKR 0 (if mem then 0x2C else 0x24) = true →
      exec (.stayDataWrite (.host fn) mem v) s = .next (s.setFlag .CKR_RST_STATUS 0 18))

/-- A checked LC_CHANGE burns its transition, wipes every Secure Region and restarts the device, keeping HBM but for a
change to RMA or RETIRED, also when a tamper event comes during the burn; one that fails a check or meets a tamper event during it
answers a status (of a tamper event AUTH_FAIL), burns nothing and draws a
new nonce. WRITE_SLOT puts an image that passes into the slot that does not run, and FW_COMMIT burns the anti-rollback
counter up to the running image's SVN. The token buffer's selected word is written or read. A tamper event wipes and
counts once, whatever sensors trip in its cycle, and in phase 1 of a start keeps the keys from being made. Every SPDM request of a
device that serves SPDM gets one answer of its kind, in chunks above the transfer size, and changes nothing but the signing state; a
device that does not serve it answers nothing. The formats of tokens, of messages and of what is signed are the model's reading or
presumed (log entries 96, 97, 168). -/
def Obligations.SecurityRowsComplete : Prop :=
  (∀ (req : Req) (vk ok : List Byte) (nonce : BitVec 128) (s : State), s.reaches req .SEC 0 0x2C = true →
      (∀ x, s.lcCheck vk ok = .ok x → exec (.lcChange req vk ok none nonce) s = .next (((((s.lcBurn x).wipeSecure).secResult .ok)).resetBy 7
        (leB (s.chip.token.rdN 0 512) 4 1 != 3 && leB (s.chip.token.rdN 0 512) 4 1 != 4))
        ∧ ∀ cause die, exec (.lcChange req vk ok (some (cause, die, false)) nonce) s = .next
            (((s.tamperTrip [(cause, die)]).newNonce nonce).secResult .authFail)
          ∧ exec (.lcChange req vk ok (some (cause, die, true)) nonce) s = exec (.lcChange req vk ok none nonce) s)
      ∧ (∀ st, s.lcCheck vk ok = .error st → exec (.lcChange req vk ok none nonce) s = .next ((s.newNonce nonce).secResult st)
        ∧ ∀ cause die, exec (.lcChange req vk ok (some (cause, die, false)) nonce) s = .next
          (((s.tamperTrip [(cause, die)]).newNonce nonce).secResult .authFail))
      ∧ (s.handOverRuns = true → exec (.writeSlot req) s = .next (s.secResult .slotBusy) ∧ exec (.fwCommit req) s = .next (s.secResult .slotBusy))
      ∧ (∀ n t, s.handOverRuns = false → n = s.fld .SEC_FW_LEN 0 15 0 → s.inPartHbm 0 s.fwSrc (16 * n) = true →
        s.imageFails (s.mem.rdN s.fwSrc (max 512 (16 * n))) (some n) = none →
        t = s.writeImage (!s.flag .SEC_STATUS 0 24) (s.mem.rdN s.fwSrc (16 * n)) →
        exec (.writeSlot req) s = .next ((t.setFld .SEC_STATUS 0 23 23 (t.slotOk !s.flag .SEC_STATUS 0 24).toNat).secResult .ok))
      ∧ (∀ svn, s.handOverRuns = false → svn = s.fld .SEC_STATUS 0 15 8 → s.svnCtr < svn → s.firstSlot = some (s.flag .SEC_STATUS 0 24) →
        exec (.fwCommit req) s = .next (((s.burnSvn (svn - s.svnCtr)).secStatus (s.flag .SEC_STATUS 0 24) svn
          ((s.burnSvn (svn - s.svnCtr)).slotOk !s.flag .SEC_STATUS 0 24)).secResult .ok)))
  ∧ (∀ (req : Req) (v : Word) (s : State) (a : Nat), s.reaches req .SEC 0 0x28 = true → a = 4 * bits (s.sel req .SEC_TOKEN_SEL 0) 6 0 →
      (∃ t, exec (.secTokenDataAccess req (some v)) s = .next t ∧ t.chip.token = s.chip.token.wr32 a v)
      ∧ ∃ t, exec (.secTokenDataAccess req none) s = .next t ∧ t.chip = s.chip ∧ t.out = (s.emit (.readData (s.chip.token.rd32 a))).out)
  ∧ (∀ (trip : Fin 4 × DieId) (more : List (Fin 4 × DieId)) (s : State), s.chip.start ≠ .off →
      exec (.tamperTrip trip more) s = .next (((((trip :: more).foldl (fun s x =>
        (s.setFlag .SEC_TAMPER 0 (31 - x.1)).setFlag .SEC_TAMPER 0 x.2) s.wipeSecure).countSat .SEC_TAMPER_COUNT 0 1).setFlag .SEC_STATUS 0
        25).modChip fun c => { c with tripped := c.tripped || decide (c.start = .cold ∨ (c.start = .ref ∧ !c.power)) }))
  ∧ (∀ (i : Instr) (name : String) (m : List Byte) (s : State), s.spdmServed = true →
      ((i, name, m) ∈ [(Instr.getVersion, "VERSION", spdmMsg Config.spdmVersion 0x04 0 0
            (natLe 1 0 ++ natLe 1 2 ++ natLe 2 0x1200 ++ natLe 2 0x1300)),
          (.getCapabilities, "CAPABILITIES", spdmMsg Config.spdmVersion 0x61 0 0
            (natLe 1 0 ++ natLe 1 15 ++ natLe 2 0 ++ natLe 4 0x20016 ++ natLe 4 4096 ++ natLe 4 65536)),
          (.negotiateAlgorithms true true, "ALGORITHMS", spdmMsg Config.spdmVersion 0x63 0 0
            (natLe 2 36 ++ natLe 1 1 ++ natLe 1 0 ++ natLe 4 1 ++ natLe 4 0x400 ++ natLe 4 0x20 ++ natLe 12 0 ++ natLe 4 0)),
          (.getDigests, "DIGESTS", spdmMsg Config.spdmVersion 0x01 0 1 (sha3_512 s.certChain)),
          (.negotiateAlgorithms true false, "ERROR InvalidRequest", spdmMsg Config.spdmVersion 0x7F 0x01 0 []),
          (.negotiateAlgorithms false true, "ERROR InvalidRequest", spdmMsg Config.spdmVersion 0x7F 0x01 0 []),
          (.negotiateAlgorithms false false, "ERROR InvalidRequest", spdmMsg Config.spdmVersion 0x7F 0x01 0 []),
          (.spdmUnsupportedRequest, "ERROR UnsupportedRequest", spdmMsg Config.spdmVersion 0x7F 0x07 0 [])]
        ∨ (∃ off len n, n = min (min len 65535) (s.certChain.length - off) ∧ off < s.certChain.length ∧ i = .getCertificate 0 off len
            ∧ name = "CERTIFICATE" ∧ m = spdmMsg Config.spdmVersion 0x02 0 0
              (natLe 2 n ++ natLe 2 (s.certChain.length - off - n) ++ sliceB s.certChain off n))
        ∨ (∃ slot off len, (slot ≠ 0 ∨ s.certChain.length ≤ off) ∧ i = .getCertificate slot off len ∧ name = "ERROR InvalidRequest"
            ∧ m = spdmMsg Config.spdmVersion 0x7F 0x01 0 [])
        ∨ (∃ req, i = .challenge req ∧ leB req 2 1 ≠ 0 ∧ name = "ERROR InvalidRequest" ∧ m = spdmMsg Config.spdmVersion 0x7F 0x01 0 [])
        ∨ (∃ req, i = .challenge req ∧ leB req 2 1 = 0 ∧ s.noId = true ∧ name = "ERROR Unspecified"
            ∧ m = spdmMsg Config.spdmVersion 0x7F 0x05 0 [])
        ∨ (∃ req m0, i = .challenge req ∧ leB req 2 1 = 0 ∧ s.noId = false ∧ name = "CHALLENGE_AUTH"
            ∧ m0 = spdmMsg (req.headD 0) 0x03 0 1 (sha3_512 s.certChain ++ s.spdmNonce.2
              ++ (if leB req 3 1 = 0 then [] else sha3_512 s.spdmNonce.1.allBlocks) ++ natLe 2 0 ++ State.spdmContext req 36)
            ∧ m = m0 ++ edSign (s.seedOf 0) [] (sha3_512 (s.chip.spdm.vca ++ s.chip.spdm.certs ++ req ++ m0)))
        ∨ (∃ k signed req, i = .getMeasurements k signed req ∧ signed = true ∧ s.noId = true ∧ name = "ERROR Unspecified"
            ∧ m = spdmMsg Config.spdmVersion 0x7F 0x05 0 [])
        ∨ (∃ (k : Fin 256) (signed : Bool) (req : List Byte), i = .getMeasurements k signed req ∧ (signed && s.noId) = false
            ∧ k.val ≠ 0 ∧ k.val ≠ 255 ∧ s.measure k = none ∧ name = "ERROR InvalidRequest" ∧ m = spdmMsg Config.spdmVersion 0x7F 0x01 0 [])
        ∨ (∃ (k : Fin 256) (signed : Bool) (req b m0 : List Byte) (n : Nat), i = .getMeasurements k signed req ∧ (signed && s.noId) = false
            ∧ ((k.val = 0 ∧ n = 0 ∧ b = []) ∨ (k.val = 255 ∧ n = 17 ∧ b = s.allBlocks)
              ∨ (k.val ≠ 0 ∧ k.val ≠ 255 ∧ n = 1 ∧ ∃ v, s.measure k = some v ∧ b = State.measureBlock k v))
            ∧ name = "MEASUREMENTS" ∧ m0 = spdmMsg (req.headD 0) 0x60 (if k.val = 0 then 17 else 0) 0
              (natLe 1 n ++ natLe 3 b.length ++ b ++ s.spdmNonce.2 ++ natLe 2 0 ++ State.spdmContext req 37)
            ∧ m = m0 ++ (if signed then edSign (s.seedOf 0) [] (sha3_512 (s.chip.spdm.vca ++ s.chip.spdm.meas ++ req ++ m0)) else []))) →
      ∃ t, exec i s = .next t ∧ t.out = ((spdmChunks m).foldl (fun u x => u.emit (.spdm name (doeObject x))) s).out
        ∧ t = { s with out := t.out, fresh := t.fresh, chip := { s.chip with spdm := t.chip.spdm } })
  ∧ (∀ s : State, s.spdmServed = false →
      (∀ i ∈ [Instr.getVersion, .getCapabilities, .negotiateAlgorithms true true, .getDigests, .getCertificate 0 0 4, .spdmUnsupportedRequest],
        exec i s = .next s) ∧ (∀ req, exec (.challenge req) s = .next s) ∧ ∀ k signed req, exec (.getMeasurements k signed req) s = .next s)

/-- In an armed device that nothing holds, GOVERNOR_LOOP leaves the duty of each die that is not fenced at its limit or 640 above
where it stood, whichever is lower; TRANSIENT_LIMIT halves each duty, counts and sets bit 30; ENVELOPE_OVERRUN lowers each duty
to what is asked, by one unit at least, never below 0x100 and never up (log entry 164); CLOCK_STEP, when the loop has made a step due,
moves the die's clock down by 100 MHz, to 12 at the least, in the cases of R534, and else up towards its target, and changes nothing
when none is due. BRAKE_ASSERT holds the PWR_BRAKE duty, counts, and leaves no duty above it; BRAKE_RELEASE lets it go. VIN_LOW sets
bit 28. PWR_CTRL takes a legal value without its reserved bits and else sets bit 27. On the tray bus a private write
sets the offset and writes from there, a private read answers the map's bytes from that offset, which stays, REQ_MRM and
CLR_MRM move the latch, ENEC and DISEC the events, RSTDAA, SETDASA and ENTDAA the dynamic address, and each GET
answers its code. That in-band interrupts need both ENEC and a dynamic address is the model's reading (log entry 98). -/
def Obligations.GovernorAndTrayRowsComplete : Prop :=
  (∀ (x : Sense) (s : State), s.chip.start = .none → s.chip.armed = true →
      ∃ t, exec (.governorLoop x) s = .next t ∧ t.mem = s.mem ∧ t.pending = s.pending
        ∧ ∀ d, d < 4 → (s.chip.fencedDies.getLsbD d = false → t.duty d = min (t.dutyLimit d) (s.duty d + 640))
          ∧ (s.chip.fencedDies.getLsbD d = true → t.duty d = s.duty d))
  ∧ (∀ s : State, s.chip.start = .none → s.chip.armed = true →
      (∃ t, exec .transientLimit s = .next t ∧ (∀ d, d < 4 → t.duty d = s.duty d / 2) ∧ t.flag .PWR_STATUS 0 30 = true
        ∧ t.rd .PWR_TRANS_COUNT 0 = (s.countSat .PWR_TRANS_COUNT 0 1).rd .PWR_TRANS_COUNT 0)
      ∧ (∀ want : List Nat, ∃ t, exec (.envelopeOverrun want) s = .next t
        ∧ ∀ d, d < 4 → t.duty d = min (s.duty d) (max 0x100 (min (want.getD d 0x100) (s.duty d - 1))))
      ∧ (∀ (d : DieId) (g : Gov) (clk : Nat), g = s.gov d → clk = s.fld (pwrDie d) 0 31 27 →
        (g.due = true → g.slow = false → exec (.clockStep d true) s = .next ((s.setFld (pwrDie d) 0 31 27 (clk + 1)).setGov d
            { g with due := false, up := 0, below := decide (clk + 1 < s.clkTarget d) })
          ∧ exec (.clockStep d false) s = .next s)
        ∧ (g.due = true → g.slow = true → exec (.clockStep d false) s = .next ((if 12 < clk then
            s.setFld (pwrDie d) 0 31 27 (clk - 1) else s).setGov d { g with due := false, below := true })
          ∧ exec (.clockStep d true) s = .next s)
        ∧ (g.due = false → ∀ up, exec (.clockStep d up) s = .next s))
      ∧ exec .vinLow s = .next (s.setFlag .PWR_STATUS 0 28))
  ∧ (∀ s : State, s.chip.start ≠ .off →
      (s.chip.brake = none → s.chip.armed = true → ∃ t, exec .brakeAssert s = .next t ∧ t.chip.brake = some (s.fld .PWR_BRAKE 0 10 0)
        ∧ t.flag .PWR_STATUS 0 29 = true ∧ ∀ d, d < 4 → t.duty d = min (s.duty d) (s.fld .PWR_BRAKE 0 10 0))
      ∧ exec .brakeRelease s = .next { s with chip := { s.chip with brake := none } }
      ∧ exec .reqMrm s = .next { s with chip := { s.chip with mrmLatch := true } }
      ∧ exec .clrMrm s = .next { s with chip := { s.chip with mrmLatch := false } }
      ∧ exec .enec s = .next { s with chip := { s.chip with events := true } }
      ∧ exec .disec s = .next { s with chip := { s.chip with events := false } }
      ∧ exec .rstdaa s = .next { s with chip := { s.chip with dynAddr := none } }
      ∧ (∀ a, s.chip.dynAddr = none → exec (.entdaa a) s = .next { s with chip := { s.chip with dynAddr := some a } }
        ∧ exec (.setdasa (0x50 + s.fld .PWR_SENSE 0 3 0) a) s = .next { s with chip := { s.chip with dynAddr := some a } })
      ∧ ∀ a, s.chip.dynAddr = some a →
        (∀ o bs, exec (.i3cPrivateWrite a (o :: bs)) s = .next ((bs.zipIdx).foldl (fun u x => u.trayWrite (o.toNat + x.2) x.1)
          { s with chip := { s.chip with offset := o.toNat } }))
        ∧ (∀ n, exec (.i3cPrivateRead a n) s = .next (s.emit (.i3c ((List.range n).map fun k => s.trayByte ((s.chip.offset + k) % 256)))))
        ∧ exec (.getstatus a) s = .next (s.emit (.i3c Config.i3cStatus)) ∧ exec (.getbcr a) s = .next (s.emit (.i3c Config.i3cBcr))
        ∧ exec (.getdcr a) s = .next (s.emit (.i3c Config.i3cDcr)) ∧ exec (.getpid a) s = .next (s.emit (.i3c Config.i3cPid)))
  ∧ (∀ (req : Req) (v : Word) (s : State), s.reaches req .PWR 0 0x10 = true →
      (12 ≤ bits v 17 13 → bits v 17 13 ≤ 30 → bits v 19 18 ≠ 3 → exec (.pwrCtrlWrite req v) s = .next (s.wr .PWR_CTRL 0 (v &&& 0xFFFFE7FF#32)))
      ∧ (bits v 17 13 < 12 ∨ 30 < bits v 17 13 ∨ bits v 19 18 = 3 → exec (.pwrCtrlWrite req v) s = .next (s.setFlag .PWR_STATUS 0 27)))

/-- By its field's code a write sets a RW field to the value written, clears in a W1C field and sets in a W1S field
the bits written 1, and leaves RO, RC and WO fields; a bit of no field stays. A write of an aligned word that reaches
a register acts on that register (of a ring pair: RP_CFG by R400, the others by their codes while no ring pair of the function is
enabled; of a function: its registers and its MSI-X table); one that is not aligned, leads nowhere or does not reach changes nothing.
A read of
an aligned word that reaches a plain register answers its value and clears exactly its RC fields, one at a block's first word its ID;
one that leads nowhere or does not reach answers 0. An access of an aligned doubleword is the two word accesses, the lower first (R555); one of another size
or alignment changes nothing and reads 0. An event in the cycle of an access comes after it (R9; log entry 18, the model's
reading): its status bit stands whatever the access wrote there, and a counter that the access cleared holds the event's
count. -/
def Obligations.RegisterAccessesFollowTheirCodes : Prop :=
  (∀ (r : Reg) (old v : Word), (∀ f ∈ r.fields, bits (r.write old v) f.hi f.lo = match f.acc with
        | .rw => bits v f.hi f.lo
        | .w1c => bits (old &&& ~~~v) f.hi f.lo
        | .w1s => bits (old ||| v) f.hi f.lo
        | _ => bits old f.hi f.lo)
      ∧ ∀ k, (∀ f ∈ r.fields, k < f.lo ∨ f.hi < k) → bit (r.write old v) k = bit old k)
  ∧ (∀ (req : Req) (o size : Nat) (v : DWord) (s : State),
      ((size ≠ 4 ∧ size ≠ 8) ∨ (size = 8 ∧ o % 8 ≠ 0) ∨ (size = 4 ∧ (o % 4 ≠ 0 ∨ barOf req o = none)) →
        exec (.registerWrite req ⟨o, size⟩ v) s = .next s ∧ exec (.rcFieldRead req ⟨o, size⟩) s = .next (s.emit (.readData 0)))
      ∧ (o % 8 = 0 → ∀ t u : State, exec (.registerWrite req ⟨o, 4⟩ v) s = .next t → exec (.rcFieldRead req ⟨o, 4⟩) s = .next u →
        exec (.registerWrite req ⟨o, 8⟩ v) s = exec (.registerWrite req ⟨o + 4, 4⟩ (v >>> 32)) t
        ∧ exec (.rcFieldRead req ⟨o, 8⟩) s = exec (.rcFieldRead req ⟨o + 4, 4⟩) u))
  ∧ (∀ (req : Req) (o : Nat) (v : DWord) (s : State) (b : Block) (i off : Nat) (r : Reg), o % 4 = 0 → barOf req o = some (b, i, off) →
      b ≠ .RP → b ≠ .FN → s.reaches req b i off = true → regAt b off = some r →
      exec (.registerWrite req ⟨o, 4⟩ v) s = .next (s.regWrite req r i (v.setWidth 32))
      ∧ (off ≠ 0 → i ≠ 256 → r ∉ [Reg.CVT_REEF_DATA, .TTL_NW_DATA, .CKR_STAYMEM_DATA, .SEC_TOKEN_DATA] →
        exec (.rcFieldRead req ⟨o, 4⟩) s = .next ((s.emit (.readData (s.regRead req r i))).clearRc r i)))
  ∧ (∀ (req : Req) (o : Nat) (v : DWord) (s : State) (b : Block) (i off a : Nat), o % 4 = 0 → barOf req o = some (b, i, off) →
      a = (if b = .RP then ((s.rpOf i).map (·.1)).getD 256 else i) →
      (s.reaches req b a off = false → exec (.registerWrite req ⟨o, 4⟩ v) s = .next s
        ∧ exec (.rcFieldRead req ⟨o, 4⟩) s = .next (s.emit (.readData 0)))
      ∧ (b = .RP → s.rpOf i = none → exec (.registerWrite req ⟨o, 4⟩ v) s = .next s
        ∧ exec (.rcFieldRead req ⟨o, 4⟩) s = .next (s.emit (.readData 0)))
      ∧ (s.reaches req b a off = true →
        (off = 0 → b ∉ [Block.RP, .PART, .PORT] → i ≠ 256 → exec (.rcFieldRead req ⟨o, 4⟩) s = .next (s.emit (.readData (blockId b i))))
        ∧ (∀ (r : Reg) (k f : Nat), b = .RP → s.rpOf i = some (k, f) → k ≠ 256 → regAt .RP off = some r →
          exec (.rcFieldRead req ⟨o, 4⟩) s = .next ((s.emit (.readData (s.regRead req r k))).clearRc r k)
          ∧ (r = .RP_CFG → exec (.registerWrite req ⟨o, 4⟩ v) s = .next (s.rpCfgWrite k (v.setWidth 32)))
          ∧ (r ∈ [Reg.RP_SQ_LO, .RP_SQ_HI, .RP_CQ_LO, .RP_CQ_HI, .RP_SIZE, .RP_SQ_HEAD, .RP_SQ_TAIL, .RP_CQ_TAIL, .RP_CQ_HEAD] →
            exec (.registerWrite req ⟨o, 4⟩ v) s = .next (if s.fnEnabled f then s.setFlag .FN_STATUS f 31
              else s.wr r k (r.write (s.rd r k) (v.setWidth 32))))
          ∧ (r ∈ [Reg.RP_COAL, .RP_STATUS] → exec (.registerWrite req ⟨o, 4⟩ v) s = .next (s.wr r k (r.write (s.rd r k) (v.setWidth 32)))))
        ∧ (∀ r : Reg, b = .FN → i ≠ 256 → off < 0x8000 → regAt .FN off = some r →
          exec (.registerWrite req ⟨o, 4⟩ v) s = .next (s.regWrite req r i (v.setWidth 32))
          ∧ (off ≠ 0 → off ≠ 4 → exec (.rcFieldRead req ⟨o, 4⟩) s = .next ((s.emit (.readData (s.regRead req r i))).clearRc r i)))
        ∧ (b = .FN → i ≠ 256 → off = 4 → exec (.rcFieldRead req ⟨o, 4⟩) s = .next (s.emit (.readData (s.rd .ARCH_VERSION 0))))
        ∧ (b = .FN → i ≠ 256 → 0x8000 ≤ off → off < 0x9000 →
          exec (.registerWrite req ⟨o, 4⟩ v) s = .next (s.msixWrite i off (v.setWidth 32))
          ∧ exec (.rcFieldRead req ⟨o, 4⟩) s = .next (s.emit (.readData (s.msixRead i off))))
        ∧ (b = .FN → i ≠ 256 → 0xC000 ≤ off → off < 0xC020 →
          exec (.rcFieldRead req ⟨o, 4⟩) s = .next (s.emit (.readData (s.msixRead i off))))))
  ∧ (∀ (s : State) (r : Reg) (i : Nat), ∀ f ∈ r.fields, (s.clearRc r i).fld r i f.hi f.lo = if f.acc = .rc then 0 else s.fld r i f.hi f.lo)
  ∧ (∀ (s : State) (r : Reg) (i k : Nat) (v : Word), k < 32 →
      ((s.wr r i (r.write (s.rd r i) v)).setFlag r i k).flag r i k = true)
  ∧ (∀ (s : State) (r : Reg) (i n : Nat), (∀ f ∈ r.fields, f.acc = .rc ∧ f.hi = 31 ∧ f.lo = 0) → r.fields ≠ [] →
      ((s.clearRc r i).countSat r i n).rd r i = BitVec.ofNat 32 (min n (2 ^ 32 - 1)))

/-- For every command and every state, exec answers a next state: no command stops the model. In it the queue of
waiting commands is as it was, every fuse position that counted as set counts as set, so the anti-rollback counter
never falls, and the device secrets are as they were. So a step of a queue with a command at its front answers a next
state whose queue is the rest, with the same of its fuses. -/
def Obligations.EveryCommandKeepsTheQueueAndTheFuses : Prop :=
  (∀ (c : Instr) (s : State), ∃ t, exec c s = .next t ∧ t.pending = s.pending ∧ (∀ k, s.fuseSet k = true → t.fuseSet k = true)
      ∧ s.svnCtr ≤ t.svnCtr ∧ t.chip.otp.uds = s.chip.otp.uds)
  ∧ (∀ (c : Instr) (cs : List Instr) (s : State), s.pending = c :: cs →
      ∃ t, step s = .next t ∧ t.pending = cs ∧ (∀ k, s.fuseSet k = true → t.fuseSet k = true) ∧ s.svnCtr ≤ t.svnCtr)

/-- If memory lists its bytes at strictly rising addresses and none equal to what an unlisted address reads as, then
so does the memory of every next state that a step answers. Equal memories are so equal data in every state that is
reached from one in this form. -/
def Obligations.EveryStepKeepsMemoryCanonical : Prop :=
  ∀ s s' : State, s.MemWf → step s = .next s' → s'.MemWf
end

