-- ==== Sys2Proof/Laws/Bits.lean ====
section
/-!
SUPPORT. Bits and fields of a word: what a write of a field leaves, bit by bit and field by field.
-/

namespace Sys2Proof.Machine

theorem testBit_bits {n : Nat} (w : BitVec n) (hi lo i : Nat) :
    (bits w hi lo).testBit i = (decide (i < hi + 1 - lo) && w.getLsbD (lo + i)) := by
  simp [bits, Nat.testBit_mod_two_pow, Nat.testBit_shiftRight, BitVec.getLsbD]

theorem bits_lt {n : Nat} (w : BitVec n) (hi lo : Nat) : bits w hi lo < 2 ^ (hi + 1 - lo) := Nat.mod_lt _ (Nat.two_pow_pos _)

/-- A number cut into the bits above a field, the field, and the bits below it. -/
theorem split_field (x hi lo : Nat) (h : lo ≤ hi) :
    x = 2 ^ lo * (2 ^ (hi + 1 - lo) * (x >>> (hi + 1)) + (x >>> lo) % 2 ^ (hi + 1 - lo)) + x % 2 ^ lo := by
  have e : x >>> (hi + 1) = (x >>> lo) >>> (hi + 1 - lo) := by
    rw [← Nat.shiftRight_add]; congr 1; omega
  rw [e, Nat.shiftRight_eq_div_pow (x >>> lo), Nat.div_add_mod, Nat.shiftRight_eq_div_pow, Nat.div_add_mod]

@[simp] theorem getLsbD_setBits {n : Nat} (w : BitVec n) (hi lo v i : Nat) (h : lo ≤ hi) :
    (setBits w hi lo v).getLsbD i
      = (decide (i < n) && if lo ≤ i ∧ i ≤ hi then v.testBit (i - lo) else w.getLsbD i) := by
  have hs := split_field w.toNat hi lo h
  have hv : 2 ^ lo * (v % 2 ^ (hi + 1 - lo)) + (w.toNat - 2 ^ lo * ((w.toNat >>> lo) % 2 ^ (hi + 1 - lo)))
      = 2 ^ lo * (2 ^ (hi + 1 - lo) * (w.toNat >>> (hi + 1)) + v % 2 ^ (hi + 1 - lo)) + w.toNat % 2 ^ lo := by
    generalize w.toNat >>> (hi + 1) = a at *
    generalize (w.toNat >>> lo) % 2 ^ (hi + 1 - lo) = b at *
    generalize w.toNat % 2 ^ lo = c at *
    rw [hs, Nat.mul_add, Nat.mul_add]
    omega
  simp only [setBits, BitVec.getLsbD_ofNat]
  rw [hv, Nat.testBit_two_pow_mul_add _ (Nat.mod_lt _ (Nat.two_pow_pos _))]
  congr 1
  by_cases h1 : i < lo
  · have : ¬(lo ≤ i ∧ i ≤ hi) := by omega
    simp [h1, this, Nat.testBit_mod_two_pow, BitVec.getLsbD]
  · rw [if_neg h1, Nat.testBit_two_pow_mul_add _ (Nat.mod_lt _ (Nat.two_pow_pos _))]
    by_cases h2 : i ≤ hi
    · have a : i - lo < hi + 1 - lo := by omega
      have b : lo ≤ i ∧ i ≤ hi := by omega
      simp [a, b, Nat.testBit_mod_two_pow]
    · have a : ¬(i - lo < hi + 1 - lo) := by omega
      have b : ¬(lo ≤ i ∧ i ≤ hi) := by omega
      have c : hi + 1 + (i - lo - (hi + 1 - lo)) = i := by omega
      simp [a, b, Nat.testBit_shiftRight, c, BitVec.getLsbD]

/-- The field that a write names. -/
@[simp] theorem bits_setBits {n : Nat} (w : BitVec n) (hi lo v : Nat) (h : lo ≤ hi) (hn : hi < n) :
    bits (setBits w hi lo v) hi lo = v % 2 ^ (hi + 1 - lo) := by
  apply Nat.eq_of_testBit_eq
  intro i
  rw [testBit_bits, Nat.testBit_mod_two_pow, getLsbD_setBits _ _ _ _ _ h]
  by_cases hi' : i < hi + 1 - lo
  · have a : lo + i < n := by omega
    have b : lo + i ≤ hi := by omega
    simp [hi', a, b]
  · simp [hi']

/-- A field beside the one that a write names. -/
theorem bits_setBits_disj {n : Nat} (w : BitVec n) (hi lo v hi' lo' : Nat) (h : lo ≤ hi) (hd : hi < lo' ∨ hi' < lo) :
    bits (setBits w hi lo v) hi' lo' = bits w hi' lo' := by
  apply Nat.eq_of_testBit_eq
  intro i
  rw [testBit_bits, testBit_bits, getLsbD_setBits _ _ _ _ _ h]
  by_cases hi1 : i < hi' + 1 - lo'
  · have a : ¬(lo ≤ lo' + i ∧ lo' + i ≤ hi) := by omega
    simp only [a, if_false]
    by_cases hn : lo' + i < n
    · simp [hn]
    · simp [hn, BitVec.getLsbD_of_ge _ _ (Nat.le_of_not_lt hn)]
  · simp [hi1]

theorem bit_setBits {n : Nat} (w : BitVec n) (hi lo v i : Nat) (h : lo ≤ hi) (hn : i < n) :
    bit (setBits w hi lo v) i = if lo ≤ i ∧ i ≤ hi then v.testBit (i - lo) else bit w i := by
  rw [bit, getLsbD_setBits _ _ _ _ _ h, decide_eq_true hn, Bool.true_and, bit]

@[simp] theorem bit_setBit {n : Nat} (w : BitVec n) (i j : Nat) (hn : j < n) :
    bit (setBit w i) j = if i = j then true else bit w j := by
  rw [setBit, bit_setBits _ _ _ _ _ (Nat.le_refl i) hn]
  by_cases h : i = j
  · subst h; simp
  · have : ¬(i ≤ j ∧ j ≤ i) := by omega
    simp [h, this]

/-- A bit below a field, or above it, is no part of it. -/
theorem bits_setBit_disj {n : Nat} (w : BitVec n) (i hi lo : Nat) (hd : i < lo ∨ hi < i) :
    bits (setBit w i) hi lo = bits w hi lo :=
  bits_setBits_disj w i i 1 hi lo (Nat.le_refl i) hd

theorem bits_ofNat {n : Nat} (x hi lo : Nat) (hn : hi < n) : bits (BitVec.ofNat n x) hi lo = (x >>> lo) % 2 ^ (hi + 1 - lo) := by
  apply Nat.eq_of_testBit_eq
  intro i
  rw [testBit_bits, Nat.testBit_mod_two_pow, Nat.testBit_shiftRight, BitVec.getLsbD_ofNat]
  by_cases h : i < hi + 1 - lo
  · have a : lo + i < n := by omega
    simp [h, a]
  · simp [h]

end Sys2Proof.Machine
end

