-- ==== Sys2Proof/Laws/Store.lean ====
section
/-!
SUPPORT. What the sparse maps do: a read after a write, and the canonical form that every operation on memory keeps.
-/

namespace Sys2Proof.Machine

namespace SMap

variable {α : Type} {d : α}

theorem get_erase (m : SMap α) (k j : Nat) : get d (erase m k) j = if j = k then d else get d m j := by
  induction m with
  | nil => simp [erase, get]
  | cons x m ih =>
    obtain ⟨i, w⟩ := x
    simp only [erase] at ih ⊢
    by_cases h : i = k
    · subst h
      simp only [List.filter_cons, ne_eq, not_true_eq_false, decide_false, Bool.false_eq_true, if_false, ih, get]
      by_cases hj : j = i
      · simp [hj]
      · simp [hj, Ne.symm hj]
    · simp only [List.filter_cons, ne_eq, h, not_false_eq_true, decide_true, if_true, get, ih]
      by_cases hi : i = j
      · subst hi; simp [h]
      · simp [hi]

theorem get_insert (m : SMap α) (k j : Nat) (v : α) (hk : ∀ x ∈ m, x.1 ≠ k) :
    get d (insert m k v) j = if j = k then v else get d m j := by
  induction m with
  | nil =>
    simp only [insert, get]
    by_cases h : k = j
    · simp [h]
    · simp [h, Ne.symm h]
  | cons x m ih =>
    obtain ⟨i, w⟩ := x
    have hi : i ≠ k := hk (i, w) (by simp)
    have ih := ih fun x hx => hk x (by simp [hx])
    simp only [insert]
    split
    · simp only [get]
      by_cases h : k = j
      · simp [h]
      · simp [h, Ne.symm h]
    · simp only [get, ih]
      by_cases h : i = j
      · subst h; simp [hi]
      · simp [h]

theorem erase_no (m : SMap α) (k : Nat) : ∀ x ∈ erase m k, x.1 ≠ k := by
  intro x hx
  simpa using (List.mem_filter.1 hx).2

/-- A read after a write. -/
theorem get_set [DecidableEq α] (m : SMap α) (k j : Nat) (v : α) :
    get d (set d m k v) j = if j = k then v else get d m j := by
  unfold set
  split
  · rename_i h; rw [get_erase, h]
  · rw [get_insert _ _ _ _ (erase_no m k), get_erase]
    by_cases h : j = k <;> simp [h]

@[simp] theorem get_set_self [DecidableEq α] (m : SMap α) (k : Nat) (v : α) : get d (set d m k v) k = v := by
  simp [get_set]

theorem get_set_ne [DecidableEq α] (m : SMap α) {k j : Nat} (v : α) (h : j ≠ k) :
    get d (set d m k v) j = get d m j := by
  simp [get_set, h]

@[simp] theorem get_nil (k : Nat) : get d ([] : SMap α) k = d := rfl

/-! The canonical form. -/

/-- The canonical form as a proposition: keys at least `lo`, rising, and no entry equal to `d`. -/
theorem wfFrom_cons [DecidableEq α] (lo j : Nat) (w : α) (m : SMap α) :
    wfFrom d lo ((j, w) :: m) = true ↔ lo ≤ j ∧ w ≠ d ∧ wfFrom d (j + 1) m = true := by
  simp [wfFrom, and_assoc]

theorem wfFrom_mono [DecidableEq α] {lo lo' : Nat} (h : lo' ≤ lo) (m : SMap α) (hm : wfFrom d lo m = true) :
    wfFrom d lo' m = true := by
  cases m with
  | nil => rfl
  | cons x m =>
    obtain ⟨j, w⟩ := x
    rw [wfFrom_cons] at hm ⊢
    exact ⟨Nat.le_trans h hm.1, hm.2⟩

theorem wfFrom_filter [DecidableEq α] (p : Nat × α → Bool) (lo : Nat) (m : SMap α) (hm : wfFrom d lo m = true) :
    wfFrom d lo (m.filter p) = true := by
  induction m generalizing lo with
  | nil => rfl
  | cons x m ih =>
    obtain ⟨j, w⟩ := x
    rw [wfFrom_cons] at hm
    rw [List.filter_cons]
    split
    · rw [wfFrom_cons]
      exact ⟨hm.1, hm.2.1, ih _ hm.2.2⟩
    · exact wfFrom_mono (Nat.le_succ_of_le hm.1) _ (ih _ hm.2.2)

theorem wfFrom_insert [DecidableEq α] (lo k : Nat) (v : α) (m : SMap α) (hm : wfFrom d lo m = true) (hv : v ≠ d)
    (hk : ∀ x ∈ m, x.1 ≠ k) (hlo : lo ≤ k) : wfFrom d lo (insert m k v) = true := by
  induction m generalizing lo with
  | nil => simp [insert, wfFrom, hv, hlo]
  | cons x m ih =>
    obtain ⟨j, w⟩ := x
    rw [wfFrom_cons] at hm
    simp only [insert]
    split
    · rename_i h
      rw [wfFrom_cons, wfFrom_cons]
      exact ⟨hlo, hv, h, hm.2.1, hm.2.2⟩
    · rename_i h
      have hj : j ≠ k := hk (j, w) (by simp)
      rw [wfFrom_cons]
      exact ⟨hm.1, hm.2.1, ih _ hm.2.2 (fun x hx => hk x (by simp [hx])) (by omega)⟩

theorem wf_filter [DecidableEq α] (p : Nat × α → Bool) (m : SMap α) (hm : wf d m = true) : wf d (m.filter p) = true :=
  wfFrom_filter p 0 m hm

/-- A write keeps the canonical form. -/
theorem wf_set [DecidableEq α] (m : SMap α) (k : Nat) (v : α) (hm : wf d m = true) : wf d (set d m k v) = true := by
  unfold set
  split
  · exact wf_filter _ _ hm
  · rename_i h
    exact wfFrom_insert 0 k v _ (wf_filter _ _ hm) h (erase_no m k) (Nat.zero_le _)

/-- Entries of a canonical map lie at or above its bound. -/
theorem le_of_wfFrom [DecidableEq α] {lo : Nat} {m : SMap α} (hm : wfFrom d lo m = true) : ∀ x ∈ m, lo ≤ x.1 := by
  induction m generalizing lo with
  | nil => simp
  | cons y m ih =>
    obtain ⟨j, w⟩ := y
    rw [wfFrom_cons] at hm
    intro x hx
    rcases List.mem_cons.1 hx with rfl | hx
    · exact hm.1
    · have := ih hm.2.2 x hx; omega

/-- Two canonical maps, the first below a bound and the second from it, are canonical together. -/
theorem wfFrom_append [DecidableEq α] {lo mid : Nat} {a b : SMap α} (ha : wfFrom d lo a = true)
    (hb : wfFrom d mid b = true) (hlt : ∀ x ∈ a, x.1 < mid) (hlo : lo ≤ mid) : wfFrom d lo (a ++ b) = true := by
  induction a generalizing lo with
  | nil => exact wfFrom_mono hlo _ hb
  | cons y a ih =>
    obtain ⟨j, w⟩ := y
    rw [wfFrom_cons] at ha
    rw [List.cons_append, wfFrom_cons]
    have hj : j < mid := hlt (j, w) (by simp)
    exact ⟨ha.1, ha.2.1, ih ha.2.2 (fun x hx => hlt x (by simp [hx])) hj⟩

theorem wfFrom_filter_ge [DecidableEq α] {lo hi : Nat} {m : SMap α} (hm : wfFrom d lo m = true) (p : Nat × α → Bool)
    (hp : ∀ x, p x = true → hi ≤ x.1) : wfFrom d hi (m.filter p) = true := by
  induction m generalizing lo with
  | nil => rfl
  | cons x m ih =>
    obtain ⟨j, w⟩ := x
    rw [wfFrom_cons] at hm
    rw [List.filter_cons]
    split
    · rename_i h
      rw [wfFrom_cons]
      exact ⟨hp _ h, hm.2.1, wfFrom_filter _ _ _ hm.2.2⟩
    · exact ih hm.2.2

end SMap

namespace Memory

@[simp] theorem rd_wr (m : Memory) (a b : Nat) (v : Byte) : (m.wr a v).rd b = if b = a then v else m.rd b :=
  SMap.get_set m a b v

theorem wf_wr (m : Memory) (a : Nat) (v : Byte) (h : m.wf = true) : (m.wr a v).wf = true := SMap.wf_set m a v h

theorem wf_wrN (m : Memory) (a : Nat) (bs : List Byte) (h : m.wf = true) : (m.wrN a bs).wf = true := by
  induction bs generalizing m a with
  | nil => exact h
  | cons b bs ih => exact ih _ _ (wf_wr m a b h)

theorem wf_wr32 (m : Memory) (a : Nat) (w : BitVec 32) (h : m.wf = true) : (m.wr32 a w).wf = true := wf_wrN _ _ _ h

theorem wf_wr64 (m : Memory) (a : Nat) (w : BitVec 64) (h : m.wf = true) : (m.wr64 a w).wf = true := wf_wrN _ _ _ h

theorem wf_zero (m : Memory) (a n : Nat) (h : m.wf = true) : (m.zero a n).wf = true := SMap.wf_filter _ _ h

/-- Every byte outside the written ones reads as before; the written ones read as the bytes written. -/
theorem rd_wrN (m : Memory) (a b : Nat) (bs : List Byte) :
    (m.wrN a bs).rd b = if a ≤ b ∧ b < a + bs.length then bs.getD (b - a) 0 else m.rd b := by
  induction bs generalizing m a with
  | nil =>
    have h : ¬(a ≤ b ∧ b < a + 0) := by omega
    simp only [wrN, List.length_nil, if_neg h]
  | cons x bs ih =>
    rw [wrN, ih, rd_wr]
    by_cases h1 : b = a
    · subst h1
      rw [if_neg (by omega), if_pos rfl, if_pos (by simp only [List.length_cons]; omega)]
      simp only [Nat.sub_self, List.getD_cons_zero]
    · by_cases h2 : a + 1 ≤ b ∧ b < a + 1 + bs.length
      · rw [if_pos h2, if_pos (by simp; omega)]
        have : b - a = (b - (a + 1)) + 1 := by omega
        rw [this]; simp
      · rw [if_neg h2, if_neg h1, if_neg (by simp; omega)]

theorem rd_wrN_out (m : Memory) {a b : Nat} (bs : List Byte) (h : b < a ∨ a + bs.length ≤ b) :
    (m.wrN a bs).rd b = m.rd b := by
  rw [rd_wrN, if_neg (by omega)]

theorem rd_filter (m : Memory) (p : Nat → Bool) (b : Nat) :
    Memory.rd (m.filter fun x => p x.1) b = if p b then m.rd b else 0 := by
  induction m with
  | nil => simp [rd, SMap.get]
  | cons x m ih =>
    obtain ⟨j, w⟩ := x
    simp only [rd] at ih ⊢
    rw [List.filter_cons]
    by_cases hj : j = b
    · subst hj
      split
      · rename_i h; simp [SMap.get]
      · rename_i h; rw [ih]; simp [h]
    · split
      · simp only [SMap.get, hj, if_false, ih]
      · simp only [SMap.get, hj, if_false, ih]

theorem rd_zero (m : Memory) (a n b : Nat) : (m.zero a n).rd b = if b < a ∨ a + n ≤ b then m.rd b else 0 := by
  unfold zero
  rw [rd_filter m (fun x => decide (x < a) || decide (a + n ≤ x))]
  simp

/-- Three pieces of a memory that lie one after the other are canonical together. -/
theorem wf_three {x y z : Memory} {p q : Nat} (hx : x.wf = true) (hy : SMap.wfFrom (0 : Byte) p y = true)
    (hz : SMap.wfFrom (0 : Byte) q z = true) (h1 : ∀ e ∈ x, e.1 < p) (h2 : ∀ e ∈ y, e.1 < q) (hpq : p ≤ q) :
    Memory.wf (x ++ y ++ z) = true := by
  rw [List.append_assoc]
  exact SMap.wfFrom_append hx (SMap.wfFrom_append hy hz h2 hpq) h1 (Nat.zero_le p)

theorem wfFrom_shift (m : Memory) (lo src dst : Nat) (hs : src ≤ lo) (hm : SMap.wfFrom (0 : Byte) lo m = true) :
    SMap.wfFrom (0 : Byte) (lo - src + dst) (m.map fun x => (x.1 - src + dst, x.2)) = true := by
  induction m generalizing lo with
  | nil => rfl
  | cons x m ih =>
    obtain ⟨j, w⟩ := x
    rw [SMap.wfFrom_cons] at hm
    rw [List.map_cons, SMap.wfFrom_cons]
    refine ⟨by omega, hm.2.1, ?_⟩
    have := ih (j + 1) (by omega) hm.2.2
    have e : j + 1 - src + dst = j - src + dst + 1 := by omega
    rwa [e] at this

/-- Copying a range from one canonical memory into another keeps the canonical form. -/
theorem wf_copyInto (m old : Memory) (src dst n : Nat) (hm : m.wf = true) (ho : old.wf = true) :
    (m.copyInto old src dst n).wf = true := by
  unfold copyInto
  have hmid : SMap.wfFrom (0 : Byte) src (old.filter fun x => decide (src ≤ x.1) && decide (x.1 < src + n)) = true :=
    SMap.wfFrom_filter_ge ho _ (by intro x hx; simp at hx; exact hx.1)
  have hs := wfFrom_shift _ src src dst (Nat.le_refl _) hmid
  rw [Nat.sub_self, Nat.zero_add] at hs
  refine wf_three (p := dst) (q := dst + n) (SMap.wf_filter _ _ hm) hs (SMap.wfFrom_filter_ge hm _ (by simp)) ?_ ?_
    (Nat.le_add_right _ _)
  · intro e he; simpa using (List.mem_filter.1 he).2
  · intro e he
    obtain ⟨x, hx, rfl⟩ := List.mem_map.1 he
    have := (List.mem_filter.1 hx).2
    simp at this
    simp; omega

/-! Ranges of bytes. -/

theorem rdN_eq (m : Memory) (a n : Nat) : m.rdN a n = (List.range n).map fun k => m.rd (a + k) := by
  induction n generalizing a with
  | zero => rfl
  | succ n ih =>
    rw [rdN, ih, List.range_succ_eq_map]
    simp [Function.comp_def, Nat.add_assoc, Nat.add_comm 1]

@[simp] theorem length_rdN (m : Memory) (a n : Nat) : (m.rdN a n).length = n := by simp [rdN_eq]

theorem take_rdN (m : Memory) (a : Nat) {k n : Nat} (h : k ≤ n) : (m.rdN a n).take k = m.rdN a k := by
  rw [rdN_eq, rdN_eq, ← List.map_take, List.take_range, Nat.min_eq_left h]

/-- What was written is read back. -/
theorem rdN_wrN (m : Memory) (a : Nat) (bs : List Byte) : (m.wrN a bs).rdN a bs.length = bs := by
  rw [rdN_eq]
  apply List.ext_getElem (by simp)
  intro i h1 h2
  simp [rd_wrN, h2]

/-- A range that a write does not meet is read as before. -/
theorem rdN_wrN_out (m : Memory) {a b n : Nat} (bs : List Byte) (h : b + n ≤ a ∨ a + bs.length ≤ b) :
    (m.wrN a bs).rdN b n = m.rdN b n := by
  rw [rdN_eq, rdN_eq]
  refine List.map_congr_left fun k hk => rd_wrN_out m bs ?_
  rw [List.mem_range] at hk
  omega

end Memory

end Sys2Proof.Machine
end

