-- ==== Sys2Proof/Laws/State.lean ====
section
/-!
SUPPORT. What each update of State leaves: one lemma per field and update, and the reads after a write.
-/

namespace Sys2Proof.Machine

/-! Registers have keys of their own. -/

theorem Reg.ctorIdx_lt (r : Reg) : r.ctorIdx < 512 := by cases r <;> decide

theorem Reg.ctorIdx_inj {r r' : Reg} (h : r.ctorIdx = r'.ctorIdx) : r = r' := by
  rw [← Reg.ofNat_ctorIdx r, ← Reg.ofNat_ctorIdx r', h]

theorem Reg.key_inj {r r' : Reg} {i j : Nat} (h : r.key i = r'.key j) : r = r' ∧ i = j := by
  have a := r.ctorIdx_lt
  have b := r'.ctorIdx_lt
  unfold Reg.key at h
  exact ⟨Reg.ctorIdx_inj (by omega), by omega⟩

/-- A write under one default leaves what other keys hold, read under any default. -/
theorem SMap.get_set_other {α : Type} [DecidableEq α] {d d' : α} (m : SMap α) (k j : Nat) (v : α) (h : j ≠ k) :
    SMap.get d' (SMap.set d m k v) j = SMap.get d' m j := by
  unfold SMap.set
  split
  · simp [SMap.get_erase, h]
  · rw [SMap.get_insert _ _ _ _ (SMap.erase_no m k)]
    simp [SMap.get_erase, h]

namespace State

variable (s : State)

/-! The fields that an update leaves alone. -/

@[simp] theorem setCore_regs (i : Nat) (x : Core) : (s.setCore i x).regs = s.regs := rfl
@[simp] theorem setCore_regsM (i : Nat) (x : Core) : (s.setCore i x).regsM = s.regsM := rfl
@[simp] theorem setCore_mem (i : Nat) (x : Core) : (s.setCore i x).mem = s.mem := rfl
@[simp] theorem setCore_hostMem (i : Nat) (x : Core) : (s.setCore i x).hostMem = s.hostMem := rfl
@[simp] theorem setCore_clusters (i : Nat) (x : Core) : (s.setCore i x).clusters = s.clusters := rfl
@[simp] theorem setCore_dies (i : Nat) (x : Core) : (s.setCore i x).dies = s.dies := rfl
@[simp] theorem setCore_ctrls (i : Nat) (x : Core) : (s.setCore i x).ctrls = s.ctrls := rfl
@[simp] theorem setCore_parts (i : Nat) (x : Core) : (s.setCore i x).parts = s.parts := rfl
@[simp] theorem setCore_fab (i : Nat) (x : Core) : (s.setCore i x).fab = s.fab := rfl
@[simp] theorem setCore_snap (i : Nat) (x : Core) : (s.setCore i x).snap = s.snap := rfl
@[simp] theorem setCore_recov (i : Nat) (x : Core) : (s.setCore i x).recov = s.recov := rfl
@[simp] theorem setCore_hif (i : Nat) (x : Core) : (s.setCore i x).hif = s.hif := rfl
@[simp] theorem setCore_chip (i : Nat) (x : Core) : (s.setCore i x).chip = s.chip := rfl
@[simp] theorem setCore_nw (i : Nat) (x : Core) : (s.setCore i x).nw = s.nw := rfl
@[simp] theorem setCore_nwLoaded (i : Nat) (x : Core) : (s.setCore i x).nwLoaded = s.nwLoaded := rfl
@[simp] theorem setCore_nwSeen (i : Nat) (x : Core) : (s.setCore i x).nwSeen = s.nwSeen := rfl
@[simp] theorem setCore_nwQ (i : Nat) (x : Core) : (s.setCore i x).nwQ = s.nwQ := rfl
@[simp] theorem setCore_hostWins (i : Nat) (x : Core) : (s.setCore i x).hostWins = s.hostWins := rfl
@[simp] theorem setCore_wcopies (i : Nat) (x : Core) : (s.setCore i x).wcopies = s.wcopies := rfl
@[simp] theorem setCore_fresh (i : Nat) (x : Core) : (s.setCore i x).fresh = s.fresh := rfl
@[simp] theorem setCore_out (i : Nat) (x : Core) : (s.setCore i x).out = s.out := rfl
@[simp] theorem setCore_pending (i : Nat) (x : Core) : (s.setCore i x).pending = s.pending := rfl

@[simp] theorem modCore_regs (i : Nat) (f : Core → Core) : (s.modCore i f).regs = s.regs := rfl
@[simp] theorem modCore_regsM (i : Nat) (f : Core → Core) : (s.modCore i f).regsM = s.regsM := rfl
@[simp] theorem modCore_mem (i : Nat) (f : Core → Core) : (s.modCore i f).mem = s.mem := rfl
@[simp] theorem modCore_hostMem (i : Nat) (f : Core → Core) : (s.modCore i f).hostMem = s.hostMem := rfl
@[simp] theorem modCore_clusters (i : Nat) (f : Core → Core) : (s.modCore i f).clusters = s.clusters := rfl
@[simp] theorem modCore_dies (i : Nat) (f : Core → Core) : (s.modCore i f).dies = s.dies := rfl
@[simp] theorem modCore_ctrls (i : Nat) (f : Core → Core) : (s.modCore i f).ctrls = s.ctrls := rfl
@[simp] theorem modCore_parts (i : Nat) (f : Core → Core) : (s.modCore i f).parts = s.parts := rfl
@[simp] theorem modCore_fab (i : Nat) (f : Core → Core) : (s.modCore i f).fab = s.fab := rfl
@[simp] theorem modCore_snap (i : Nat) (f : Core → Core) : (s.modCore i f).snap = s.snap := rfl
@[simp] theorem modCore_recov (i : Nat) (f : Core → Core) : (s.modCore i f).recov = s.recov := rfl
@[simp] theorem modCore_hif (i : Nat) (f : Core → Core) : (s.modCore i f).hif = s.hif := rfl
@[simp] theorem modCore_chip (i : Nat) (f : Core → Core) : (s.modCore i f).chip = s.chip := rfl
@[simp] theorem modCore_nw (i : Nat) (f : Core → Core) : (s.modCore i f).nw = s.nw := rfl
@[simp] theorem modCore_nwLoaded (i : Nat) (f : Core → Core) : (s.modCore i f).nwLoaded = s.nwLoaded := rfl
@[simp] theorem modCore_nwSeen (i : Nat) (f : Core → Core) : (s.modCore i f).nwSeen = s.nwSeen := rfl
@[simp] theorem modCore_nwQ (i : Nat) (f : Core → Core) : (s.modCore i f).nwQ = s.nwQ := rfl
@[simp] theorem modCore_hostWins (i : Nat) (f : Core → Core) : (s.modCore i f).hostWins = s.hostWins := rfl
@[simp] theorem modCore_wcopies (i : Nat) (f : Core → Core) : (s.modCore i f).wcopies = s.wcopies := rfl
@[simp] theorem modCore_fresh (i : Nat) (f : Core → Core) : (s.modCore i f).fresh = s.fresh := rfl
@[simp] theorem modCore_out (i : Nat) (f : Core → Core) : (s.modCore i f).out = s.out := rfl
@[simp] theorem modCore_pending (i : Nat) (f : Core → Core) : (s.modCore i f).pending = s.pending := rfl

@[simp] theorem setCluster_regs (i : Nat) (x : Cluster) : (s.setCluster i x).regs = s.regs := rfl
@[simp] theorem setCluster_regsM (i : Nat) (x : Cluster) : (s.setCluster i x).regsM = s.regsM := rfl
@[simp] theorem setCluster_mem (i : Nat) (x : Cluster) : (s.setCluster i x).mem = s.mem := rfl
@[simp] theorem setCluster_hostMem (i : Nat) (x : Cluster) : (s.setCluster i x).hostMem = s.hostMem := rfl
@[simp] theorem setCluster_cores (i : Nat) (x : Cluster) : (s.setCluster i x).cores = s.cores := rfl
@[simp] theorem setCluster_dies (i : Nat) (x : Cluster) : (s.setCluster i x).dies = s.dies := rfl
@[simp] theorem setCluster_ctrls (i : Nat) (x : Cluster) : (s.setCluster i x).ctrls = s.ctrls := rfl
@[simp] theorem setCluster_parts (i : Nat) (x : Cluster) : (s.setCluster i x).parts = s.parts := rfl
@[simp] theorem setCluster_fab (i : Nat) (x : Cluster) : (s.setCluster i x).fab = s.fab := rfl
@[simp] theorem setCluster_snap (i : Nat) (x : Cluster) : (s.setCluster i x).snap = s.snap := rfl
@[simp] theorem setCluster_recov (i : Nat) (x : Cluster) : (s.setCluster i x).recov = s.recov := rfl
@[simp] theorem setCluster_hif (i : Nat) (x : Cluster) : (s.setCluster i x).hif = s.hif := rfl
@[simp] theorem setCluster_chip (i : Nat) (x : Cluster) : (s.setCluster i x).chip = s.chip := rfl
@[simp] theorem setCluster_nw (i : Nat) (x : Cluster) : (s.setCluster i x).nw = s.nw := rfl
@[simp] theorem setCluster_nwLoaded (i : Nat) (x : Cluster) : (s.setCluster i x).nwLoaded = s.nwLoaded := rfl
@[simp] theorem setCluster_nwSeen (i : Nat) (x : Cluster) : (s.setCluster i x).nwSeen = s.nwSeen := rfl
@[simp] theorem setCluster_nwQ (i : Nat) (x : Cluster) : (s.setCluster i x).nwQ = s.nwQ := rfl
@[simp] theorem setCluster_hostWins (i : Nat) (x : Cluster) : (s.setCluster i x).hostWins = s.hostWins := rfl
@[simp] theorem setCluster_wcopies (i : Nat) (x : Cluster) : (s.setCluster i x).wcopies = s.wcopies := rfl
@[simp] theorem setCluster_fresh (i : Nat) (x : Cluster) : (s.setCluster i x).fresh = s.fresh := rfl
@[simp] theorem setCluster_out (i : Nat) (x : Cluster) : (s.setCluster i x).out = s.out := rfl
@[simp] theorem setCluster_pending (i : Nat) (x : Cluster) : (s.setCluster i x).pending = s.pending := rfl

@[simp] theorem modCluster_regs (i : Nat) (f : Cluster → Cluster) : (s.modCluster i f).regs = s.regs := rfl
@[simp] theorem modCluster_regsM (i : Nat) (f : Cluster → Cluster) : (s.modCluster i f).regsM = s.regsM := rfl
@[simp] theorem modCluster_mem (i : Nat) (f : Cluster → Cluster) : (s.modCluster i f).mem = s.mem := rfl
@[simp] theorem modCluster_hostMem (i : Nat) (f : Cluster → Cluster) : (s.modCluster i f).hostMem = s.hostMem := rfl
@[simp] theorem modCluster_cores (i : Nat) (f : Cluster → Cluster) : (s.modCluster i f).cores = s.cores := rfl
@[simp] theorem modCluster_dies (i : Nat) (f : Cluster → Cluster) : (s.modCluster i f).dies = s.dies := rfl
@[simp] theorem modCluster_ctrls (i : Nat) (f : Cluster → Cluster) : (s.modCluster i f).ctrls = s.ctrls := rfl
@[simp] theorem modCluster_parts (i : Nat) (f : Cluster → Cluster) : (s.modCluster i f).parts = s.parts := rfl
@[simp] theorem modCluster_fab (i : Nat) (f : Cluster → Cluster) : (s.modCluster i f).fab = s.fab := rfl
@[simp] theorem modCluster_snap (i : Nat) (f : Cluster → Cluster) : (s.modCluster i f).snap = s.snap := rfl
@[simp] theorem modCluster_recov (i : Nat) (f : Cluster → Cluster) : (s.modCluster i f).recov = s.recov := rfl
@[simp] theorem modCluster_hif (i : Nat) (f : Cluster → Cluster) : (s.modCluster i f).hif = s.hif := rfl
@[simp] theorem modCluster_chip (i : Nat) (f : Cluster → Cluster) : (s.modCluster i f).chip = s.chip := rfl
@[simp] theorem modCluster_nw (i : Nat) (f : Cluster → Cluster) : (s.modCluster i f).nw = s.nw := rfl
@[simp] theorem modCluster_nwLoaded (i : Nat) (f : Cluster → Cluster) : (s.modCluster i f).nwLoaded = s.nwLoaded := rfl
@[simp] theorem modCluster_nwSeen (i : Nat) (f : Cluster → Cluster) : (s.modCluster i f).nwSeen = s.nwSeen := rfl
@[simp] theorem modCluster_nwQ (i : Nat) (f : Cluster → Cluster) : (s.modCluster i f).nwQ = s.nwQ := rfl
@[simp] theorem modCluster_hostWins (i : Nat) (f : Cluster → Cluster) : (s.modCluster i f).hostWins = s.hostWins := rfl
@[simp] theorem modCluster_wcopies (i : Nat) (f : Cluster → Cluster) : (s.modCluster i f).wcopies = s.wcopies := rfl
@[simp] theorem modCluster_fresh (i : Nat) (f : Cluster → Cluster) : (s.modCluster i f).fresh = s.fresh := rfl
@[simp] theorem modCluster_out (i : Nat) (f : Cluster → Cluster) : (s.modCluster i f).out = s.out := rfl
@[simp] theorem modCluster_pending (i : Nat) (f : Cluster → Cluster) : (s.modCluster i f).pending = s.pending := rfl

@[simp] theorem modChn_regs (i : Nat) (f : Chanter → Chanter) : (s.modChn i f).regs = s.regs := rfl
@[simp] theorem modChn_regsM (i : Nat) (f : Chanter → Chanter) : (s.modChn i f).regsM = s.regsM := rfl
@[simp] theorem modChn_mem (i : Nat) (f : Chanter → Chanter) : (s.modChn i f).mem = s.mem := rfl
@[simp] theorem modChn_hostMem (i : Nat) (f : Chanter → Chanter) : (s.modChn i f).hostMem = s.hostMem := rfl
@[simp] theorem modChn_cores (i : Nat) (f : Chanter → Chanter) : (s.modChn i f).cores = s.cores := rfl
@[simp] theorem modChn_dies (i : Nat) (f : Chanter → Chanter) : (s.modChn i f).dies = s.dies := rfl
@[simp] theorem modChn_ctrls (i : Nat) (f : Chanter → Chanter) : (s.modChn i f).ctrls = s.ctrls := rfl
@[simp] theorem modChn_parts (i : Nat) (f : Chanter → Chanter) : (s.modChn i f).parts = s.parts := rfl
@[simp] theorem modChn_fab (i : Nat) (f : Chanter → Chanter) : (s.modChn i f).fab = s.fab := rfl
@[simp] theorem modChn_snap (i : Nat) (f : Chanter → Chanter) : (s.modChn i f).snap = s.snap := rfl
@[simp] theorem modChn_recov (i : Nat) (f : Chanter → Chanter) : (s.modChn i f).recov = s.recov := rfl
@[simp] theorem modChn_hif (i : Nat) (f : Chanter → Chanter) : (s.modChn i f).hif = s.hif := rfl
@[simp] theorem modChn_chip (i : Nat) (f : Chanter → Chanter) : (s.modChn i f).chip = s.chip := rfl
@[simp] theorem modChn_nw (i : Nat) (f : Chanter → Chanter) : (s.modChn i f).nw = s.nw := rfl
@[simp] theorem modChn_nwLoaded (i : Nat) (f : Chanter → Chanter) : (s.modChn i f).nwLoaded = s.nwLoaded := rfl
@[simp] theorem modChn_nwSeen (i : Nat) (f : Chanter → Chanter) : (s.modChn i f).nwSeen = s.nwSeen := rfl
@[simp] theorem modChn_nwQ (i : Nat) (f : Chanter → Chanter) : (s.modChn i f).nwQ = s.nwQ := rfl
@[simp] theorem modChn_hostWins (i : Nat) (f : Chanter → Chanter) : (s.modChn i f).hostWins = s.hostWins := rfl
@[simp] theorem modChn_wcopies (i : Nat) (f : Chanter → Chanter) : (s.modChn i f).wcopies = s.wcopies := rfl
@[simp] theorem modChn_fresh (i : Nat) (f : Chanter → Chanter) : (s.modChn i f).fresh = s.fresh := rfl
@[simp] theorem modChn_out (i : Nat) (f : Chanter → Chanter) : (s.modChn i f).out = s.out := rfl
@[simp] theorem modChn_pending (i : Nat) (f : Chanter → Chanter) : (s.modChn i f).pending = s.pending := rfl

@[simp] theorem modKv_regs (i : Nat) (f : Halyard → Halyard) : (s.modKv i f).regs = s.regs := rfl
@[simp] theorem modKv_regsM (i : Nat) (f : Halyard → Halyard) : (s.modKv i f).regsM = s.regsM := rfl
@[simp] theorem modKv_mem (i : Nat) (f : Halyard → Halyard) : (s.modKv i f).mem = s.mem := rfl
@[simp] theorem modKv_hostMem (i : Nat) (f : Halyard → Halyard) : (s.modKv i f).hostMem = s.hostMem := rfl
@[simp] theorem modKv_cores (i : Nat) (f : Halyard → Halyard) : (s.modKv i f).cores = s.cores := rfl
@[simp] theorem modKv_dies (i : Nat) (f : Halyard → Halyard) : (s.modKv i f).dies = s.dies := rfl
@[simp] theorem modKv_ctrls (i : Nat) (f : Halyard → Halyard) : (s.modKv i f).ctrls = s.ctrls := rfl
@[simp] theorem modKv_parts (i : Nat) (f : Halyard → Halyard) : (s.modKv i f).parts = s.parts := rfl
@[simp] theorem modKv_fab (i : Nat) (f : Halyard → Halyard) : (s.modKv i f).fab = s.fab := rfl
@[simp] theorem modKv_snap (i : Nat) (f : Halyard → Halyard) : (s.modKv i f).snap = s.snap := rfl
@[simp] theorem modKv_recov (i : Nat) (f : Halyard → Halyard) : (s.modKv i f).recov = s.recov := rfl
@[simp] theorem modKv_hif (i : Nat) (f : Halyard → Halyard) : (s.modKv i f).hif = s.hif := rfl
@[simp] theorem modKv_chip (i : Nat) (f : Halyard → Halyard) : (s.modKv i f).chip = s.chip := rfl
@[simp] theorem modKv_nw (i : Nat) (f : Halyard → Halyard) : (s.modKv i f).nw = s.nw := rfl
@[simp] theorem modKv_nwLoaded (i : Nat) (f : Halyard → Halyard) : (s.modKv i f).nwLoaded = s.nwLoaded := rfl
@[simp] theorem modKv_nwSeen (i : Nat) (f : Halyard → Halyard) : (s.modKv i f).nwSeen = s.nwSeen := rfl
@[simp] theorem modKv_nwQ (i : Nat) (f : Halyard → Halyard) : (s.modKv i f).nwQ = s.nwQ := rfl
@[simp] theorem modKv_hostWins (i : Nat) (f : Halyard → Halyard) : (s.modKv i f).hostWins = s.hostWins := rfl
@[simp] theorem modKv_wcopies (i : Nat) (f : Halyard → Halyard) : (s.modKv i f).wcopies = s.wcopies := rfl
@[simp] theorem modKv_fresh (i : Nat) (f : Halyard → Halyard) : (s.modKv i f).fresh = s.fresh := rfl
@[simp] theorem modKv_out (i : Nat) (f : Halyard → Halyard) : (s.modKv i f).out = s.out := rfl
@[simp] theorem modKv_pending (i : Nat) (f : Halyard → Halyard) : (s.modKv i f).pending = s.pending := rfl

@[simp] theorem setDie_regs (i : Nat) (x : Die) : (s.setDie i x).regs = s.regs := rfl
@[simp] theorem setDie_regsM (i : Nat) (x : Die) : (s.setDie i x).regsM = s.regsM := rfl
@[simp] theorem setDie_mem (i : Nat) (x : Die) : (s.setDie i x).mem = s.mem := rfl
@[simp] theorem setDie_hostMem (i : Nat) (x : Die) : (s.setDie i x).hostMem = s.hostMem := rfl
@[simp] theorem setDie_cores (i : Nat) (x : Die) : (s.setDie i x).cores = s.cores := rfl
@[simp] theorem setDie_clusters (i : Nat) (x : Die) : (s.setDie i x).clusters = s.clusters := rfl
@[simp] theorem setDie_ctrls (i : Nat) (x : Die) : (s.setDie i x).ctrls = s.ctrls := rfl
@[simp] theorem setDie_parts (i : Nat) (x : Die) : (s.setDie i x).parts = s.parts := rfl
@[simp] theorem setDie_fab (i : Nat) (x : Die) : (s.setDie i x).fab = s.fab := rfl
@[simp] theorem setDie_snap (i : Nat) (x : Die) : (s.setDie i x).snap = s.snap := rfl
@[simp] theorem setDie_recov (i : Nat) (x : Die) : (s.setDie i x).recov = s.recov := rfl
@[simp] theorem setDie_hif (i : Nat) (x : Die) : (s.setDie i x).hif = s.hif := rfl
@[simp] theorem setDie_chip (i : Nat) (x : Die) : (s.setDie i x).chip = s.chip := rfl
@[simp] theorem setDie_nw (i : Nat) (x : Die) : (s.setDie i x).nw = s.nw := rfl
@[simp] theorem setDie_nwLoaded (i : Nat) (x : Die) : (s.setDie i x).nwLoaded = s.nwLoaded := rfl
@[simp] theorem setDie_nwSeen (i : Nat) (x : Die) : (s.setDie i x).nwSeen = s.nwSeen := rfl
@[simp] theorem setDie_nwQ (i : Nat) (x : Die) : (s.setDie i x).nwQ = s.nwQ := rfl
@[simp] theorem setDie_hostWins (i : Nat) (x : Die) : (s.setDie i x).hostWins = s.hostWins := rfl
@[simp] theorem setDie_wcopies (i : Nat) (x : Die) : (s.setDie i x).wcopies = s.wcopies := rfl
@[simp] theorem setDie_fresh (i : Nat) (x : Die) : (s.setDie i x).fresh = s.fresh := rfl
@[simp] theorem setDie_out (i : Nat) (x : Die) : (s.setDie i x).out = s.out := rfl
@[simp] theorem setDie_pending (i : Nat) (x : Die) : (s.setDie i x).pending = s.pending := rfl

@[simp] theorem modDie_regs (i : Nat) (f : Die → Die) : (s.modDie i f).regs = s.regs := rfl
@[simp] theorem modDie_regsM (i : Nat) (f : Die → Die) : (s.modDie i f).regsM = s.regsM := rfl
@[simp] theorem modDie_mem (i : Nat) (f : Die → Die) : (s.modDie i f).mem = s.mem := rfl
@[simp] theorem modDie_hostMem (i : Nat) (f : Die → Die) : (s.modDie i f).hostMem = s.hostMem := rfl
@[simp] theorem modDie_cores (i : Nat) (f : Die → Die) : (s.modDie i f).cores = s.cores := rfl
@[simp] theorem modDie_clusters (i : Nat) (f : Die → Die) : (s.modDie i f).clusters = s.clusters := rfl
@[simp] theorem modDie_ctrls (i : Nat) (f : Die → Die) : (s.modDie i f).ctrls = s.ctrls := rfl
@[simp] theorem modDie_parts (i : Nat) (f : Die → Die) : (s.modDie i f).parts = s.parts := rfl
@[simp] theorem modDie_fab (i : Nat) (f : Die → Die) : (s.modDie i f).fab = s.fab := rfl
@[simp] theorem modDie_snap (i : Nat) (f : Die → Die) : (s.modDie i f).snap = s.snap := rfl
@[simp] theorem modDie_recov (i : Nat) (f : Die → Die) : (s.modDie i f).recov = s.recov := rfl
@[simp] theorem modDie_hif (i : Nat) (f : Die → Die) : (s.modDie i f).hif = s.hif := rfl
@[simp] theorem modDie_chip (i : Nat) (f : Die → Die) : (s.modDie i f).chip = s.chip := rfl
@[simp] theorem modDie_nw (i : Nat) (f : Die → Die) : (s.modDie i f).nw = s.nw := rfl
@[simp] theorem modDie_nwLoaded (i : Nat) (f : Die → Die) : (s.modDie i f).nwLoaded = s.nwLoaded := rfl
@[simp] theorem modDie_nwSeen (i : Nat) (f : Die → Die) : (s.modDie i f).nwSeen = s.nwSeen := rfl
@[simp] theorem modDie_nwQ (i : Nat) (f : Die → Die) : (s.modDie i f).nwQ = s.nwQ := rfl
@[simp] theorem modDie_hostWins (i : Nat) (f : Die → Die) : (s.modDie i f).hostWins = s.hostWins := rfl
@[simp] theorem modDie_wcopies (i : Nat) (f : Die → Die) : (s.modDie i f).wcopies = s.wcopies := rfl
@[simp] theorem modDie_fresh (i : Nat) (f : Die → Die) : (s.modDie i f).fresh = s.fresh := rfl
@[simp] theorem modDie_out (i : Nat) (f : Die → Die) : (s.modDie i f).out = s.out := rfl
@[simp] theorem modDie_pending (i : Nat) (f : Die → Die) : (s.modDie i f).pending = s.pending := rfl

@[simp] theorem setStay_regs (d k : Nat) (v : Word) : (s.setStay d k v).regs = s.regs := rfl
@[simp] theorem setStay_regsM (d k : Nat) (v : Word) : (s.setStay d k v).regsM = s.regsM := rfl
@[simp] theorem setStay_mem (d k : Nat) (v : Word) : (s.setStay d k v).mem = s.mem := rfl
@[simp] theorem setStay_hostMem (d k : Nat) (v : Word) : (s.setStay d k v).hostMem = s.hostMem := rfl
@[simp] theorem setStay_cores (d k : Nat) (v : Word) : (s.setStay d k v).cores = s.cores := rfl
@[simp] theorem setStay_clusters (d k : Nat) (v : Word) : (s.setStay d k v).clusters = s.clusters := rfl
@[simp] theorem setStay_ctrls (d k : Nat) (v : Word) : (s.setStay d k v).ctrls = s.ctrls := rfl
@[simp] theorem setStay_parts (d k : Nat) (v : Word) : (s.setStay d k v).parts = s.parts := rfl
@[simp] theorem setStay_fab (d k : Nat) (v : Word) : (s.setStay d k v).fab = s.fab := rfl
@[simp] theorem setStay_snap (d k : Nat) (v : Word) : (s.setStay d k v).snap = s.snap := rfl
@[simp] theorem setStay_recov (d k : Nat) (v : Word) : (s.setStay d k v).recov = s.recov := rfl
@[simp] theorem setStay_hif (d k : Nat) (v : Word) : (s.setStay d k v).hif = s.hif := rfl
@[simp] theorem setStay_chip (d k : Nat) (v : Word) : (s.setStay d k v).chip = s.chip := rfl
@[simp] theorem setStay_nw (d k : Nat) (v : Word) : (s.setStay d k v).nw = s.nw := rfl
@[simp] theorem setStay_nwLoaded (d k : Nat) (v : Word) : (s.setStay d k v).nwLoaded = s.nwLoaded := rfl
@[simp] theorem setStay_nwSeen (d k : Nat) (v : Word) : (s.setStay d k v).nwSeen = s.nwSeen := rfl
@[simp] theorem setStay_nwQ (d k : Nat) (v : Word) : (s.setStay d k v).nwQ = s.nwQ := rfl
@[simp] theorem setStay_hostWins (d k : Nat) (v : Word) : (s.setStay d k v).hostWins = s.hostWins := rfl
@[simp] theorem setStay_wcopies (d k : Nat) (v : Word) : (s.setStay d k v).wcopies = s.wcopies := rfl
@[simp] theorem setStay_fresh (d k : Nat) (v : Word) : (s.setStay d k v).fresh = s.fresh := rfl
@[simp] theorem setStay_out (d k : Nat) (v : Word) : (s.setStay d k v).out = s.out := rfl
@[simp] theorem setStay_pending (d k : Nat) (v : Word) : (s.setStay d k v).pending = s.pending := rfl

@[simp] theorem putStartRec_regs (v : Word) : (s.putStartRec v).regs = s.regs := rfl
@[simp] theorem putStartRec_regsM (v : Word) : (s.putStartRec v).regsM = s.regsM := rfl
@[simp] theorem putStartRec_mem (v : Word) : (s.putStartRec v).mem = s.mem := rfl
@[simp] theorem putStartRec_hostMem (v : Word) : (s.putStartRec v).hostMem = s.hostMem := rfl
@[simp] theorem putStartRec_cores (v : Word) : (s.putStartRec v).cores = s.cores := rfl
@[simp] theorem putStartRec_clusters (v : Word) : (s.putStartRec v).clusters = s.clusters := rfl
@[simp] theorem putStartRec_ctrls (v : Word) : (s.putStartRec v).ctrls = s.ctrls := rfl
@[simp] theorem putStartRec_parts (v : Word) : (s.putStartRec v).parts = s.parts := rfl
@[simp] theorem putStartRec_fab (v : Word) : (s.putStartRec v).fab = s.fab := rfl
@[simp] theorem putStartRec_snap (v : Word) : (s.putStartRec v).snap = s.snap := rfl
@[simp] theorem putStartRec_recov (v : Word) : (s.putStartRec v).recov = s.recov := rfl
@[simp] theorem putStartRec_hif (v : Word) : (s.putStartRec v).hif = s.hif := rfl
@[simp] theorem putStartRec_chip (v : Word) : (s.putStartRec v).chip = s.chip := rfl
@[simp] theorem putStartRec_nw (v : Word) : (s.putStartRec v).nw = s.nw := rfl
@[simp] theorem putStartRec_nwLoaded (v : Word) : (s.putStartRec v).nwLoaded = s.nwLoaded := rfl
@[simp] theorem putStartRec_nwSeen (v : Word) : (s.putStartRec v).nwSeen = s.nwSeen := rfl
@[simp] theorem putStartRec_nwQ (v : Word) : (s.putStartRec v).nwQ = s.nwQ := rfl
@[simp] theorem putStartRec_hostWins (v : Word) : (s.putStartRec v).hostWins = s.hostWins := rfl
@[simp] theorem putStartRec_wcopies (v : Word) : (s.putStartRec v).wcopies = s.wcopies := rfl
@[simp] theorem putStartRec_fresh (v : Word) : (s.putStartRec v).fresh = s.fresh := rfl
@[simp] theorem putStartRec_out (v : Word) : (s.putStartRec v).out = s.out := rfl
@[simp] theorem putStartRec_pending (v : Word) : (s.putStartRec v).pending = s.pending := rfl

@[simp] theorem setStartRec_regs (hi lo v : Nat) : (s.setStartRec hi lo v).regs = s.regs := rfl
@[simp] theorem setStartRec_regsM (hi lo v : Nat) : (s.setStartRec hi lo v).regsM = s.regsM := rfl
@[simp] theorem setStartRec_mem (hi lo v : Nat) : (s.setStartRec hi lo v).mem = s.mem := rfl
@[simp] theorem setStartRec_hostMem (hi lo v : Nat) : (s.setStartRec hi lo v).hostMem = s.hostMem := rfl
@[simp] theorem setStartRec_cores (hi lo v : Nat) : (s.setStartRec hi lo v).cores = s.cores := rfl
@[simp] theorem setStartRec_clusters (hi lo v : Nat) : (s.setStartRec hi lo v).clusters = s.clusters := rfl
@[simp] theorem setStartRec_ctrls (hi lo v : Nat) : (s.setStartRec hi lo v).ctrls = s.ctrls := rfl
@[simp] theorem setStartRec_parts (hi lo v : Nat) : (s.setStartRec hi lo v).parts = s.parts := rfl
@[simp] theorem setStartRec_fab (hi lo v : Nat) : (s.setStartRec hi lo v).fab = s.fab := rfl
@[simp] theorem setStartRec_snap (hi lo v : Nat) : (s.setStartRec hi lo v).snap = s.snap := rfl
@[simp] theorem setStartRec_recov (hi lo v : Nat) : (s.setStartRec hi lo v).recov = s.recov := rfl
@[simp] theorem setStartRec_hif (hi lo v : Nat) : (s.setStartRec hi lo v).hif = s.hif := rfl
@[simp] theorem setStartRec_chip (hi lo v : Nat) : (s.setStartRec hi lo v).chip = s.chip := rfl
@[simp] theorem setStartRec_nw (hi lo v : Nat) : (s.setStartRec hi lo v).nw = s.nw := rfl
@[simp] theorem setStartRec_nwLoaded (hi lo v : Nat) : (s.setStartRec hi lo v).nwLoaded = s.nwLoaded := rfl
@[simp] theorem setStartRec_nwSeen (hi lo v : Nat) : (s.setStartRec hi lo v).nwSeen = s.nwSeen := rfl
@[simp] theorem setStartRec_nwQ (hi lo v : Nat) : (s.setStartRec hi lo v).nwQ = s.nwQ := rfl
@[simp] theorem setStartRec_hostWins (hi lo v : Nat) : (s.setStartRec hi lo v).hostWins = s.hostWins := rfl
@[simp] theorem setStartRec_wcopies (hi lo v : Nat) : (s.setStartRec hi lo v).wcopies = s.wcopies := rfl
@[simp] theorem setStartRec_fresh (hi lo v : Nat) : (s.setStartRec hi lo v).fresh = s.fresh := rfl
@[simp] theorem setStartRec_out (hi lo v : Nat) : (s.setStartRec hi lo v).out = s.out := rfl
@[simp] theorem setStartRec_pending (hi lo v : Nat) : (s.setStartRec hi lo v).pending = s.pending := rfl

@[simp] theorem setEpochReg_regs (k : Nat) (v : Word) : (s.setEpochReg k v).regs = s.regs := rfl
@[simp] theorem setEpochReg_regsM (k : Nat) (v : Word) : (s.setEpochReg k v).regsM = s.regsM := rfl
@[simp] theorem setEpochReg_mem (k : Nat) (v : Word) : (s.setEpochReg k v).mem = s.mem := rfl
@[simp] theorem setEpochReg_hostMem (k : Nat) (v : Word) : (s.setEpochReg k v).hostMem = s.hostMem := rfl
@[simp] theorem setEpochReg_cores (k : Nat) (v : Word) : (s.setEpochReg k v).cores = s.cores := rfl
@[simp] theorem setEpochReg_clusters (k : Nat) (v : Word) : (s.setEpochReg k v).clusters = s.clusters := rfl
@[simp] theorem setEpochReg_ctrls (k : Nat) (v : Word) : (s.setEpochReg k v).ctrls = s.ctrls := rfl
@[simp] theorem setEpochReg_parts (k : Nat) (v : Word) : (s.setEpochReg k v).parts = s.parts := rfl
@[simp] theorem setEpochReg_fab (k : Nat) (v : Word) : (s.setEpochReg k v).fab = s.fab := rfl
@[simp] theorem setEpochReg_snap (k : Nat) (v : Word) : (s.setEpochReg k v).snap = s.snap := rfl
@[simp] theorem setEpochReg_recov (k : Nat) (v : Word) : (s.setEpochReg k v).recov = s.recov := rfl
@[simp] theorem setEpochReg_hif (k : Nat) (v : Word) : (s.setEpochReg k v).hif = s.hif := rfl
@[simp] theorem setEpochReg_chip (k : Nat) (v : Word) : (s.setEpochReg k v).chip = s.chip := rfl
@[simp] theorem setEpochReg_nw (k : Nat) (v : Word) : (s.setEpochReg k v).nw = s.nw := rfl
@[simp] theorem setEpochReg_nwLoaded (k : Nat) (v : Word) : (s.setEpochReg k v).nwLoaded = s.nwLoaded := rfl
@[simp] theorem setEpochReg_nwSeen (k : Nat) (v : Word) : (s.setEpochReg k v).nwSeen = s.nwSeen := rfl
@[simp] theorem setEpochReg_nwQ (k : Nat) (v : Word) : (s.setEpochReg k v).nwQ = s.nwQ := rfl
@[simp] theorem setEpochReg_hostWins (k : Nat) (v : Word) : (s.setEpochReg k v).hostWins = s.hostWins := rfl
@[simp] theorem setEpochReg_wcopies (k : Nat) (v : Word) : (s.setEpochReg k v).wcopies = s.wcopies := rfl
@[simp] theorem setEpochReg_fresh (k : Nat) (v : Word) : (s.setEpochReg k v).fresh = s.fresh := rfl
@[simp] theorem setEpochReg_out (k : Nat) (v : Word) : (s.setEpochReg k v).out = s.out := rfl
@[simp] theorem setEpochReg_pending (k : Nat) (v : Word) : (s.setEpochReg k v).pending = s.pending := rfl

@[simp] theorem post_regs (d : Nat) (c : TCode) (a b : Word) : (s.post d c a b).regs = s.regs := rfl
@[simp] theorem post_regsM (d : Nat) (c : TCode) (a b : Word) : (s.post d c a b).regsM = s.regsM := rfl
@[simp] theorem post_mem (d : Nat) (c : TCode) (a b : Word) : (s.post d c a b).mem = s.mem := rfl
@[simp] theorem post_hostMem (d : Nat) (c : TCode) (a b : Word) : (s.post d c a b).hostMem = s.hostMem := rfl
@[simp] theorem post_cores (d : Nat) (c : TCode) (a b : Word) : (s.post d c a b).cores = s.cores := rfl
@[simp] theorem post_clusters (d : Nat) (c : TCode) (a b : Word) : (s.post d c a b).clusters = s.clusters := rfl
@[simp] theorem post_ctrls (d : Nat) (c : TCode) (a b : Word) : (s.post d c a b).ctrls = s.ctrls := rfl
@[simp] theorem post_parts (d : Nat) (c : TCode) (a b : Word) : (s.post d c a b).parts = s.parts := rfl
@[simp] theorem post_fab (d : Nat) (c : TCode) (a b : Word) : (s.post d c a b).fab = s.fab := rfl
@[simp] theorem post_snap (d : Nat) (c : TCode) (a b : Word) : (s.post d c a b).snap = s.snap := rfl
@[simp] theorem post_recov (d : Nat) (c : TCode) (a b : Word) : (s.post d c a b).recov = s.recov := rfl
@[simp] theorem post_hif (d : Nat) (c : TCode) (a b : Word) : (s.post d c a b).hif = s.hif := rfl
@[simp] theorem post_chip (d : Nat) (c : TCode) (a b : Word) : (s.post d c a b).chip = s.chip := rfl
@[simp] theorem post_nw (d : Nat) (c : TCode) (a b : Word) : (s.post d c a b).nw = s.nw := rfl
@[simp] theorem post_nwLoaded (d : Nat) (c : TCode) (a b : Word) : (s.post d c a b).nwLoaded = s.nwLoaded := rfl
@[simp] theorem post_nwSeen (d : Nat) (c : TCode) (a b : Word) : (s.post d c a b).nwSeen = s.nwSeen := rfl
@[simp] theorem post_nwQ (d : Nat) (c : TCode) (a b : Word) : (s.post d c a b).nwQ = s.nwQ := rfl
@[simp] theorem post_hostWins (d : Nat) (c : TCode) (a b : Word) : (s.post d c a b).hostWins = s.hostWins := rfl
@[simp] theorem post_wcopies (d : Nat) (c : TCode) (a b : Word) : (s.post d c a b).wcopies = s.wcopies := rfl
@[simp] theorem post_fresh (d : Nat) (c : TCode) (a b : Word) : (s.post d c a b).fresh = s.fresh := rfl
@[simp] theorem post_out (d : Nat) (c : TCode) (a b : Word) : (s.post d c a b).out = s.out := rfl
@[simp] theorem post_pending (d : Nat) (c : TCode) (a b : Word) : (s.post d c a b).pending = s.pending := rfl

@[simp] theorem postMore_regs (d : Nat) (c : TCode) (a b : Word) (m : List Word) : (s.postMore d c a b m).regs = s.regs := rfl
@[simp] theorem postMore_regsM (d : Nat) (c : TCode) (a b : Word) (m : List Word) : (s.postMore d c a b m).regsM = s.regsM := rfl
@[simp] theorem postMore_mem (d : Nat) (c : TCode) (a b : Word) (m : List Word) : (s.postMore d c a b m).mem = s.mem := rfl
@[simp] theorem postMore_hostMem (d : Nat) (c : TCode) (a b : Word) (m : List Word) : (s.postMore d c a b m).hostMem = s.hostMem := rfl
@[simp] theorem postMore_cores (d : Nat) (c : TCode) (a b : Word) (m : List Word) : (s.postMore d c a b m).cores = s.cores := rfl
@[simp] theorem postMore_clusters (d : Nat) (c : TCode) (a b : Word) (m : List Word) : (s.postMore d c a b m).clusters = s.clusters := rfl
@[simp] theorem postMore_ctrls (d : Nat) (c : TCode) (a b : Word) (m : List Word) : (s.postMore d c a b m).ctrls = s.ctrls := rfl
@[simp] theorem postMore_parts (d : Nat) (c : TCode) (a b : Word) (m : List Word) : (s.postMore d c a b m).parts = s.parts := rfl
@[simp] theorem postMore_fab (d : Nat) (c : TCode) (a b : Word) (m : List Word) : (s.postMore d c a b m).fab = s.fab := rfl
@[simp] theorem postMore_snap (d : Nat) (c : TCode) (a b : Word) (m : List Word) : (s.postMore d c a b m).snap = s.snap := rfl
@[simp] theorem postMore_recov (d : Nat) (c : TCode) (a b : Word) (m : List Word) : (s.postMore d c a b m).recov = s.recov := rfl
@[simp] theorem postMore_hif (d : Nat) (c : TCode) (a b : Word) (m : List Word) : (s.postMore d c a b m).hif = s.hif := rfl
@[simp] theorem postMore_chip (d : Nat) (c : TCode) (a b : Word) (m : List Word) : (s.postMore d c a b m).chip = s.chip := rfl
@[simp] theorem postMore_nw (d : Nat) (c : TCode) (a b : Word) (m : List Word) : (s.postMore d c a b m).nw = s.nw := rfl
@[simp] theorem postMore_nwLoaded (d : Nat) (c : TCode) (a b : Word) (m : List Word) : (s.postMore d c a b m).nwLoaded = s.nwLoaded := rfl
@[simp] theorem postMore_nwSeen (d : Nat) (c : TCode) (a b : Word) (m : List Word) : (s.postMore d c a b m).nwSeen = s.nwSeen := rfl
@[simp] theorem postMore_nwQ (d : Nat) (c : TCode) (a b : Word) (m : List Word) : (s.postMore d c a b m).nwQ = s.nwQ := rfl
@[simp] theorem postMore_hostWins (d : Nat) (c : TCode) (a b : Word) (m : List Word) : (s.postMore d c a b m).hostWins = s.hostWins := rfl
@[simp] theorem postMore_wcopies (d : Nat) (c : TCode) (a b : Word) (m : List Word) : (s.postMore d c a b m).wcopies = s.wcopies := rfl
@[simp] theorem postMore_fresh (d : Nat) (c : TCode) (a b : Word) (m : List Word) : (s.postMore d c a b m).fresh = s.fresh := rfl
@[simp] theorem postMore_out (d : Nat) (c : TCode) (a b : Word) (m : List Word) : (s.postMore d c a b m).out = s.out := rfl
@[simp] theorem postMore_pending (d : Nat) (c : TCode) (a b : Word) (m : List Word) : (s.postMore d c a b m).pending = s.pending := rfl

@[simp] theorem setPart_regs (i : Nat) (x : Part) : (s.setPart i x).regs = s.regs := rfl
@[simp] theorem setPart_regsM (i : Nat) (x : Part) : (s.setPart i x).regsM = s.regsM := rfl
@[simp] theorem setPart_mem (i : Nat) (x : Part) : (s.setPart i x).mem = s.mem := rfl
@[simp] theorem setPart_hostMem (i : Nat) (x : Part) : (s.setPart i x).hostMem = s.hostMem := rfl
@[simp] theorem setPart_cores (i : Nat) (x : Part) : (s.setPart i x).cores = s.cores := rfl
@[simp] theorem setPart_clusters (i : Nat) (x : Part) : (s.setPart i x).clusters = s.clusters := rfl
@[simp] theorem setPart_dies (i : Nat) (x : Part) : (s.setPart i x).dies = s.dies := rfl
@[simp] theorem setPart_ctrls (i : Nat) (x : Part) : (s.setPart i x).ctrls = s.ctrls := rfl
@[simp] theorem setPart_fab (i : Nat) (x : Part) : (s.setPart i x).fab = s.fab := rfl
@[simp] theorem setPart_snap (i : Nat) (x : Part) : (s.setPart i x).snap = s.snap := rfl
@[simp] theorem setPart_recov (i : Nat) (x : Part) : (s.setPart i x).recov = s.recov := rfl
@[simp] theorem setPart_hif (i : Nat) (x : Part) : (s.setPart i x).hif = s.hif := rfl
@[simp] theorem setPart_chip (i : Nat) (x : Part) : (s.setPart i x).chip = s.chip := rfl
@[simp] theorem setPart_nw (i : Nat) (x : Part) : (s.setPart i x).nw = s.nw := rfl
@[simp] theorem setPart_nwLoaded (i : Nat) (x : Part) : (s.setPart i x).nwLoaded = s.nwLoaded := rfl
@[simp] theorem setPart_nwSeen (i : Nat) (x : Part) : (s.setPart i x).nwSeen = s.nwSeen := rfl
@[simp] theorem setPart_nwQ (i : Nat) (x : Part) : (s.setPart i x).nwQ = s.nwQ := rfl
@[simp] theorem setPart_hostWins (i : Nat) (x : Part) : (s.setPart i x).hostWins = s.hostWins := rfl
@[simp] theorem setPart_wcopies (i : Nat) (x : Part) : (s.setPart i x).wcopies = s.wcopies := rfl
@[simp] theorem setPart_fresh (i : Nat) (x : Part) : (s.setPart i x).fresh = s.fresh := rfl
@[simp] theorem setPart_out (i : Nat) (x : Part) : (s.setPart i x).out = s.out := rfl
@[simp] theorem setPart_pending (i : Nat) (x : Part) : (s.setPart i x).pending = s.pending := rfl

@[simp] theorem modPart_regs (i : Nat) (f : Part → Part) : (s.modPart i f).regs = s.regs := rfl
@[simp] theorem modPart_regsM (i : Nat) (f : Part → Part) : (s.modPart i f).regsM = s.regsM := rfl
@[simp] theorem modPart_mem (i : Nat) (f : Part → Part) : (s.modPart i f).mem = s.mem := rfl
@[simp] theorem modPart_hostMem (i : Nat) (f : Part → Part) : (s.modPart i f).hostMem = s.hostMem := rfl
@[simp] theorem modPart_cores (i : Nat) (f : Part → Part) : (s.modPart i f).cores = s.cores := rfl
@[simp] theorem modPart_clusters (i : Nat) (f : Part → Part) : (s.modPart i f).clusters = s.clusters := rfl
@[simp] theorem modPart_dies (i : Nat) (f : Part → Part) : (s.modPart i f).dies = s.dies := rfl
@[simp] theorem modPart_ctrls (i : Nat) (f : Part → Part) : (s.modPart i f).ctrls = s.ctrls := rfl
@[simp] theorem modPart_fab (i : Nat) (f : Part → Part) : (s.modPart i f).fab = s.fab := rfl
@[simp] theorem modPart_snap (i : Nat) (f : Part → Part) : (s.modPart i f).snap = s.snap := rfl
@[simp] theorem modPart_recov (i : Nat) (f : Part → Part) : (s.modPart i f).recov = s.recov := rfl
@[simp] theorem modPart_hif (i : Nat) (f : Part → Part) : (s.modPart i f).hif = s.hif := rfl
@[simp] theorem modPart_chip (i : Nat) (f : Part → Part) : (s.modPart i f).chip = s.chip := rfl
@[simp] theorem modPart_nw (i : Nat) (f : Part → Part) : (s.modPart i f).nw = s.nw := rfl
@[simp] theorem modPart_nwLoaded (i : Nat) (f : Part → Part) : (s.modPart i f).nwLoaded = s.nwLoaded := rfl
@[simp] theorem modPart_nwSeen (i : Nat) (f : Part → Part) : (s.modPart i f).nwSeen = s.nwSeen := rfl
@[simp] theorem modPart_nwQ (i : Nat) (f : Part → Part) : (s.modPart i f).nwQ = s.nwQ := rfl
@[simp] theorem modPart_hostWins (i : Nat) (f : Part → Part) : (s.modPart i f).hostWins = s.hostWins := rfl
@[simp] theorem modPart_wcopies (i : Nat) (f : Part → Part) : (s.modPart i f).wcopies = s.wcopies := rfl
@[simp] theorem modPart_fresh (i : Nat) (f : Part → Part) : (s.modPart i f).fresh = s.fresh := rfl
@[simp] theorem modPart_out (i : Nat) (f : Part → Part) : (s.modPart i f).out = s.out := rfl
@[simp] theorem modPart_pending (i : Nat) (f : Part → Part) : (s.modPart i f).pending = s.pending := rfl

@[simp] theorem wr_regsM (r : Reg) (i : Nat) (v : Word) : (s.wr r i v).regsM = s.regsM := rfl
@[simp] theorem wr_mem (r : Reg) (i : Nat) (v : Word) : (s.wr r i v).mem = s.mem := rfl
@[simp] theorem wr_hostMem (r : Reg) (i : Nat) (v : Word) : (s.wr r i v).hostMem = s.hostMem := rfl
@[simp] theorem wr_cores (r : Reg) (i : Nat) (v : Word) : (s.wr r i v).cores = s.cores := rfl
@[simp] theorem wr_clusters (r : Reg) (i : Nat) (v : Word) : (s.wr r i v).clusters = s.clusters := rfl
@[simp] theorem wr_dies (r : Reg) (i : Nat) (v : Word) : (s.wr r i v).dies = s.dies := rfl
@[simp] theorem wr_ctrls (r : Reg) (i : Nat) (v : Word) : (s.wr r i v).ctrls = s.ctrls := rfl
@[simp] theorem wr_parts (r : Reg) (i : Nat) (v : Word) : (s.wr r i v).parts = s.parts := rfl
@[simp] theorem wr_fab (r : Reg) (i : Nat) (v : Word) : (s.wr r i v).fab = s.fab := rfl
@[simp] theorem wr_snap (r : Reg) (i : Nat) (v : Word) : (s.wr r i v).snap = s.snap := rfl
@[simp] theorem wr_recov (r : Reg) (i : Nat) (v : Word) : (s.wr r i v).recov = s.recov := rfl
@[simp] theorem wr_hif (r : Reg) (i : Nat) (v : Word) : (s.wr r i v).hif = s.hif := rfl
@[simp] theorem wr_chip (r : Reg) (i : Nat) (v : Word) : (s.wr r i v).chip = s.chip := rfl
@[simp] theorem wr_nw (r : Reg) (i : Nat) (v : Word) : (s.wr r i v).nw = s.nw := rfl
@[simp] theorem wr_nwLoaded (r : Reg) (i : Nat) (v : Word) : (s.wr r i v).nwLoaded = s.nwLoaded := rfl
@[simp] theorem wr_nwSeen (r : Reg) (i : Nat) (v : Word) : (s.wr r i v).nwSeen = s.nwSeen := rfl
@[simp] theorem wr_nwQ (r : Reg) (i : Nat) (v : Word) : (s.wr r i v).nwQ = s.nwQ := rfl
@[simp] theorem wr_hostWins (r : Reg) (i : Nat) (v : Word) : (s.wr r i v).hostWins = s.hostWins := rfl
@[simp] theorem wr_wcopies (r : Reg) (i : Nat) (v : Word) : (s.wr r i v).wcopies = s.wcopies := rfl
@[simp] theorem wr_fresh (r : Reg) (i : Nat) (v : Word) : (s.wr r i v).fresh = s.fresh := rfl
@[simp] theorem wr_out (r : Reg) (i : Nat) (v : Word) : (s.wr r i v).out = s.out := rfl
@[simp] theorem wr_pending (r : Reg) (i : Nat) (v : Word) : (s.wr r i v).pending = s.pending := rfl

@[simp] theorem setFld_regsM (r : Reg) (i hi lo v : Nat) : (s.setFld r i hi lo v).regsM = s.regsM := rfl
@[simp] theorem setFld_mem (r : Reg) (i hi lo v : Nat) : (s.setFld r i hi lo v).mem = s.mem := rfl
@[simp] theorem setFld_hostMem (r : Reg) (i hi lo v : Nat) : (s.setFld r i hi lo v).hostMem = s.hostMem := rfl
@[simp] theorem setFld_cores (r : Reg) (i hi lo v : Nat) : (s.setFld r i hi lo v).cores = s.cores := rfl
@[simp] theorem setFld_clusters (r : Reg) (i hi lo v : Nat) : (s.setFld r i hi lo v).clusters = s.clusters := rfl
@[simp] theorem setFld_dies (r : Reg) (i hi lo v : Nat) : (s.setFld r i hi lo v).dies = s.dies := rfl
@[simp] theorem setFld_ctrls (r : Reg) (i hi lo v : Nat) : (s.setFld r i hi lo v).ctrls = s.ctrls := rfl
@[simp] theorem setFld_parts (r : Reg) (i hi lo v : Nat) : (s.setFld r i hi lo v).parts = s.parts := rfl
@[simp] theorem setFld_fab (r : Reg) (i hi lo v : Nat) : (s.setFld r i hi lo v).fab = s.fab := rfl
@[simp] theorem setFld_snap (r : Reg) (i hi lo v : Nat) : (s.setFld r i hi lo v).snap = s.snap := rfl
@[simp] theorem setFld_recov (r : Reg) (i hi lo v : Nat) : (s.setFld r i hi lo v).recov = s.recov := rfl
@[simp] theorem setFld_hif (r : Reg) (i hi lo v : Nat) : (s.setFld r i hi lo v).hif = s.hif := rfl
@[simp] theorem setFld_chip (r : Reg) (i hi lo v : Nat) : (s.setFld r i hi lo v).chip = s.chip := rfl
@[simp] theorem setFld_nw (r : Reg) (i hi lo v : Nat) : (s.setFld r i hi lo v).nw = s.nw := rfl
@[simp] theorem setFld_nwLoaded (r : Reg) (i hi lo v : Nat) : (s.setFld r i hi lo v).nwLoaded = s.nwLoaded := rfl
@[simp] theorem setFld_nwSeen (r : Reg) (i hi lo v : Nat) : (s.setFld r i hi lo v).nwSeen = s.nwSeen := rfl
@[simp] theorem setFld_nwQ (r : Reg) (i hi lo v : Nat) : (s.setFld r i hi lo v).nwQ = s.nwQ := rfl
@[simp] theorem setFld_hostWins (r : Reg) (i hi lo v : Nat) : (s.setFld r i hi lo v).hostWins = s.hostWins := rfl
@[simp] theorem setFld_wcopies (r : Reg) (i hi lo v : Nat) : (s.setFld r i hi lo v).wcopies = s.wcopies := rfl
@[simp] theorem setFld_fresh (r : Reg) (i hi lo v : Nat) : (s.setFld r i hi lo v).fresh = s.fresh := rfl
@[simp] theorem setFld_out (r : Reg) (i hi lo v : Nat) : (s.setFld r i hi lo v).out = s.out := rfl
@[simp] theorem setFld_pending (r : Reg) (i hi lo v : Nat) : (s.setFld r i hi lo v).pending = s.pending := rfl

@[simp] theorem setFlag_regsM (r : Reg) (i b : Nat) : (s.setFlag r i b).regsM = s.regsM := rfl
@[simp] theorem setFlag_mem (r : Reg) (i b : Nat) : (s.setFlag r i b).mem = s.mem := rfl
@[simp] theorem setFlag_hostMem (r : Reg) (i b : Nat) : (s.setFlag r i b).hostMem = s.hostMem := rfl
@[simp] theorem setFlag_cores (r : Reg) (i b : Nat) : (s.setFlag r i b).cores = s.cores := rfl
@[simp] theorem setFlag_clusters (r : Reg) (i b : Nat) : (s.setFlag r i b).clusters = s.clusters := rfl
@[simp] theorem setFlag_dies (r : Reg) (i b : Nat) : (s.setFlag r i b).dies = s.dies := rfl
@[simp] theorem setFlag_ctrls (r : Reg) (i b : Nat) : (s.setFlag r i b).ctrls = s.ctrls := rfl
@[simp] theorem setFlag_parts (r : Reg) (i b : Nat) : (s.setFlag r i b).parts = s.parts := rfl
@[simp] theorem setFlag_fab (r : Reg) (i b : Nat) : (s.setFlag r i b).fab = s.fab := rfl
@[simp] theorem setFlag_snap (r : Reg) (i b : Nat) : (s.setFlag r i b).snap = s.snap := rfl
@[simp] theorem setFlag_recov (r : Reg) (i b : Nat) : (s.setFlag r i b).recov = s.recov := rfl
@[simp] theorem setFlag_hif (r : Reg) (i b : Nat) : (s.setFlag r i b).hif = s.hif := rfl
@[simp] theorem setFlag_chip (r : Reg) (i b : Nat) : (s.setFlag r i b).chip = s.chip := rfl
@[simp] theorem setFlag_nw (r : Reg) (i b : Nat) : (s.setFlag r i b).nw = s.nw := rfl
@[simp] theorem setFlag_nwLoaded (r : Reg) (i b : Nat) : (s.setFlag r i b).nwLoaded = s.nwLoaded := rfl
@[simp] theorem setFlag_nwSeen (r : Reg) (i b : Nat) : (s.setFlag r i b).nwSeen = s.nwSeen := rfl
@[simp] theorem setFlag_nwQ (r : Reg) (i b : Nat) : (s.setFlag r i b).nwQ = s.nwQ := rfl
@[simp] theorem setFlag_hostWins (r : Reg) (i b : Nat) : (s.setFlag r i b).hostWins = s.hostWins := rfl
@[simp] theorem setFlag_wcopies (r : Reg) (i b : Nat) : (s.setFlag r i b).wcopies = s.wcopies := rfl
@[simp] theorem setFlag_fresh (r : Reg) (i b : Nat) : (s.setFlag r i b).fresh = s.fresh := rfl
@[simp] theorem setFlag_out (r : Reg) (i b : Nat) : (s.setFlag r i b).out = s.out := rfl
@[simp] theorem setFlag_pending (r : Reg) (i b : Nat) : (s.setFlag r i b).pending = s.pending := rfl

@[simp] theorem clrFlag_regsM (r : Reg) (i b : Nat) : (s.clrFlag r i b).regsM = s.regsM := rfl
@[simp] theorem clrFlag_mem (r : Reg) (i b : Nat) : (s.clrFlag r i b).mem = s.mem := rfl
@[simp] theorem clrFlag_hostMem (r : Reg) (i b : Nat) : (s.clrFlag r i b).hostMem = s.hostMem := rfl
@[simp] theorem clrFlag_cores (r : Reg) (i b : Nat) : (s.clrFlag r i b).cores = s.cores := rfl
@[simp] theorem clrFlag_clusters (r : Reg) (i b : Nat) : (s.clrFlag r i b).clusters = s.clusters := rfl
@[simp] theorem clrFlag_dies (r : Reg) (i b : Nat) : (s.clrFlag r i b).dies = s.dies := rfl
@[simp] theorem clrFlag_ctrls (r : Reg) (i b : Nat) : (s.clrFlag r i b).ctrls = s.ctrls := rfl
@[simp] theorem clrFlag_parts (r : Reg) (i b : Nat) : (s.clrFlag r i b).parts = s.parts := rfl
@[simp] theorem clrFlag_fab (r : Reg) (i b : Nat) : (s.clrFlag r i b).fab = s.fab := rfl
@[simp] theorem clrFlag_snap (r : Reg) (i b : Nat) : (s.clrFlag r i b).snap = s.snap := rfl
@[simp] theorem clrFlag_recov (r : Reg) (i b : Nat) : (s.clrFlag r i b).recov = s.recov := rfl
@[simp] theorem clrFlag_hif (r : Reg) (i b : Nat) : (s.clrFlag r i b).hif = s.hif := rfl
@[simp] theorem clrFlag_chip (r : Reg) (i b : Nat) : (s.clrFlag r i b).chip = s.chip := rfl
@[simp] theorem clrFlag_nw (r : Reg) (i b : Nat) : (s.clrFlag r i b).nw = s.nw := rfl
@[simp] theorem clrFlag_nwLoaded (r : Reg) (i b : Nat) : (s.clrFlag r i b).nwLoaded = s.nwLoaded := rfl
@[simp] theorem clrFlag_nwSeen (r : Reg) (i b : Nat) : (s.clrFlag r i b).nwSeen = s.nwSeen := rfl
@[simp] theorem clrFlag_nwQ (r : Reg) (i b : Nat) : (s.clrFlag r i b).nwQ = s.nwQ := rfl
@[simp] theorem clrFlag_hostWins (r : Reg) (i b : Nat) : (s.clrFlag r i b).hostWins = s.hostWins := rfl
@[simp] theorem clrFlag_wcopies (r : Reg) (i b : Nat) : (s.clrFlag r i b).wcopies = s.wcopies := rfl
@[simp] theorem clrFlag_fresh (r : Reg) (i b : Nat) : (s.clrFlag r i b).fresh = s.fresh := rfl
@[simp] theorem clrFlag_out (r : Reg) (i b : Nat) : (s.clrFlag r i b).out = s.out := rfl
@[simp] theorem clrFlag_pending (r : Reg) (i b : Nat) : (s.clrFlag r i b).pending = s.pending := rfl

@[simp] theorem countSat_regsM (r : Reg) (i n : Nat) : (s.countSat r i n).regsM = s.regsM := rfl
@[simp] theorem countSat_mem (r : Reg) (i n : Nat) : (s.countSat r i n).mem = s.mem := rfl
@[simp] theorem countSat_hostMem (r : Reg) (i n : Nat) : (s.countSat r i n).hostMem = s.hostMem := rfl
@[simp] theorem countSat_cores (r : Reg) (i n : Nat) : (s.countSat r i n).cores = s.cores := rfl
@[simp] theorem countSat_clusters (r : Reg) (i n : Nat) : (s.countSat r i n).clusters = s.clusters := rfl
@[simp] theorem countSat_dies (r : Reg) (i n : Nat) : (s.countSat r i n).dies = s.dies := rfl
@[simp] theorem countSat_ctrls (r : Reg) (i n : Nat) : (s.countSat r i n).ctrls = s.ctrls := rfl
@[simp] theorem countSat_parts (r : Reg) (i n : Nat) : (s.countSat r i n).parts = s.parts := rfl
@[simp] theorem countSat_fab (r : Reg) (i n : Nat) : (s.countSat r i n).fab = s.fab := rfl
@[simp] theorem countSat_snap (r : Reg) (i n : Nat) : (s.countSat r i n).snap = s.snap := rfl
@[simp] theorem countSat_recov (r : Reg) (i n : Nat) : (s.countSat r i n).recov = s.recov := rfl
@[simp] theorem countSat_hif (r : Reg) (i n : Nat) : (s.countSat r i n).hif = s.hif := rfl
@[simp] theorem countSat_chip (r : Reg) (i n : Nat) : (s.countSat r i n).chip = s.chip := rfl
@[simp] theorem countSat_nw (r : Reg) (i n : Nat) : (s.countSat r i n).nw = s.nw := rfl
@[simp] theorem countSat_nwLoaded (r : Reg) (i n : Nat) : (s.countSat r i n).nwLoaded = s.nwLoaded := rfl
@[simp] theorem countSat_nwSeen (r : Reg) (i n : Nat) : (s.countSat r i n).nwSeen = s.nwSeen := rfl
@[simp] theorem countSat_nwQ (r : Reg) (i n : Nat) : (s.countSat r i n).nwQ = s.nwQ := rfl
@[simp] theorem countSat_hostWins (r : Reg) (i n : Nat) : (s.countSat r i n).hostWins = s.hostWins := rfl
@[simp] theorem countSat_wcopies (r : Reg) (i n : Nat) : (s.countSat r i n).wcopies = s.wcopies := rfl
@[simp] theorem countSat_fresh (r : Reg) (i n : Nat) : (s.countSat r i n).fresh = s.fresh := rfl
@[simp] theorem countSat_out (r : Reg) (i n : Nat) : (s.countSat r i n).out = s.out := rfl
@[simp] theorem countSat_pending (r : Reg) (i n : Nat) : (s.countSat r i n).pending = s.pending := rfl

@[simp] theorem countWrap_regsM (r : Reg) (i n : Nat) : (s.countWrap r i n).regsM = s.regsM := rfl
@[simp] theorem countWrap_mem (r : Reg) (i n : Nat) : (s.countWrap r i n).mem = s.mem := rfl
@[simp] theorem countWrap_hostMem (r : Reg) (i n : Nat) : (s.countWrap r i n).hostMem = s.hostMem := rfl
@[simp] theorem countWrap_cores (r : Reg) (i n : Nat) : (s.countWrap r i n).cores = s.cores := rfl
@[simp] theorem countWrap_clusters (r : Reg) (i n : Nat) : (s.countWrap r i n).clusters = s.clusters := rfl
@[simp] theorem countWrap_dies (r : Reg) (i n : Nat) : (s.countWrap r i n).dies = s.dies := rfl
@[simp] theorem countWrap_ctrls (r : Reg) (i n : Nat) : (s.countWrap r i n).ctrls = s.ctrls := rfl
@[simp] theorem countWrap_parts (r : Reg) (i n : Nat) : (s.countWrap r i n).parts = s.parts := rfl
@[simp] theorem countWrap_fab (r : Reg) (i n : Nat) : (s.countWrap r i n).fab = s.fab := rfl
@[simp] theorem countWrap_snap (r : Reg) (i n : Nat) : (s.countWrap r i n).snap = s.snap := rfl
@[simp] theorem countWrap_recov (r : Reg) (i n : Nat) : (s.countWrap r i n).recov = s.recov := rfl
@[simp] theorem countWrap_hif (r : Reg) (i n : Nat) : (s.countWrap r i n).hif = s.hif := rfl
@[simp] theorem countWrap_chip (r : Reg) (i n : Nat) : (s.countWrap r i n).chip = s.chip := rfl
@[simp] theorem countWrap_nw (r : Reg) (i n : Nat) : (s.countWrap r i n).nw = s.nw := rfl
@[simp] theorem countWrap_nwLoaded (r : Reg) (i n : Nat) : (s.countWrap r i n).nwLoaded = s.nwLoaded := rfl
@[simp] theorem countWrap_nwSeen (r : Reg) (i n : Nat) : (s.countWrap r i n).nwSeen = s.nwSeen := rfl
@[simp] theorem countWrap_nwQ (r : Reg) (i n : Nat) : (s.countWrap r i n).nwQ = s.nwQ := rfl
@[simp] theorem countWrap_hostWins (r : Reg) (i n : Nat) : (s.countWrap r i n).hostWins = s.hostWins := rfl
@[simp] theorem countWrap_wcopies (r : Reg) (i n : Nat) : (s.countWrap r i n).wcopies = s.wcopies := rfl
@[simp] theorem countWrap_fresh (r : Reg) (i n : Nat) : (s.countWrap r i n).fresh = s.fresh := rfl
@[simp] theorem countWrap_out (r : Reg) (i n : Nat) : (s.countWrap r i n).out = s.out := rfl
@[simp] theorem countWrap_pending (r : Reg) (i n : Nat) : (s.countWrap r i n).pending = s.pending := rfl

@[simp] theorem setQ_regs (c e : Nat) (x : EngQ) : (s.setQ c e x).regs = s.regs := rfl
@[simp] theorem setQ_regsM (c e : Nat) (x : EngQ) : (s.setQ c e x).regsM = s.regsM := rfl
@[simp] theorem setQ_mem (c e : Nat) (x : EngQ) : (s.setQ c e x).mem = s.mem := rfl
@[simp] theorem setQ_hostMem (c e : Nat) (x : EngQ) : (s.setQ c e x).hostMem = s.hostMem := rfl
@[simp] theorem setQ_clusters (c e : Nat) (x : EngQ) : (s.setQ c e x).clusters = s.clusters := rfl
@[simp] theorem setQ_dies (c e : Nat) (x : EngQ) : (s.setQ c e x).dies = s.dies := rfl
@[simp] theorem setQ_ctrls (c e : Nat) (x : EngQ) : (s.setQ c e x).ctrls = s.ctrls := rfl
@[simp] theorem setQ_parts (c e : Nat) (x : EngQ) : (s.setQ c e x).parts = s.parts := rfl
@[simp] theorem setQ_fab (c e : Nat) (x : EngQ) : (s.setQ c e x).fab = s.fab := rfl
@[simp] theorem setQ_snap (c e : Nat) (x : EngQ) : (s.setQ c e x).snap = s.snap := rfl
@[simp] theorem setQ_recov (c e : Nat) (x : EngQ) : (s.setQ c e x).recov = s.recov := rfl
@[simp] theorem setQ_hif (c e : Nat) (x : EngQ) : (s.setQ c e x).hif = s.hif := rfl
@[simp] theorem setQ_chip (c e : Nat) (x : EngQ) : (s.setQ c e x).chip = s.chip := rfl
@[simp] theorem setQ_nw (c e : Nat) (x : EngQ) : (s.setQ c e x).nw = s.nw := rfl
@[simp] theorem setQ_nwLoaded (c e : Nat) (x : EngQ) : (s.setQ c e x).nwLoaded = s.nwLoaded := rfl
@[simp] theorem setQ_nwSeen (c e : Nat) (x : EngQ) : (s.setQ c e x).nwSeen = s.nwSeen := rfl
@[simp] theorem setQ_nwQ (c e : Nat) (x : EngQ) : (s.setQ c e x).nwQ = s.nwQ := rfl
@[simp] theorem setQ_hostWins (c e : Nat) (x : EngQ) : (s.setQ c e x).hostWins = s.hostWins := rfl
@[simp] theorem setQ_wcopies (c e : Nat) (x : EngQ) : (s.setQ c e x).wcopies = s.wcopies := rfl
@[simp] theorem setQ_fresh (c e : Nat) (x : EngQ) : (s.setQ c e x).fresh = s.fresh := rfl
@[simp] theorem setQ_out (c e : Nat) (x : EngQ) : (s.setQ c e x).out = s.out := rfl
@[simp] theorem setQ_pending (c e : Nat) (x : EngQ) : (s.setQ c e x).pending = s.pending := rfl

@[simp] theorem modQ_regs (c e : Nat) (f : EngQ → EngQ) : (s.modQ c e f).regs = s.regs := rfl
@[simp] theorem modQ_regsM (c e : Nat) (f : EngQ → EngQ) : (s.modQ c e f).regsM = s.regsM := rfl
@[simp] theorem modQ_mem (c e : Nat) (f : EngQ → EngQ) : (s.modQ c e f).mem = s.mem := rfl
@[simp] theorem modQ_hostMem (c e : Nat) (f : EngQ → EngQ) : (s.modQ c e f).hostMem = s.hostMem := rfl
@[simp] theorem modQ_clusters (c e : Nat) (f : EngQ → EngQ) : (s.modQ c e f).clusters = s.clusters := rfl
@[simp] theorem modQ_dies (c e : Nat) (f : EngQ → EngQ) : (s.modQ c e f).dies = s.dies := rfl
@[simp] theorem modQ_ctrls (c e : Nat) (f : EngQ → EngQ) : (s.modQ c e f).ctrls = s.ctrls := rfl
@[simp] theorem modQ_parts (c e : Nat) (f : EngQ → EngQ) : (s.modQ c e f).parts = s.parts := rfl
@[simp] theorem modQ_fab (c e : Nat) (f : EngQ → EngQ) : (s.modQ c e f).fab = s.fab := rfl
@[simp] theorem modQ_snap (c e : Nat) (f : EngQ → EngQ) : (s.modQ c e f).snap = s.snap := rfl
@[simp] theorem modQ_recov (c e : Nat) (f : EngQ → EngQ) : (s.modQ c e f).recov = s.recov := rfl
@[simp] theorem modQ_hif (c e : Nat) (f : EngQ → EngQ) : (s.modQ c e f).hif = s.hif := rfl
@[simp] theorem modQ_chip (c e : Nat) (f : EngQ → EngQ) : (s.modQ c e f).chip = s.chip := rfl
@[simp] theorem modQ_nw (c e : Nat) (f : EngQ → EngQ) : (s.modQ c e f).nw = s.nw := rfl
@[simp] theorem modQ_nwLoaded (c e : Nat) (f : EngQ → EngQ) : (s.modQ c e f).nwLoaded = s.nwLoaded := rfl
@[simp] theorem modQ_nwSeen (c e : Nat) (f : EngQ → EngQ) : (s.modQ c e f).nwSeen = s.nwSeen := rfl
@[simp] theorem modQ_nwQ (c e : Nat) (f : EngQ → EngQ) : (s.modQ c e f).nwQ = s.nwQ := rfl
@[simp] theorem modQ_hostWins (c e : Nat) (f : EngQ → EngQ) : (s.modQ c e f).hostWins = s.hostWins := rfl
@[simp] theorem modQ_wcopies (c e : Nat) (f : EngQ → EngQ) : (s.modQ c e f).wcopies = s.wcopies := rfl
@[simp] theorem modQ_fresh (c e : Nat) (f : EngQ → EngQ) : (s.modQ c e f).fresh = s.fresh := rfl
@[simp] theorem modQ_out (c e : Nat) (f : EngQ → EngQ) : (s.modQ c e f).out = s.out := rfl
@[simp] theorem modQ_pending (c e : Nat) (f : EngQ → EngQ) : (s.modQ c e f).pending = s.pending := rfl

@[simp] theorem modTok_regs (c e t : Nat) (f : Tok → Tok) : (s.modTok c e t f).regs = s.regs := rfl
@[simp] theorem modTok_regsM (c e t : Nat) (f : Tok → Tok) : (s.modTok c e t f).regsM = s.regsM := rfl
@[simp] theorem modTok_mem (c e t : Nat) (f : Tok → Tok) : (s.modTok c e t f).mem = s.mem := rfl
@[simp] theorem modTok_hostMem (c e t : Nat) (f : Tok → Tok) : (s.modTok c e t f).hostMem = s.hostMem := rfl
@[simp] theorem modTok_clusters (c e t : Nat) (f : Tok → Tok) : (s.modTok c e t f).clusters = s.clusters := rfl
@[simp] theorem modTok_dies (c e t : Nat) (f : Tok → Tok) : (s.modTok c e t f).dies = s.dies := rfl
@[simp] theorem modTok_ctrls (c e t : Nat) (f : Tok → Tok) : (s.modTok c e t f).ctrls = s.ctrls := rfl
@[simp] theorem modTok_parts (c e t : Nat) (f : Tok → Tok) : (s.modTok c e t f).parts = s.parts := rfl
@[simp] theorem modTok_fab (c e t : Nat) (f : Tok → Tok) : (s.modTok c e t f).fab = s.fab := rfl
@[simp] theorem modTok_snap (c e t : Nat) (f : Tok → Tok) : (s.modTok c e t f).snap = s.snap := rfl
@[simp] theorem modTok_recov (c e t : Nat) (f : Tok → Tok) : (s.modTok c e t f).recov = s.recov := rfl
@[simp] theorem modTok_hif (c e t : Nat) (f : Tok → Tok) : (s.modTok c e t f).hif = s.hif := rfl
@[simp] theorem modTok_chip (c e t : Nat) (f : Tok → Tok) : (s.modTok c e t f).chip = s.chip := rfl
@[simp] theorem modTok_nw (c e t : Nat) (f : Tok → Tok) : (s.modTok c e t f).nw = s.nw := rfl
@[simp] theorem modTok_nwLoaded (c e t : Nat) (f : Tok → Tok) : (s.modTok c e t f).nwLoaded = s.nwLoaded := rfl
@[simp] theorem modTok_nwSeen (c e t : Nat) (f : Tok → Tok) : (s.modTok c e t f).nwSeen = s.nwSeen := rfl
@[simp] theorem modTok_nwQ (c e t : Nat) (f : Tok → Tok) : (s.modTok c e t f).nwQ = s.nwQ := rfl
@[simp] theorem modTok_hostWins (c e t : Nat) (f : Tok → Tok) : (s.modTok c e t f).hostWins = s.hostWins := rfl
@[simp] theorem modTok_wcopies (c e t : Nat) (f : Tok → Tok) : (s.modTok c e t f).wcopies = s.wcopies := rfl
@[simp] theorem modTok_fresh (c e t : Nat) (f : Tok → Tok) : (s.modTok c e t f).fresh = s.fresh := rfl
@[simp] theorem modTok_out (c e t : Nat) (f : Tok → Tok) : (s.modTok c e t f).out = s.out := rfl
@[simp] theorem modTok_pending (c e t : Nat) (f : Tok → Tok) : (s.modTok c e t f).pending = s.pending := rfl

@[simp] theorem holdCore_regs (c k e : Nat) (st : Status) : (s.holdCore c k e st).regs = s.regs := rfl
@[simp] theorem holdCore_regsM (c k e : Nat) (st : Status) : (s.holdCore c k e st).regsM = s.regsM := rfl
@[simp] theorem holdCore_mem (c k e : Nat) (st : Status) : (s.holdCore c k e st).mem = s.mem := rfl
@[simp] theorem holdCore_hostMem (c k e : Nat) (st : Status) : (s.holdCore c k e st).hostMem = s.hostMem := rfl
@[simp] theorem holdCore_clusters (c k e : Nat) (st : Status) : (s.holdCore c k e st).clusters = s.clusters := rfl
@[simp] theorem holdCore_dies (c k e : Nat) (st : Status) : (s.holdCore c k e st).dies = s.dies := rfl
@[simp] theorem holdCore_ctrls (c k e : Nat) (st : Status) : (s.holdCore c k e st).ctrls = s.ctrls := rfl
@[simp] theorem holdCore_parts (c k e : Nat) (st : Status) : (s.holdCore c k e st).parts = s.parts := rfl
@[simp] theorem holdCore_fab (c k e : Nat) (st : Status) : (s.holdCore c k e st).fab = s.fab := rfl
@[simp] theorem holdCore_snap (c k e : Nat) (st : Status) : (s.holdCore c k e st).snap = s.snap := rfl
@[simp] theorem holdCore_recov (c k e : Nat) (st : Status) : (s.holdCore c k e st).recov = s.recov := rfl
@[simp] theorem holdCore_hif (c k e : Nat) (st : Status) : (s.holdCore c k e st).hif = s.hif := rfl
@[simp] theorem holdCore_chip (c k e : Nat) (st : Status) : (s.holdCore c k e st).chip = s.chip := rfl
@[simp] theorem holdCore_nw (c k e : Nat) (st : Status) : (s.holdCore c k e st).nw = s.nw := rfl
@[simp] theorem holdCore_nwLoaded (c k e : Nat) (st : Status) : (s.holdCore c k e st).nwLoaded = s.nwLoaded := rfl
@[simp] theorem holdCore_nwSeen (c k e : Nat) (st : Status) : (s.holdCore c k e st).nwSeen = s.nwSeen := rfl
@[simp] theorem holdCore_nwQ (c k e : Nat) (st : Status) : (s.holdCore c k e st).nwQ = s.nwQ := rfl
@[simp] theorem holdCore_hostWins (c k e : Nat) (st : Status) : (s.holdCore c k e st).hostWins = s.hostWins := rfl
@[simp] theorem holdCore_wcopies (c k e : Nat) (st : Status) : (s.holdCore c k e st).wcopies = s.wcopies := rfl
@[simp] theorem holdCore_fresh (c k e : Nat) (st : Status) : (s.holdCore c k e st).fresh = s.fresh := rfl
@[simp] theorem holdCore_out (c k e : Nat) (st : Status) : (s.holdCore c k e st).out = s.out := rfl
@[simp] theorem holdCore_pending (c k e : Nat) (st : Status) : (s.holdCore c k e st).pending = s.pending := rfl

@[simp] theorem emit_regs (o : OutMsg) : (s.emit o).regs = s.regs := rfl
@[simp] theorem emit_regsM (o : OutMsg) : (s.emit o).regsM = s.regsM := rfl
@[simp] theorem emit_mem (o : OutMsg) : (s.emit o).mem = s.mem := rfl
@[simp] theorem emit_hostMem (o : OutMsg) : (s.emit o).hostMem = s.hostMem := rfl
@[simp] theorem emit_cores (o : OutMsg) : (s.emit o).cores = s.cores := rfl
@[simp] theorem emit_clusters (o : OutMsg) : (s.emit o).clusters = s.clusters := rfl
@[simp] theorem emit_dies (o : OutMsg) : (s.emit o).dies = s.dies := rfl
@[simp] theorem emit_ctrls (o : OutMsg) : (s.emit o).ctrls = s.ctrls := rfl
@[simp] theorem emit_parts (o : OutMsg) : (s.emit o).parts = s.parts := rfl
@[simp] theorem emit_fab (o : OutMsg) : (s.emit o).fab = s.fab := rfl
@[simp] theorem emit_snap (o : OutMsg) : (s.emit o).snap = s.snap := rfl
@[simp] theorem emit_recov (o : OutMsg) : (s.emit o).recov = s.recov := rfl
@[simp] theorem emit_hif (o : OutMsg) : (s.emit o).hif = s.hif := rfl
@[simp] theorem emit_chip (o : OutMsg) : (s.emit o).chip = s.chip := rfl
@[simp] theorem emit_nw (o : OutMsg) : (s.emit o).nw = s.nw := rfl
@[simp] theorem emit_nwLoaded (o : OutMsg) : (s.emit o).nwLoaded = s.nwLoaded := rfl
@[simp] theorem emit_nwSeen (o : OutMsg) : (s.emit o).nwSeen = s.nwSeen := rfl
@[simp] theorem emit_nwQ (o : OutMsg) : (s.emit o).nwQ = s.nwQ := rfl
@[simp] theorem emit_hostWins (o : OutMsg) : (s.emit o).hostWins = s.hostWins := rfl
@[simp] theorem emit_wcopies (o : OutMsg) : (s.emit o).wcopies = s.wcopies := rfl
@[simp] theorem emit_fresh (o : OutMsg) : (s.emit o).fresh = s.fresh := rfl
@[simp] theorem emit_pending (o : OutMsg) : (s.emit o).pending = s.pending := rfl

@[simp] theorem modHif_regs (f : HostIf → HostIf) : (s.modHif f).regs = s.regs := rfl
@[simp] theorem modHif_regsM (f : HostIf → HostIf) : (s.modHif f).regsM = s.regsM := rfl
@[simp] theorem modHif_mem (f : HostIf → HostIf) : (s.modHif f).mem = s.mem := rfl
@[simp] theorem modHif_hostMem (f : HostIf → HostIf) : (s.modHif f).hostMem = s.hostMem := rfl
@[simp] theorem modHif_cores (f : HostIf → HostIf) : (s.modHif f).cores = s.cores := rfl
@[simp] theorem modHif_clusters (f : HostIf → HostIf) : (s.modHif f).clusters = s.clusters := rfl
@[simp] theorem modHif_dies (f : HostIf → HostIf) : (s.modHif f).dies = s.dies := rfl
@[simp] theorem modHif_ctrls (f : HostIf → HostIf) : (s.modHif f).ctrls = s.ctrls := rfl
@[simp] theorem modHif_parts (f : HostIf → HostIf) : (s.modHif f).parts = s.parts := rfl
@[simp] theorem modHif_fab (f : HostIf → HostIf) : (s.modHif f).fab = s.fab := rfl
@[simp] theorem modHif_snap (f : HostIf → HostIf) : (s.modHif f).snap = s.snap := rfl
@[simp] theorem modHif_recov (f : HostIf → HostIf) : (s.modHif f).recov = s.recov := rfl
@[simp] theorem modHif_chip (f : HostIf → HostIf) : (s.modHif f).chip = s.chip := rfl
@[simp] theorem modHif_nw (f : HostIf → HostIf) : (s.modHif f).nw = s.nw := rfl
@[simp] theorem modHif_nwLoaded (f : HostIf → HostIf) : (s.modHif f).nwLoaded = s.nwLoaded := rfl
@[simp] theorem modHif_nwSeen (f : HostIf → HostIf) : (s.modHif f).nwSeen = s.nwSeen := rfl
@[simp] theorem modHif_nwQ (f : HostIf → HostIf) : (s.modHif f).nwQ = s.nwQ := rfl
@[simp] theorem modHif_hostWins (f : HostIf → HostIf) : (s.modHif f).hostWins = s.hostWins := rfl
@[simp] theorem modHif_wcopies (f : HostIf → HostIf) : (s.modHif f).wcopies = s.wcopies := rfl
@[simp] theorem modHif_fresh (f : HostIf → HostIf) : (s.modHif f).fresh = s.fresh := rfl
@[simp] theorem modHif_out (f : HostIf → HostIf) : (s.modHif f).out = s.out := rfl
@[simp] theorem modHif_pending (f : HostIf → HostIf) : (s.modHif f).pending = s.pending := rfl

@[simp] theorem modRing_regs (r : Nat) (f : RingQ → RingQ) : (s.modRing r f).regs = s.regs := rfl
@[simp] theorem modRing_regsM (r : Nat) (f : RingQ → RingQ) : (s.modRing r f).regsM = s.regsM := rfl
@[simp] theorem modRing_mem (r : Nat) (f : RingQ → RingQ) : (s.modRing r f).mem = s.mem := rfl
@[simp] theorem modRing_hostMem (r : Nat) (f : RingQ → RingQ) : (s.modRing r f).hostMem = s.hostMem := rfl
@[simp] theorem modRing_cores (r : Nat) (f : RingQ → RingQ) : (s.modRing r f).cores = s.cores := rfl
@[simp] theorem modRing_clusters (r : Nat) (f : RingQ → RingQ) : (s.modRing r f).clusters = s.clusters := rfl
@[simp] theorem modRing_dies (r : Nat) (f : RingQ → RingQ) : (s.modRing r f).dies = s.dies := rfl
@[simp] theorem modRing_ctrls (r : Nat) (f : RingQ → RingQ) : (s.modRing r f).ctrls = s.ctrls := rfl
@[simp] theorem modRing_parts (r : Nat) (f : RingQ → RingQ) : (s.modRing r f).parts = s.parts := rfl
@[simp] theorem modRing_fab (r : Nat) (f : RingQ → RingQ) : (s.modRing r f).fab = s.fab := rfl
@[simp] theorem modRing_snap (r : Nat) (f : RingQ → RingQ) : (s.modRing r f).snap = s.snap := rfl
@[simp] theorem modRing_recov (r : Nat) (f : RingQ → RingQ) : (s.modRing r f).recov = s.recov := rfl
@[simp] theorem modRing_chip (r : Nat) (f : RingQ → RingQ) : (s.modRing r f).chip = s.chip := rfl
@[simp] theorem modRing_nw (r : Nat) (f : RingQ → RingQ) : (s.modRing r f).nw = s.nw := rfl
@[simp] theorem modRing_nwLoaded (r : Nat) (f : RingQ → RingQ) : (s.modRing r f).nwLoaded = s.nwLoaded := rfl
@[simp] theorem modRing_nwSeen (r : Nat) (f : RingQ → RingQ) : (s.modRing r f).nwSeen = s.nwSeen := rfl
@[simp] theorem modRing_nwQ (r : Nat) (f : RingQ → RingQ) : (s.modRing r f).nwQ = s.nwQ := rfl
@[simp] theorem modRing_hostWins (r : Nat) (f : RingQ → RingQ) : (s.modRing r f).hostWins = s.hostWins := rfl
@[simp] theorem modRing_wcopies (r : Nat) (f : RingQ → RingQ) : (s.modRing r f).wcopies = s.wcopies := rfl
@[simp] theorem modRing_fresh (r : Nat) (f : RingQ → RingQ) : (s.modRing r f).fresh = s.fresh := rfl
@[simp] theorem modRing_out (r : Nat) (f : RingQ → RingQ) : (s.modRing r f).out = s.out := rfl
@[simp] theorem modRing_pending (r : Nat) (f : RingQ → RingQ) : (s.modRing r f).pending = s.pending := rfl

@[simp] theorem complete_regs (r : Nat) (x : Compl) : (s.complete r x).regs = s.regs := rfl
@[simp] theorem complete_regsM (r : Nat) (x : Compl) : (s.complete r x).regsM = s.regsM := rfl
@[simp] theorem complete_mem (r : Nat) (x : Compl) : (s.complete r x).mem = s.mem := rfl
@[simp] theorem complete_hostMem (r : Nat) (x : Compl) : (s.complete r x).hostMem = s.hostMem := rfl
@[simp] theorem complete_cores (r : Nat) (x : Compl) : (s.complete r x).cores = s.cores := rfl
@[simp] theorem complete_clusters (r : Nat) (x : Compl) : (s.complete r x).clusters = s.clusters := rfl
@[simp] theorem complete_dies (r : Nat) (x : Compl) : (s.complete r x).dies = s.dies := rfl
@[simp] theorem complete_ctrls (r : Nat) (x : Compl) : (s.complete r x).ctrls = s.ctrls := rfl
@[simp] theorem complete_parts (r : Nat) (x : Compl) : (s.complete r x).parts = s.parts := rfl
@[simp] theorem complete_fab (r : Nat) (x : Compl) : (s.complete r x).fab = s.fab := rfl
@[simp] theorem complete_snap (r : Nat) (x : Compl) : (s.complete r x).snap = s.snap := rfl
@[simp] theorem complete_recov (r : Nat) (x : Compl) : (s.complete r x).recov = s.recov := rfl
@[simp] theorem complete_chip (r : Nat) (x : Compl) : (s.complete r x).chip = s.chip := rfl
@[simp] theorem complete_nw (r : Nat) (x : Compl) : (s.complete r x).nw = s.nw := rfl
@[simp] theorem complete_nwLoaded (r : Nat) (x : Compl) : (s.complete r x).nwLoaded = s.nwLoaded := rfl
@[simp] theorem complete_nwSeen (r : Nat) (x : Compl) : (s.complete r x).nwSeen = s.nwSeen := rfl
@[simp] theorem complete_nwQ (r : Nat) (x : Compl) : (s.complete r x).nwQ = s.nwQ := rfl
@[simp] theorem complete_hostWins (r : Nat) (x : Compl) : (s.complete r x).hostWins = s.hostWins := rfl
@[simp] theorem complete_wcopies (r : Nat) (x : Compl) : (s.complete r x).wcopies = s.wcopies := rfl
@[simp] theorem complete_fresh (r : Nat) (x : Compl) : (s.complete r x).fresh = s.fresh := rfl
@[simp] theorem complete_out (r : Nat) (x : Compl) : (s.complete r x).out = s.out := rfl
@[simp] theorem complete_pending (r : Nat) (x : Compl) : (s.complete r x).pending = s.pending := rfl

@[simp] theorem setVec_regs (a v : Nat) (x : Vec) : (s.setVec a v x).regs = s.regs := rfl
@[simp] theorem setVec_regsM (a v : Nat) (x : Vec) : (s.setVec a v x).regsM = s.regsM := rfl
@[simp] theorem setVec_mem (a v : Nat) (x : Vec) : (s.setVec a v x).mem = s.mem := rfl
@[simp] theorem setVec_hostMem (a v : Nat) (x : Vec) : (s.setVec a v x).hostMem = s.hostMem := rfl
@[simp] theorem setVec_cores (a v : Nat) (x : Vec) : (s.setVec a v x).cores = s.cores := rfl
@[simp] theorem setVec_clusters (a v : Nat) (x : Vec) : (s.setVec a v x).clusters = s.clusters := rfl
@[simp] theorem setVec_dies (a v : Nat) (x : Vec) : (s.setVec a v x).dies = s.dies := rfl
@[simp] theorem setVec_ctrls (a v : Nat) (x : Vec) : (s.setVec a v x).ctrls = s.ctrls := rfl
@[simp] theorem setVec_parts (a v : Nat) (x : Vec) : (s.setVec a v x).parts = s.parts := rfl
@[simp] theorem setVec_fab (a v : Nat) (x : Vec) : (s.setVec a v x).fab = s.fab := rfl
@[simp] theorem setVec_snap (a v : Nat) (x : Vec) : (s.setVec a v x).snap = s.snap := rfl
@[simp] theorem setVec_recov (a v : Nat) (x : Vec) : (s.setVec a v x).recov = s.recov := rfl
@[simp] theorem setVec_chip (a v : Nat) (x : Vec) : (s.setVec a v x).chip = s.chip := rfl
@[simp] theorem setVec_nw (a v : Nat) (x : Vec) : (s.setVec a v x).nw = s.nw := rfl
@[simp] theorem setVec_nwLoaded (a v : Nat) (x : Vec) : (s.setVec a v x).nwLoaded = s.nwLoaded := rfl
@[simp] theorem setVec_nwSeen (a v : Nat) (x : Vec) : (s.setVec a v x).nwSeen = s.nwSeen := rfl
@[simp] theorem setVec_nwQ (a v : Nat) (x : Vec) : (s.setVec a v x).nwQ = s.nwQ := rfl
@[simp] theorem setVec_hostWins (a v : Nat) (x : Vec) : (s.setVec a v x).hostWins = s.hostWins := rfl
@[simp] theorem setVec_wcopies (a v : Nat) (x : Vec) : (s.setVec a v x).wcopies = s.wcopies := rfl
@[simp] theorem setVec_fresh (a v : Nat) (x : Vec) : (s.setVec a v x).fresh = s.fresh := rfl
@[simp] theorem setVec_out (a v : Nat) (x : Vec) : (s.setVec a v x).out = s.out := rfl
@[simp] theorem setVec_pending (a v : Nat) (x : Vec) : (s.setVec a v x).pending = s.pending := rfl

@[simp] theorem setWin_regs (w : Nat) (x : Option PWin) : (s.setWin w x).regs = s.regs := rfl
@[simp] theorem setWin_regsM (w : Nat) (x : Option PWin) : (s.setWin w x).regsM = s.regsM := rfl
@[simp] theorem setWin_mem (w : Nat) (x : Option PWin) : (s.setWin w x).mem = s.mem := rfl
@[simp] theorem setWin_hostMem (w : Nat) (x : Option PWin) : (s.setWin w x).hostMem = s.hostMem := rfl
@[simp] theorem setWin_cores (w : Nat) (x : Option PWin) : (s.setWin w x).cores = s.cores := rfl
@[simp] theorem setWin_clusters (w : Nat) (x : Option PWin) : (s.setWin w x).clusters = s.clusters := rfl
@[simp] theorem setWin_dies (w : Nat) (x : Option PWin) : (s.setWin w x).dies = s.dies := rfl
@[simp] theorem setWin_ctrls (w : Nat) (x : Option PWin) : (s.setWin w x).ctrls = s.ctrls := rfl
@[simp] theorem setWin_parts (w : Nat) (x : Option PWin) : (s.setWin w x).parts = s.parts := rfl
@[simp] theorem setWin_fab (w : Nat) (x : Option PWin) : (s.setWin w x).fab = s.fab := rfl
@[simp] theorem setWin_snap (w : Nat) (x : Option PWin) : (s.setWin w x).snap = s.snap := rfl
@[simp] theorem setWin_recov (w : Nat) (x : Option PWin) : (s.setWin w x).recov = s.recov := rfl
@[simp] theorem setWin_chip (w : Nat) (x : Option PWin) : (s.setWin w x).chip = s.chip := rfl
@[simp] theorem setWin_nw (w : Nat) (x : Option PWin) : (s.setWin w x).nw = s.nw := rfl
@[simp] theorem setWin_nwLoaded (w : Nat) (x : Option PWin) : (s.setWin w x).nwLoaded = s.nwLoaded := rfl
@[simp] theorem setWin_nwSeen (w : Nat) (x : Option PWin) : (s.setWin w x).nwSeen = s.nwSeen := rfl
@[simp] theorem setWin_nwQ (w : Nat) (x : Option PWin) : (s.setWin w x).nwQ = s.nwQ := rfl
@[simp] theorem setWin_hostWins (w : Nat) (x : Option PWin) : (s.setWin w x).hostWins = s.hostWins := rfl
@[simp] theorem setWin_wcopies (w : Nat) (x : Option PWin) : (s.setWin w x).wcopies = s.wcopies := rfl
@[simp] theorem setWin_fresh (w : Nat) (x : Option PWin) : (s.setWin w x).fresh = s.fresh := rfl
@[simp] theorem setWin_out (w : Nat) (x : Option PWin) : (s.setWin w x).out = s.out := rfl
@[simp] theorem setWin_pending (w : Nat) (x : Option PWin) : (s.setWin w x).pending = s.pending := rfl

@[simp] theorem modChip_regs (f : Chip → Chip) : (s.modChip f).regs = s.regs := rfl
@[simp] theorem modChip_regsM (f : Chip → Chip) : (s.modChip f).regsM = s.regsM := rfl
@[simp] theorem modChip_mem (f : Chip → Chip) : (s.modChip f).mem = s.mem := rfl
@[simp] theorem modChip_hostMem (f : Chip → Chip) : (s.modChip f).hostMem = s.hostMem := rfl
@[simp] theorem modChip_cores (f : Chip → Chip) : (s.modChip f).cores = s.cores := rfl
@[simp] theorem modChip_clusters (f : Chip → Chip) : (s.modChip f).clusters = s.clusters := rfl
@[simp] theorem modChip_dies (f : Chip → Chip) : (s.modChip f).dies = s.dies := rfl
@[simp] theorem modChip_ctrls (f : Chip → Chip) : (s.modChip f).ctrls = s.ctrls := rfl
@[simp] theorem modChip_parts (f : Chip → Chip) : (s.modChip f).parts = s.parts := rfl
@[simp] theorem modChip_fab (f : Chip → Chip) : (s.modChip f).fab = s.fab := rfl
@[simp] theorem modChip_snap (f : Chip → Chip) : (s.modChip f).snap = s.snap := rfl
@[simp] theorem modChip_recov (f : Chip → Chip) : (s.modChip f).recov = s.recov := rfl
@[simp] theorem modChip_hif (f : Chip → Chip) : (s.modChip f).hif = s.hif := rfl
@[simp] theorem modChip_nw (f : Chip → Chip) : (s.modChip f).nw = s.nw := rfl
@[simp] theorem modChip_nwLoaded (f : Chip → Chip) : (s.modChip f).nwLoaded = s.nwLoaded := rfl
@[simp] theorem modChip_nwSeen (f : Chip → Chip) : (s.modChip f).nwSeen = s.nwSeen := rfl
@[simp] theorem modChip_nwQ (f : Chip → Chip) : (s.modChip f).nwQ = s.nwQ := rfl
@[simp] theorem modChip_hostWins (f : Chip → Chip) : (s.modChip f).hostWins = s.hostWins := rfl
@[simp] theorem modChip_wcopies (f : Chip → Chip) : (s.modChip f).wcopies = s.wcopies := rfl
@[simp] theorem modChip_fresh (f : Chip → Chip) : (s.modChip f).fresh = s.fresh := rfl
@[simp] theorem modChip_out (f : Chip → Chip) : (s.modChip f).out = s.out := rfl
@[simp] theorem modChip_pending (f : Chip → Chip) : (s.modChip f).pending = s.pending := rfl

@[simp] theorem modRecov_regs (f : Recov → Recov) : (s.modRecov f).regs = s.regs := rfl
@[simp] theorem modRecov_regsM (f : Recov → Recov) : (s.modRecov f).regsM = s.regsM := rfl
@[simp] theorem modRecov_mem (f : Recov → Recov) : (s.modRecov f).mem = s.mem := rfl
@[simp] theorem modRecov_hostMem (f : Recov → Recov) : (s.modRecov f).hostMem = s.hostMem := rfl
@[simp] theorem modRecov_cores (f : Recov → Recov) : (s.modRecov f).cores = s.cores := rfl
@[simp] theorem modRecov_clusters (f : Recov → Recov) : (s.modRecov f).clusters = s.clusters := rfl
@[simp] theorem modRecov_dies (f : Recov → Recov) : (s.modRecov f).dies = s.dies := rfl
@[simp] theorem modRecov_ctrls (f : Recov → Recov) : (s.modRecov f).ctrls = s.ctrls := rfl
@[simp] theorem modRecov_parts (f : Recov → Recov) : (s.modRecov f).parts = s.parts := rfl
@[simp] theorem modRecov_fab (f : Recov → Recov) : (s.modRecov f).fab = s.fab := rfl
@[simp] theorem modRecov_snap (f : Recov → Recov) : (s.modRecov f).snap = s.snap := rfl
@[simp] theorem modRecov_hif (f : Recov → Recov) : (s.modRecov f).hif = s.hif := rfl
@[simp] theorem modRecov_chip (f : Recov → Recov) : (s.modRecov f).chip = s.chip := rfl
@[simp] theorem modRecov_nw (f : Recov → Recov) : (s.modRecov f).nw = s.nw := rfl
@[simp] theorem modRecov_nwLoaded (f : Recov → Recov) : (s.modRecov f).nwLoaded = s.nwLoaded := rfl
@[simp] theorem modRecov_nwSeen (f : Recov → Recov) : (s.modRecov f).nwSeen = s.nwSeen := rfl
@[simp] theorem modRecov_nwQ (f : Recov → Recov) : (s.modRecov f).nwQ = s.nwQ := rfl
@[simp] theorem modRecov_hostWins (f : Recov → Recov) : (s.modRecov f).hostWins = s.hostWins := rfl
@[simp] theorem modRecov_wcopies (f : Recov → Recov) : (s.modRecov f).wcopies = s.wcopies := rfl
@[simp] theorem modRecov_fresh (f : Recov → Recov) : (s.modRecov f).fresh = s.fresh := rfl
@[simp] theorem modRecov_out (f : Recov → Recov) : (s.modRecov f).out = s.out := rfl
@[simp] theorem modRecov_pending (f : Recov → Recov) : (s.modRecov f).pending = s.pending := rfl

@[simp] theorem modFab_regs (f : Fab → Fab) : (s.modFab f).regs = s.regs := rfl
@[simp] theorem modFab_regsM (f : Fab → Fab) : (s.modFab f).regsM = s.regsM := rfl
@[simp] theorem modFab_mem (f : Fab → Fab) : (s.modFab f).mem = s.mem := rfl
@[simp] theorem modFab_hostMem (f : Fab → Fab) : (s.modFab f).hostMem = s.hostMem := rfl
@[simp] theorem modFab_cores (f : Fab → Fab) : (s.modFab f).cores = s.cores := rfl
@[simp] theorem modFab_clusters (f : Fab → Fab) : (s.modFab f).clusters = s.clusters := rfl
@[simp] theorem modFab_dies (f : Fab → Fab) : (s.modFab f).dies = s.dies := rfl
@[simp] theorem modFab_ctrls (f : Fab → Fab) : (s.modFab f).ctrls = s.ctrls := rfl
@[simp] theorem modFab_parts (f : Fab → Fab) : (s.modFab f).parts = s.parts := rfl
@[simp] theorem modFab_snap (f : Fab → Fab) : (s.modFab f).snap = s.snap := rfl
@[simp] theorem modFab_recov (f : Fab → Fab) : (s.modFab f).recov = s.recov := rfl
@[simp] theorem modFab_hif (f : Fab → Fab) : (s.modFab f).hif = s.hif := rfl
@[simp] theorem modFab_chip (f : Fab → Fab) : (s.modFab f).chip = s.chip := rfl
@[simp] theorem modFab_nw (f : Fab → Fab) : (s.modFab f).nw = s.nw := rfl
@[simp] theorem modFab_nwLoaded (f : Fab → Fab) : (s.modFab f).nwLoaded = s.nwLoaded := rfl
@[simp] theorem modFab_nwSeen (f : Fab → Fab) : (s.modFab f).nwSeen = s.nwSeen := rfl
@[simp] theorem modFab_nwQ (f : Fab → Fab) : (s.modFab f).nwQ = s.nwQ := rfl
@[simp] theorem modFab_hostWins (f : Fab → Fab) : (s.modFab f).hostWins = s.hostWins := rfl
@[simp] theorem modFab_wcopies (f : Fab → Fab) : (s.modFab f).wcopies = s.wcopies := rfl
@[simp] theorem modFab_fresh (f : Fab → Fab) : (s.modFab f).fresh = s.fresh := rfl
@[simp] theorem modFab_out (f : Fab → Fab) : (s.modFab f).out = s.out := rfl
@[simp] theorem modFab_pending (f : Fab → Fab) : (s.modFab f).pending = s.pending := rfl

/-! Parts that an update leaves alone. -/

@[simp] theorem core_setCluster (i : Nat) (i' : Nat) (x' : Cluster) : (s.setCluster i' x').core i = s.core i := rfl
@[simp] theorem core_modCluster (i : Nat) (i' : Nat) (f' : Cluster → Cluster) : (s.modCluster i' f').core i = s.core i := rfl
@[simp] theorem core_modChn (i : Nat) (i' : Nat) (f' : Chanter → Chanter) : (s.modChn i' f').core i = s.core i := rfl
@[simp] theorem core_modKv (i : Nat) (i' : Nat) (f' : Halyard → Halyard) : (s.modKv i' f').core i = s.core i := rfl
@[simp] theorem core_setDie (i : Nat) (i' : Nat) (x' : Die) : (s.setDie i' x').core i = s.core i := rfl
@[simp] theorem core_modDie (i : Nat) (i' : Nat) (f' : Die → Die) : (s.modDie i' f').core i = s.core i := rfl
@[simp] theorem core_setStay (i : Nat) (d' k' : Nat) (v' : Word) : (s.setStay d' k' v').core i = s.core i := rfl
@[simp] theorem core_putStartRec (i : Nat) (v' : Word) : (s.putStartRec v').core i = s.core i := rfl
@[simp] theorem core_setStartRec (i : Nat) (hi' lo' v' : Nat) : (s.setStartRec hi' lo' v').core i = s.core i := rfl
@[simp] theorem core_setEpochReg (i : Nat) (k' : Nat) (v' : Word) : (s.setEpochReg k' v').core i = s.core i := rfl
@[simp] theorem core_post (i : Nat) (d' : Nat) (c' : TCode) (a' b' : Word) : (s.post d' c' a' b').core i = s.core i := rfl
@[simp] theorem core_postMore (i : Nat) (d' : Nat) (c' : TCode) (a' b' : Word) (m' : List Word) : (s.postMore d' c' a' b' m').core i = s.core i := rfl
@[simp] theorem core_setPart (i : Nat) (i' : Nat) (x' : Part) : (s.setPart i' x').core i = s.core i := rfl
@[simp] theorem core_modPart (i : Nat) (i' : Nat) (f' : Part → Part) : (s.modPart i' f').core i = s.core i := rfl
@[simp] theorem core_wr (i : Nat) (r' : Reg) (i' : Nat) (v' : Word) : (s.wr r' i' v').core i = s.core i := rfl
@[simp] theorem core_setFld (i : Nat) (r' : Reg) (i' hi' lo' v' : Nat) : (s.setFld r' i' hi' lo' v').core i = s.core i := rfl
@[simp] theorem core_setFlag (i : Nat) (r' : Reg) (i' b' : Nat) : (s.setFlag r' i' b').core i = s.core i := rfl
@[simp] theorem core_clrFlag (i : Nat) (r' : Reg) (i' b' : Nat) : (s.clrFlag r' i' b').core i = s.core i := rfl
@[simp] theorem core_countSat (i : Nat) (r' : Reg) (i' n' : Nat) : (s.countSat r' i' n').core i = s.core i := rfl
@[simp] theorem core_countWrap (i : Nat) (r' : Reg) (i' n' : Nat) : (s.countWrap r' i' n').core i = s.core i := rfl
@[simp] theorem core_emit (i : Nat) (o' : OutMsg) : (s.emit o').core i = s.core i := rfl
@[simp] theorem core_modHif (i : Nat) (f' : HostIf → HostIf) : (s.modHif f').core i = s.core i := rfl
@[simp] theorem core_modRing (i : Nat) (r' : Nat) (f' : RingQ → RingQ) : (s.modRing r' f').core i = s.core i := rfl
@[simp] theorem core_complete (i : Nat) (r' : Nat) (x' : Compl) : (s.complete r' x').core i = s.core i := rfl
@[simp] theorem core_setVec (i : Nat) (a' v' : Nat) (x' : Vec) : (s.setVec a' v' x').core i = s.core i := rfl
@[simp] theorem core_setWin (i : Nat) (w' : Nat) (x' : Option PWin) : (s.setWin w' x').core i = s.core i := rfl
@[simp] theorem core_modChip (i : Nat) (f' : Chip → Chip) : (s.modChip f').core i = s.core i := rfl
@[simp] theorem core_modRecov (i : Nat) (f' : Recov → Recov) : (s.modRecov f').core i = s.core i := rfl
@[simp] theorem core_modFab (i : Nat) (f' : Fab → Fab) : (s.modFab f').core i = s.core i := rfl
@[simp] theorem q_setCluster (i j : Nat) (i' : Nat) (x' : Cluster) : (s.setCluster i' x').q i j = s.q i j := rfl
@[simp] theorem q_modCluster (i j : Nat) (i' : Nat) (f' : Cluster → Cluster) : (s.modCluster i' f').q i j = s.q i j := rfl
@[simp] theorem q_modChn (i j : Nat) (i' : Nat) (f' : Chanter → Chanter) : (s.modChn i' f').q i j = s.q i j := rfl
@[simp] theorem q_modKv (i j : Nat) (i' : Nat) (f' : Halyard → Halyard) : (s.modKv i' f').q i j = s.q i j := rfl
@[simp] theorem q_setDie (i j : Nat) (i' : Nat) (x' : Die) : (s.setDie i' x').q i j = s.q i j := rfl
@[simp] theorem q_modDie (i j : Nat) (i' : Nat) (f' : Die → Die) : (s.modDie i' f').q i j = s.q i j := rfl
@[simp] theorem q_setStay (i j : Nat) (d' k' : Nat) (v' : Word) : (s.setStay d' k' v').q i j = s.q i j := rfl
@[simp] theorem q_putStartRec (i j : Nat) (v' : Word) : (s.putStartRec v').q i j = s.q i j := rfl
@[simp] theorem q_setStartRec (i j : Nat) (hi' lo' v' : Nat) : (s.setStartRec hi' lo' v').q i j = s.q i j := rfl
@[simp] theorem q_setEpochReg (i j : Nat) (k' : Nat) (v' : Word) : (s.setEpochReg k' v').q i j = s.q i j := rfl
@[simp] theorem q_post (i j : Nat) (d' : Nat) (c' : TCode) (a' b' : Word) : (s.post d' c' a' b').q i j = s.q i j := rfl
@[simp] theorem q_postMore (i j : Nat) (d' : Nat) (c' : TCode) (a' b' : Word) (m' : List Word) : (s.postMore d' c' a' b' m').q i j = s.q i j := rfl
@[simp] theorem q_setPart (i j : Nat) (i' : Nat) (x' : Part) : (s.setPart i' x').q i j = s.q i j := rfl
@[simp] theorem q_modPart (i j : Nat) (i' : Nat) (f' : Part → Part) : (s.modPart i' f').q i j = s.q i j := rfl
@[simp] theorem q_wr (i j : Nat) (r' : Reg) (i' : Nat) (v' : Word) : (s.wr r' i' v').q i j = s.q i j := rfl
@[simp] theorem q_setFld (i j : Nat) (r' : Reg) (i' hi' lo' v' : Nat) : (s.setFld r' i' hi' lo' v').q i j = s.q i j := rfl
@[simp] theorem q_setFlag (i j : Nat) (r' : Reg) (i' b' : Nat) : (s.setFlag r' i' b').q i j = s.q i j := rfl
@[simp] theorem q_clrFlag (i j : Nat) (r' : Reg) (i' b' : Nat) : (s.clrFlag r' i' b').q i j = s.q i j := rfl
@[simp] theorem q_countSat (i j : Nat) (r' : Reg) (i' n' : Nat) : (s.countSat r' i' n').q i j = s.q i j := rfl
@[simp] theorem q_countWrap (i j : Nat) (r' : Reg) (i' n' : Nat) : (s.countWrap r' i' n').q i j = s.q i j := rfl
@[simp] theorem q_emit (i j : Nat) (o' : OutMsg) : (s.emit o').q i j = s.q i j := rfl
@[simp] theorem q_modHif (i j : Nat) (f' : HostIf → HostIf) : (s.modHif f').q i j = s.q i j := rfl
@[simp] theorem q_modRing (i j : Nat) (r' : Nat) (f' : RingQ → RingQ) : (s.modRing r' f').q i j = s.q i j := rfl
@[simp] theorem q_complete (i j : Nat) (r' : Nat) (x' : Compl) : (s.complete r' x').q i j = s.q i j := rfl
@[simp] theorem q_setVec (i j : Nat) (a' v' : Nat) (x' : Vec) : (s.setVec a' v' x').q i j = s.q i j := rfl
@[simp] theorem q_setWin (i j : Nat) (w' : Nat) (x' : Option PWin) : (s.setWin w' x').q i j = s.q i j := rfl
@[simp] theorem q_modChip (i j : Nat) (f' : Chip → Chip) : (s.modChip f').q i j = s.q i j := rfl
@[simp] theorem q_modRecov (i j : Nat) (f' : Recov → Recov) : (s.modRecov f').q i j = s.q i j := rfl
@[simp] theorem q_modFab (i j : Nat) (f' : Fab → Fab) : (s.modFab f').q i j = s.q i j := rfl
@[simp] theorem tok_setCluster (i j k : Nat) (i' : Nat) (x' : Cluster) : (s.setCluster i' x').tok i j k = s.tok i j k := rfl
@[simp] theorem tok_modCluster (i j k : Nat) (i' : Nat) (f' : Cluster → Cluster) : (s.modCluster i' f').tok i j k = s.tok i j k := rfl
@[simp] theorem tok_modChn (i j k : Nat) (i' : Nat) (f' : Chanter → Chanter) : (s.modChn i' f').tok i j k = s.tok i j k := rfl
@[simp] theorem tok_modKv (i j k : Nat) (i' : Nat) (f' : Halyard → Halyard) : (s.modKv i' f').tok i j k = s.tok i j k := rfl
@[simp] theorem tok_setDie (i j k : Nat) (i' : Nat) (x' : Die) : (s.setDie i' x').tok i j k = s.tok i j k := rfl
@[simp] theorem tok_modDie (i j k : Nat) (i' : Nat) (f' : Die → Die) : (s.modDie i' f').tok i j k = s.tok i j k := rfl
@[simp] theorem tok_setStay (i j k : Nat) (d' k' : Nat) (v' : Word) : (s.setStay d' k' v').tok i j k = s.tok i j k := rfl
@[simp] theorem tok_putStartRec (i j k : Nat) (v' : Word) : (s.putStartRec v').tok i j k = s.tok i j k := rfl
@[simp] theorem tok_setStartRec (i j k : Nat) (hi' lo' v' : Nat) : (s.setStartRec hi' lo' v').tok i j k = s.tok i j k := rfl
@[simp] theorem tok_setEpochReg (i j k : Nat) (k' : Nat) (v' : Word) : (s.setEpochReg k' v').tok i j k = s.tok i j k := rfl
@[simp] theorem tok_post (i j k : Nat) (d' : Nat) (c' : TCode) (a' b' : Word) : (s.post d' c' a' b').tok i j k = s.tok i j k := rfl
@[simp] theorem tok_postMore (i j k : Nat) (d' : Nat) (c' : TCode) (a' b' : Word) (m' : List Word) : (s.postMore d' c' a' b' m').tok i j k = s.tok i j k := rfl
@[simp] theorem tok_setPart (i j k : Nat) (i' : Nat) (x' : Part) : (s.setPart i' x').tok i j k = s.tok i j k := rfl
@[simp] theorem tok_modPart (i j k : Nat) (i' : Nat) (f' : Part → Part) : (s.modPart i' f').tok i j k = s.tok i j k := rfl
@[simp] theorem tok_wr (i j k : Nat) (r' : Reg) (i' : Nat) (v' : Word) : (s.wr r' i' v').tok i j k = s.tok i j k := rfl
@[simp] theorem tok_setFld (i j k : Nat) (r' : Reg) (i' hi' lo' v' : Nat) : (s.setFld r' i' hi' lo' v').tok i j k = s.tok i j k := rfl
@[simp] theorem tok_setFlag (i j k : Nat) (r' : Reg) (i' b' : Nat) : (s.setFlag r' i' b').tok i j k = s.tok i j k := rfl
@[simp] theorem tok_clrFlag (i j k : Nat) (r' : Reg) (i' b' : Nat) : (s.clrFlag r' i' b').tok i j k = s.tok i j k := rfl
@[simp] theorem tok_countSat (i j k : Nat) (r' : Reg) (i' n' : Nat) : (s.countSat r' i' n').tok i j k = s.tok i j k := rfl
@[simp] theorem tok_countWrap (i j k : Nat) (r' : Reg) (i' n' : Nat) : (s.countWrap r' i' n').tok i j k = s.tok i j k := rfl
@[simp] theorem tok_emit (i j k : Nat) (o' : OutMsg) : (s.emit o').tok i j k = s.tok i j k := rfl
@[simp] theorem tok_modHif (i j k : Nat) (f' : HostIf → HostIf) : (s.modHif f').tok i j k = s.tok i j k := rfl
@[simp] theorem tok_modRing (i j k : Nat) (r' : Nat) (f' : RingQ → RingQ) : (s.modRing r' f').tok i j k = s.tok i j k := rfl
@[simp] theorem tok_complete (i j k : Nat) (r' : Nat) (x' : Compl) : (s.complete r' x').tok i j k = s.tok i j k := rfl
@[simp] theorem tok_setVec (i j k : Nat) (a' v' : Nat) (x' : Vec) : (s.setVec a' v' x').tok i j k = s.tok i j k := rfl
@[simp] theorem tok_setWin (i j k : Nat) (w' : Nat) (x' : Option PWin) : (s.setWin w' x').tok i j k = s.tok i j k := rfl
@[simp] theorem tok_modChip (i j k : Nat) (f' : Chip → Chip) : (s.modChip f').tok i j k = s.tok i j k := rfl
@[simp] theorem tok_modRecov (i j k : Nat) (f' : Recov → Recov) : (s.modRecov f').tok i j k = s.tok i j k := rfl
@[simp] theorem tok_modFab (i j k : Nat) (f' : Fab → Fab) : (s.modFab f').tok i j k = s.tok i j k := rfl
@[simp] theorem cluster_setCore (i : Nat) (i' : Nat) (x' : Core) : (s.setCore i' x').cluster i = s.cluster i := rfl
@[simp] theorem cluster_modCore (i : Nat) (i' : Nat) (f' : Core → Core) : (s.modCore i' f').cluster i = s.cluster i := rfl
@[simp] theorem cluster_setDie (i : Nat) (i' : Nat) (x' : Die) : (s.setDie i' x').cluster i = s.cluster i := rfl
@[simp] theorem cluster_modDie (i : Nat) (i' : Nat) (f' : Die → Die) : (s.modDie i' f').cluster i = s.cluster i := rfl
@[simp] theorem cluster_setStay (i : Nat) (d' k' : Nat) (v' : Word) : (s.setStay d' k' v').cluster i = s.cluster i := rfl
@[simp] theorem cluster_putStartRec (i : Nat) (v' : Word) : (s.putStartRec v').cluster i = s.cluster i := rfl
@[simp] theorem cluster_setStartRec (i : Nat) (hi' lo' v' : Nat) : (s.setStartRec hi' lo' v').cluster i = s.cluster i := rfl
@[simp] theorem cluster_setEpochReg (i : Nat) (k' : Nat) (v' : Word) : (s.setEpochReg k' v').cluster i = s.cluster i := rfl
@[simp] theorem cluster_post (i : Nat) (d' : Nat) (c' : TCode) (a' b' : Word) : (s.post d' c' a' b').cluster i = s.cluster i := rfl
@[simp] theorem cluster_postMore (i : Nat) (d' : Nat) (c' : TCode) (a' b' : Word) (m' : List Word) : (s.postMore d' c' a' b' m').cluster i = s.cluster i := rfl
@[simp] theorem cluster_setPart (i : Nat) (i' : Nat) (x' : Part) : (s.setPart i' x').cluster i = s.cluster i := rfl
@[simp] theorem cluster_modPart (i : Nat) (i' : Nat) (f' : Part → Part) : (s.modPart i' f').cluster i = s.cluster i := rfl
@[simp] theorem cluster_wr (i : Nat) (r' : Reg) (i' : Nat) (v' : Word) : (s.wr r' i' v').cluster i = s.cluster i := rfl
@[simp] theorem cluster_setFld (i : Nat) (r' : Reg) (i' hi' lo' v' : Nat) : (s.setFld r' i' hi' lo' v').cluster i = s.cluster i := rfl
@[simp] theorem cluster_setFlag (i : Nat) (r' : Reg) (i' b' : Nat) : (s.setFlag r' i' b').cluster i = s.cluster i := rfl
@[simp] theorem cluster_clrFlag (i : Nat) (r' : Reg) (i' b' : Nat) : (s.clrFlag r' i' b').cluster i = s.cluster i := rfl
@[simp] theorem cluster_countSat (i : Nat) (r' : Reg) (i' n' : Nat) : (s.countSat r' i' n').cluster i = s.cluster i := rfl
@[simp] theorem cluster_countWrap (i : Nat) (r' : Reg) (i' n' : Nat) : (s.countWrap r' i' n').cluster i = s.cluster i := rfl
@[simp] theorem cluster_setQ (i : Nat) (c' e' : Nat) (x' : EngQ) : (s.setQ c' e' x').cluster i = s.cluster i := rfl
@[simp] theorem cluster_modQ (i : Nat) (c' e' : Nat) (f' : EngQ → EngQ) : (s.modQ c' e' f').cluster i = s.cluster i := rfl
@[simp] theorem cluster_modTok (i : Nat) (c' e' t' : Nat) (f' : Tok → Tok) : (s.modTok c' e' t' f').cluster i = s.cluster i := rfl
@[simp] theorem cluster_holdCore (i : Nat) (c' k' e' : Nat) (st' : Status) : (s.holdCore c' k' e' st').cluster i = s.cluster i := rfl
@[simp] theorem cluster_emit (i : Nat) (o' : OutMsg) : (s.emit o').cluster i = s.cluster i := rfl
@[simp] theorem cluster_modHif (i : Nat) (f' : HostIf → HostIf) : (s.modHif f').cluster i = s.cluster i := rfl
@[simp] theorem cluster_modRing (i : Nat) (r' : Nat) (f' : RingQ → RingQ) : (s.modRing r' f').cluster i = s.cluster i := rfl
@[simp] theorem cluster_complete (i : Nat) (r' : Nat) (x' : Compl) : (s.complete r' x').cluster i = s.cluster i := rfl
@[simp] theorem cluster_setVec (i : Nat) (a' v' : Nat) (x' : Vec) : (s.setVec a' v' x').cluster i = s.cluster i := rfl
@[simp] theorem cluster_setWin (i : Nat) (w' : Nat) (x' : Option PWin) : (s.setWin w' x').cluster i = s.cluster i := rfl
@[simp] theorem cluster_modChip (i : Nat) (f' : Chip → Chip) : (s.modChip f').cluster i = s.cluster i := rfl
@[simp] theorem cluster_modRecov (i : Nat) (f' : Recov → Recov) : (s.modRecov f').cluster i = s.cluster i := rfl
@[simp] theorem cluster_modFab (i : Nat) (f' : Fab → Fab) : (s.modFab f').cluster i = s.cluster i := rfl
@[simp] theorem chn_setCore (i : Nat) (i' : Nat) (x' : Core) : (s.setCore i' x').chn i = s.chn i := rfl
@[simp] theorem chn_modCore (i : Nat) (i' : Nat) (f' : Core → Core) : (s.modCore i' f').chn i = s.chn i := rfl
@[simp] theorem chn_setDie (i : Nat) (i' : Nat) (x' : Die) : (s.setDie i' x').chn i = s.chn i := rfl
@[simp] theorem chn_modDie (i : Nat) (i' : Nat) (f' : Die → Die) : (s.modDie i' f').chn i = s.chn i := rfl
@[simp] theorem chn_setStay (i : Nat) (d' k' : Nat) (v' : Word) : (s.setStay d' k' v').chn i = s.chn i := rfl
@[simp] theorem chn_putStartRec (i : Nat) (v' : Word) : (s.putStartRec v').chn i = s.chn i := rfl
@[simp] theorem chn_setStartRec (i : Nat) (hi' lo' v' : Nat) : (s.setStartRec hi' lo' v').chn i = s.chn i := rfl
@[simp] theorem chn_setEpochReg (i : Nat) (k' : Nat) (v' : Word) : (s.setEpochReg k' v').chn i = s.chn i := rfl
@[simp] theorem chn_post (i : Nat) (d' : Nat) (c' : TCode) (a' b' : Word) : (s.post d' c' a' b').chn i = s.chn i := rfl
@[simp] theorem chn_postMore (i : Nat) (d' : Nat) (c' : TCode) (a' b' : Word) (m' : List Word) : (s.postMore d' c' a' b' m').chn i = s.chn i := rfl
@[simp] theorem chn_setPart (i : Nat) (i' : Nat) (x' : Part) : (s.setPart i' x').chn i = s.chn i := rfl
@[simp] theorem chn_modPart (i : Nat) (i' : Nat) (f' : Part → Part) : (s.modPart i' f').chn i = s.chn i := rfl
@[simp] theorem chn_wr (i : Nat) (r' : Reg) (i' : Nat) (v' : Word) : (s.wr r' i' v').chn i = s.chn i := rfl
@[simp] theorem chn_setFld (i : Nat) (r' : Reg) (i' hi' lo' v' : Nat) : (s.setFld r' i' hi' lo' v').chn i = s.chn i := rfl
@[simp] theorem chn_setFlag (i : Nat) (r' : Reg) (i' b' : Nat) : (s.setFlag r' i' b').chn i = s.chn i := rfl
@[simp] theorem chn_clrFlag (i : Nat) (r' : Reg) (i' b' : Nat) : (s.clrFlag r' i' b').chn i = s.chn i := rfl
@[simp] theorem chn_countSat (i : Nat) (r' : Reg) (i' n' : Nat) : (s.countSat r' i' n').chn i = s.chn i := rfl
@[simp] theorem chn_countWrap (i : Nat) (r' : Reg) (i' n' : Nat) : (s.countWrap r' i' n').chn i = s.chn i := rfl
@[simp] theorem chn_setQ (i : Nat) (c' e' : Nat) (x' : EngQ) : (s.setQ c' e' x').chn i = s.chn i := rfl
@[simp] theorem chn_modQ (i : Nat) (c' e' : Nat) (f' : EngQ → EngQ) : (s.modQ c' e' f').chn i = s.chn i := rfl
@[simp] theorem chn_modTok (i : Nat) (c' e' t' : Nat) (f' : Tok → Tok) : (s.modTok c' e' t' f').chn i = s.chn i := rfl
@[simp] theorem chn_holdCore (i : Nat) (c' k' e' : Nat) (st' : Status) : (s.holdCore c' k' e' st').chn i = s.chn i := rfl
@[simp] theorem chn_emit (i : Nat) (o' : OutMsg) : (s.emit o').chn i = s.chn i := rfl
@[simp] theorem chn_modHif (i : Nat) (f' : HostIf → HostIf) : (s.modHif f').chn i = s.chn i := rfl
@[simp] theorem chn_modRing (i : Nat) (r' : Nat) (f' : RingQ → RingQ) : (s.modRing r' f').chn i = s.chn i := rfl
@[simp] theorem chn_complete (i : Nat) (r' : Nat) (x' : Compl) : (s.complete r' x').chn i = s.chn i := rfl
@[simp] theorem chn_setVec (i : Nat) (a' v' : Nat) (x' : Vec) : (s.setVec a' v' x').chn i = s.chn i := rfl
@[simp] theorem chn_setWin (i : Nat) (w' : Nat) (x' : Option PWin) : (s.setWin w' x').chn i = s.chn i := rfl
@[simp] theorem chn_modChip (i : Nat) (f' : Chip → Chip) : (s.modChip f').chn i = s.chn i := rfl
@[simp] theorem chn_modRecov (i : Nat) (f' : Recov → Recov) : (s.modRecov f').chn i = s.chn i := rfl
@[simp] theorem chn_modFab (i : Nat) (f' : Fab → Fab) : (s.modFab f').chn i = s.chn i := rfl
@[simp] theorem kv_setCore (i : Nat) (i' : Nat) (x' : Core) : (s.setCore i' x').kv i = s.kv i := rfl
@[simp] theorem kv_modCore (i : Nat) (i' : Nat) (f' : Core → Core) : (s.modCore i' f').kv i = s.kv i := rfl
@[simp] theorem kv_setDie (i : Nat) (i' : Nat) (x' : Die) : (s.setDie i' x').kv i = s.kv i := rfl
@[simp] theorem kv_modDie (i : Nat) (i' : Nat) (f' : Die → Die) : (s.modDie i' f').kv i = s.kv i := rfl
@[simp] theorem kv_setStay (i : Nat) (d' k' : Nat) (v' : Word) : (s.setStay d' k' v').kv i = s.kv i := rfl
@[simp] theorem kv_putStartRec (i : Nat) (v' : Word) : (s.putStartRec v').kv i = s.kv i := rfl
@[simp] theorem kv_setStartRec (i : Nat) (hi' lo' v' : Nat) : (s.setStartRec hi' lo' v').kv i = s.kv i := rfl
@[simp] theorem kv_setEpochReg (i : Nat) (k' : Nat) (v' : Word) : (s.setEpochReg k' v').kv i = s.kv i := rfl
@[simp] theorem kv_post (i : Nat) (d' : Nat) (c' : TCode) (a' b' : Word) : (s.post d' c' a' b').kv i = s.kv i := rfl
@[simp] theorem kv_postMore (i : Nat) (d' : Nat) (c' : TCode) (a' b' : Word) (m' : List Word) : (s.postMore d' c' a' b' m').kv i = s.kv i := rfl
@[simp] theorem kv_setPart (i : Nat) (i' : Nat) (x' : Part) : (s.setPart i' x').kv i = s.kv i := rfl
@[simp] theorem kv_modPart (i : Nat) (i' : Nat) (f' : Part → Part) : (s.modPart i' f').kv i = s.kv i := rfl
@[simp] theorem kv_wr (i : Nat) (r' : Reg) (i' : Nat) (v' : Word) : (s.wr r' i' v').kv i = s.kv i := rfl
@[simp] theorem kv_setFld (i : Nat) (r' : Reg) (i' hi' lo' v' : Nat) : (s.setFld r' i' hi' lo' v').kv i = s.kv i := rfl
@[simp] theorem kv_setFlag (i : Nat) (r' : Reg) (i' b' : Nat) : (s.setFlag r' i' b').kv i = s.kv i := rfl
@[simp] theorem kv_clrFlag (i : Nat) (r' : Reg) (i' b' : Nat) : (s.clrFlag r' i' b').kv i = s.kv i := rfl
@[simp] theorem kv_countSat (i : Nat) (r' : Reg) (i' n' : Nat) : (s.countSat r' i' n').kv i = s.kv i := rfl
@[simp] theorem kv_countWrap (i : Nat) (r' : Reg) (i' n' : Nat) : (s.countWrap r' i' n').kv i = s.kv i := rfl
@[simp] theorem kv_setQ (i : Nat) (c' e' : Nat) (x' : EngQ) : (s.setQ c' e' x').kv i = s.kv i := rfl
@[simp] theorem kv_modQ (i : Nat) (c' e' : Nat) (f' : EngQ → EngQ) : (s.modQ c' e' f').kv i = s.kv i := rfl
@[simp] theorem kv_modTok (i : Nat) (c' e' t' : Nat) (f' : Tok → Tok) : (s.modTok c' e' t' f').kv i = s.kv i := rfl
@[simp] theorem kv_holdCore (i : Nat) (c' k' e' : Nat) (st' : Status) : (s.holdCore c' k' e' st').kv i = s.kv i := rfl
@[simp] theorem kv_emit (i : Nat) (o' : OutMsg) : (s.emit o').kv i = s.kv i := rfl
@[simp] theorem kv_modHif (i : Nat) (f' : HostIf → HostIf) : (s.modHif f').kv i = s.kv i := rfl
@[simp] theorem kv_modRing (i : Nat) (r' : Nat) (f' : RingQ → RingQ) : (s.modRing r' f').kv i = s.kv i := rfl
@[simp] theorem kv_complete (i : Nat) (r' : Nat) (x' : Compl) : (s.complete r' x').kv i = s.kv i := rfl
@[simp] theorem kv_setVec (i : Nat) (a' v' : Nat) (x' : Vec) : (s.setVec a' v' x').kv i = s.kv i := rfl
@[simp] theorem kv_setWin (i : Nat) (w' : Nat) (x' : Option PWin) : (s.setWin w' x').kv i = s.kv i := rfl
@[simp] theorem kv_modChip (i : Nat) (f' : Chip → Chip) : (s.modChip f').kv i = s.kv i := rfl
@[simp] theorem kv_modRecov (i : Nat) (f' : Recov → Recov) : (s.modRecov f').kv i = s.kv i := rfl
@[simp] theorem kv_modFab (i : Nat) (f' : Fab → Fab) : (s.modFab f').kv i = s.kv i := rfl
@[simp] theorem die_setCore (i : Nat) (i' : Nat) (x' : Core) : (s.setCore i' x').die i = s.die i := rfl
@[simp] theorem die_modCore (i : Nat) (i' : Nat) (f' : Core → Core) : (s.modCore i' f').die i = s.die i := rfl
@[simp] theorem die_setCluster (i : Nat) (i' : Nat) (x' : Cluster) : (s.setCluster i' x').die i = s.die i := rfl
@[simp] theorem die_modCluster (i : Nat) (i' : Nat) (f' : Cluster → Cluster) : (s.modCluster i' f').die i = s.die i := rfl
@[simp] theorem die_modChn (i : Nat) (i' : Nat) (f' : Chanter → Chanter) : (s.modChn i' f').die i = s.die i := rfl
@[simp] theorem die_modKv (i : Nat) (i' : Nat) (f' : Halyard → Halyard) : (s.modKv i' f').die i = s.die i := rfl
@[simp] theorem die_setPart (i : Nat) (i' : Nat) (x' : Part) : (s.setPart i' x').die i = s.die i := rfl
@[simp] theorem die_modPart (i : Nat) (i' : Nat) (f' : Part → Part) : (s.modPart i' f').die i = s.die i := rfl
@[simp] theorem die_wr (i : Nat) (r' : Reg) (i' : Nat) (v' : Word) : (s.wr r' i' v').die i = s.die i := rfl
@[simp] theorem die_setFld (i : Nat) (r' : Reg) (i' hi' lo' v' : Nat) : (s.setFld r' i' hi' lo' v').die i = s.die i := rfl
@[simp] theorem die_setFlag (i : Nat) (r' : Reg) (i' b' : Nat) : (s.setFlag r' i' b').die i = s.die i := rfl
@[simp] theorem die_clrFlag (i : Nat) (r' : Reg) (i' b' : Nat) : (s.clrFlag r' i' b').die i = s.die i := rfl
@[simp] theorem die_countSat (i : Nat) (r' : Reg) (i' n' : Nat) : (s.countSat r' i' n').die i = s.die i := rfl
@[simp] theorem die_countWrap (i : Nat) (r' : Reg) (i' n' : Nat) : (s.countWrap r' i' n').die i = s.die i := rfl
@[simp] theorem die_setQ (i : Nat) (c' e' : Nat) (x' : EngQ) : (s.setQ c' e' x').die i = s.die i := rfl
@[simp] theorem die_modQ (i : Nat) (c' e' : Nat) (f' : EngQ → EngQ) : (s.modQ c' e' f').die i = s.die i := rfl
@[simp] theorem die_modTok (i : Nat) (c' e' t' : Nat) (f' : Tok → Tok) : (s.modTok c' e' t' f').die i = s.die i := rfl
@[simp] theorem die_holdCore (i : Nat) (c' k' e' : Nat) (st' : Status) : (s.holdCore c' k' e' st').die i = s.die i := rfl
@[simp] theorem die_emit (i : Nat) (o' : OutMsg) : (s.emit o').die i = s.die i := rfl
@[simp] theorem die_modHif (i : Nat) (f' : HostIf → HostIf) : (s.modHif f').die i = s.die i := rfl
@[simp] theorem die_modRing (i : Nat) (r' : Nat) (f' : RingQ → RingQ) : (s.modRing r' f').die i = s.die i := rfl
@[simp] theorem die_complete (i : Nat) (r' : Nat) (x' : Compl) : (s.complete r' x').die i = s.die i := rfl
@[simp] theorem die_setVec (i : Nat) (a' v' : Nat) (x' : Vec) : (s.setVec a' v' x').die i = s.die i := rfl
@[simp] theorem die_setWin (i : Nat) (w' : Nat) (x' : Option PWin) : (s.setWin w' x').die i = s.die i := rfl
@[simp] theorem die_modChip (i : Nat) (f' : Chip → Chip) : (s.modChip f').die i = s.die i := rfl
@[simp] theorem die_modRecov (i : Nat) (f' : Recov → Recov) : (s.modRecov f').die i = s.die i := rfl
@[simp] theorem die_modFab (i : Nat) (f' : Fab → Fab) : (s.modFab f').die i = s.die i := rfl
@[simp] theorem part_setCore (i : Nat) (i' : Nat) (x' : Core) : (s.setCore i' x').part i = s.part i := rfl
@[simp] theorem part_modCore (i : Nat) (i' : Nat) (f' : Core → Core) : (s.modCore i' f').part i = s.part i := rfl
@[simp] theorem part_setCluster (i : Nat) (i' : Nat) (x' : Cluster) : (s.setCluster i' x').part i = s.part i := rfl
@[simp] theorem part_modCluster (i : Nat) (i' : Nat) (f' : Cluster → Cluster) : (s.modCluster i' f').part i = s.part i := rfl
@[simp] theorem part_modChn (i : Nat) (i' : Nat) (f' : Chanter → Chanter) : (s.modChn i' f').part i = s.part i := rfl
@[simp] theorem part_modKv (i : Nat) (i' : Nat) (f' : Halyard → Halyard) : (s.modKv i' f').part i = s.part i := rfl
@[simp] theorem part_setDie (i : Nat) (i' : Nat) (x' : Die) : (s.setDie i' x').part i = s.part i := rfl
@[simp] theorem part_modDie (i : Nat) (i' : Nat) (f' : Die → Die) : (s.modDie i' f').part i = s.part i := rfl
@[simp] theorem part_setStay (i : Nat) (d' k' : Nat) (v' : Word) : (s.setStay d' k' v').part i = s.part i := rfl
@[simp] theorem part_putStartRec (i : Nat) (v' : Word) : (s.putStartRec v').part i = s.part i := rfl
@[simp] theorem part_setStartRec (i : Nat) (hi' lo' v' : Nat) : (s.setStartRec hi' lo' v').part i = s.part i := rfl
@[simp] theorem part_setEpochReg (i : Nat) (k' : Nat) (v' : Word) : (s.setEpochReg k' v').part i = s.part i := rfl
@[simp] theorem part_post (i : Nat) (d' : Nat) (c' : TCode) (a' b' : Word) : (s.post d' c' a' b').part i = s.part i := rfl
@[simp] theorem part_postMore (i : Nat) (d' : Nat) (c' : TCode) (a' b' : Word) (m' : List Word) : (s.postMore d' c' a' b' m').part i = s.part i := rfl
@[simp] theorem part_wr (i : Nat) (r' : Reg) (i' : Nat) (v' : Word) : (s.wr r' i' v').part i = s.part i := rfl
@[simp] theorem part_setFld (i : Nat) (r' : Reg) (i' hi' lo' v' : Nat) : (s.setFld r' i' hi' lo' v').part i = s.part i := rfl
@[simp] theorem part_setFlag (i : Nat) (r' : Reg) (i' b' : Nat) : (s.setFlag r' i' b').part i = s.part i := rfl
@[simp] theorem part_clrFlag (i : Nat) (r' : Reg) (i' b' : Nat) : (s.clrFlag r' i' b').part i = s.part i := rfl
@[simp] theorem part_countSat (i : Nat) (r' : Reg) (i' n' : Nat) : (s.countSat r' i' n').part i = s.part i := rfl
@[simp] theorem part_countWrap (i : Nat) (r' : Reg) (i' n' : Nat) : (s.countWrap r' i' n').part i = s.part i := rfl
@[simp] theorem part_setQ (i : Nat) (c' e' : Nat) (x' : EngQ) : (s.setQ c' e' x').part i = s.part i := rfl
@[simp] theorem part_modQ (i : Nat) (c' e' : Nat) (f' : EngQ → EngQ) : (s.modQ c' e' f').part i = s.part i := rfl
@[simp] theorem part_modTok (i : Nat) (c' e' t' : Nat) (f' : Tok → Tok) : (s.modTok c' e' t' f').part i = s.part i := rfl
@[simp] theorem part_holdCore (i : Nat) (c' k' e' : Nat) (st' : Status) : (s.holdCore c' k' e' st').part i = s.part i := rfl
@[simp] theorem part_emit (i : Nat) (o' : OutMsg) : (s.emit o').part i = s.part i := rfl
@[simp] theorem part_modHif (i : Nat) (f' : HostIf → HostIf) : (s.modHif f').part i = s.part i := rfl
@[simp] theorem part_modRing (i : Nat) (r' : Nat) (f' : RingQ → RingQ) : (s.modRing r' f').part i = s.part i := rfl
@[simp] theorem part_complete (i : Nat) (r' : Nat) (x' : Compl) : (s.complete r' x').part i = s.part i := rfl
@[simp] theorem part_setVec (i : Nat) (a' v' : Nat) (x' : Vec) : (s.setVec a' v' x').part i = s.part i := rfl
@[simp] theorem part_setWin (i : Nat) (w' : Nat) (x' : Option PWin) : (s.setWin w' x').part i = s.part i := rfl
@[simp] theorem part_modChip (i : Nat) (f' : Chip → Chip) : (s.modChip f').part i = s.part i := rfl
@[simp] theorem part_modRecov (i : Nat) (f' : Recov → Recov) : (s.modRecov f').part i = s.part i := rfl
@[simp] theorem part_modFab (i : Nat) (f' : Fab → Fab) : (s.modFab f').part i = s.part i := rfl
@[simp] theorem rd_setCore (r : Reg) (i : Nat) (i' : Nat) (x' : Core) : (s.setCore i' x').rd r i = s.rd r i := rfl
@[simp] theorem rd_modCore (r : Reg) (i : Nat) (i' : Nat) (f' : Core → Core) : (s.modCore i' f').rd r i = s.rd r i := rfl
@[simp] theorem rd_setCluster (r : Reg) (i : Nat) (i' : Nat) (x' : Cluster) : (s.setCluster i' x').rd r i = s.rd r i := rfl
@[simp] theorem rd_modCluster (r : Reg) (i : Nat) (i' : Nat) (f' : Cluster → Cluster) : (s.modCluster i' f').rd r i = s.rd r i := rfl
@[simp] theorem rd_modChn (r : Reg) (i : Nat) (i' : Nat) (f' : Chanter → Chanter) : (s.modChn i' f').rd r i = s.rd r i := rfl
@[simp] theorem rd_modKv (r : Reg) (i : Nat) (i' : Nat) (f' : Halyard → Halyard) : (s.modKv i' f').rd r i = s.rd r i := rfl
@[simp] theorem rd_setDie (r : Reg) (i : Nat) (i' : Nat) (x' : Die) : (s.setDie i' x').rd r i = s.rd r i := rfl
@[simp] theorem rd_modDie (r : Reg) (i : Nat) (i' : Nat) (f' : Die → Die) : (s.modDie i' f').rd r i = s.rd r i := rfl
@[simp] theorem rd_setStay (r : Reg) (i : Nat) (d' k' : Nat) (v' : Word) : (s.setStay d' k' v').rd r i = s.rd r i := rfl
@[simp] theorem rd_putStartRec (r : Reg) (i : Nat) (v' : Word) : (s.putStartRec v').rd r i = s.rd r i := rfl
@[simp] theorem rd_setStartRec (r : Reg) (i : Nat) (hi' lo' v' : Nat) : (s.setStartRec hi' lo' v').rd r i = s.rd r i := rfl
@[simp] theorem rd_setEpochReg (r : Reg) (i : Nat) (k' : Nat) (v' : Word) : (s.setEpochReg k' v').rd r i = s.rd r i := rfl
@[simp] theorem rd_post (r : Reg) (i : Nat) (d' : Nat) (c' : TCode) (a' b' : Word) : (s.post d' c' a' b').rd r i = s.rd r i := rfl
@[simp] theorem rd_postMore (r : Reg) (i : Nat) (d' : Nat) (c' : TCode) (a' b' : Word) (m' : List Word) : (s.postMore d' c' a' b' m').rd r i = s.rd r i := rfl
@[simp] theorem rd_setPart (r : Reg) (i : Nat) (i' : Nat) (x' : Part) : (s.setPart i' x').rd r i = s.rd r i := rfl
@[simp] theorem rd_modPart (r : Reg) (i : Nat) (i' : Nat) (f' : Part → Part) : (s.modPart i' f').rd r i = s.rd r i := rfl
@[simp] theorem rd_setQ (r : Reg) (i : Nat) (c' e' : Nat) (x' : EngQ) : (s.setQ c' e' x').rd r i = s.rd r i := rfl
@[simp] theorem rd_modQ (r : Reg) (i : Nat) (c' e' : Nat) (f' : EngQ → EngQ) : (s.modQ c' e' f').rd r i = s.rd r i := rfl
@[simp] theorem rd_modTok (r : Reg) (i : Nat) (c' e' t' : Nat) (f' : Tok → Tok) : (s.modTok c' e' t' f').rd r i = s.rd r i := rfl
@[simp] theorem rd_holdCore (r : Reg) (i : Nat) (c' k' e' : Nat) (st' : Status) : (s.holdCore c' k' e' st').rd r i = s.rd r i := rfl
@[simp] theorem rd_emit (r : Reg) (i : Nat) (o' : OutMsg) : (s.emit o').rd r i = s.rd r i := rfl
@[simp] theorem rd_modHif (r : Reg) (i : Nat) (f' : HostIf → HostIf) : (s.modHif f').rd r i = s.rd r i := rfl
@[simp] theorem rd_modRing (r : Reg) (i : Nat) (r' : Nat) (f' : RingQ → RingQ) : (s.modRing r' f').rd r i = s.rd r i := rfl
@[simp] theorem rd_complete (r : Reg) (i : Nat) (r' : Nat) (x' : Compl) : (s.complete r' x').rd r i = s.rd r i := rfl
@[simp] theorem rd_setVec (r : Reg) (i : Nat) (a' v' : Nat) (x' : Vec) : (s.setVec a' v' x').rd r i = s.rd r i := rfl
@[simp] theorem rd_setWin (r : Reg) (i : Nat) (w' : Nat) (x' : Option PWin) : (s.setWin w' x').rd r i = s.rd r i := rfl
@[simp] theorem rd_modChip (r : Reg) (i : Nat) (f' : Chip → Chip) : (s.modChip f').rd r i = s.rd r i := rfl
@[simp] theorem rd_modRecov (r : Reg) (i : Nat) (f' : Recov → Recov) : (s.modRecov f').rd r i = s.rd r i := rfl
@[simp] theorem rd_modFab (r : Reg) (i : Nat) (f' : Fab → Fab) : (s.modFab f').rd r i = s.rd r i := rfl
@[simp] theorem flag_setCore (r : Reg) (i j : Nat) (i' : Nat) (x' : Core) : (s.setCore i' x').flag r i j = s.flag r i j := rfl
@[simp] theorem flag_modCore (r : Reg) (i j : Nat) (i' : Nat) (f' : Core → Core) : (s.modCore i' f').flag r i j = s.flag r i j := rfl
@[simp] theorem flag_setCluster (r : Reg) (i j : Nat) (i' : Nat) (x' : Cluster) : (s.setCluster i' x').flag r i j = s.flag r i j := rfl
@[simp] theorem flag_modCluster (r : Reg) (i j : Nat) (i' : Nat) (f' : Cluster → Cluster) : (s.modCluster i' f').flag r i j = s.flag r i j := rfl
@[simp] theorem flag_modChn (r : Reg) (i j : Nat) (i' : Nat) (f' : Chanter → Chanter) : (s.modChn i' f').flag r i j = s.flag r i j := rfl
@[simp] theorem flag_modKv (r : Reg) (i j : Nat) (i' : Nat) (f' : Halyard → Halyard) : (s.modKv i' f').flag r i j = s.flag r i j := rfl
@[simp] theorem flag_setDie (r : Reg) (i j : Nat) (i' : Nat) (x' : Die) : (s.setDie i' x').flag r i j = s.flag r i j := rfl
@[simp] theorem flag_modDie (r : Reg) (i j : Nat) (i' : Nat) (f' : Die → Die) : (s.modDie i' f').flag r i j = s.flag r i j := rfl
@[simp] theorem flag_setStay (r : Reg) (i j : Nat) (d' k' : Nat) (v' : Word) : (s.setStay d' k' v').flag r i j = s.flag r i j := rfl
@[simp] theorem flag_putStartRec (r : Reg) (i j : Nat) (v' : Word) : (s.putStartRec v').flag r i j = s.flag r i j := rfl
@[simp] theorem flag_setStartRec (r : Reg) (i j : Nat) (hi' lo' v' : Nat) : (s.setStartRec hi' lo' v').flag r i j = s.flag r i j := rfl
@[simp] theorem flag_setEpochReg (r : Reg) (i j : Nat) (k' : Nat) (v' : Word) : (s.setEpochReg k' v').flag r i j = s.flag r i j := rfl
@[simp] theorem flag_post (r : Reg) (i j : Nat) (d' : Nat) (c' : TCode) (a' b' : Word) : (s.post d' c' a' b').flag r i j = s.flag r i j := rfl
@[simp] theorem flag_postMore (r : Reg) (i j : Nat) (d' : Nat) (c' : TCode) (a' b' : Word) (m' : List Word) : (s.postMore d' c' a' b' m').flag r i j = s.flag r i j := rfl
@[simp] theorem flag_setPart (r : Reg) (i j : Nat) (i' : Nat) (x' : Part) : (s.setPart i' x').flag r i j = s.flag r i j := rfl
@[simp] theorem flag_modPart (r : Reg) (i j : Nat) (i' : Nat) (f' : Part → Part) : (s.modPart i' f').flag r i j = s.flag r i j := rfl
@[simp] theorem flag_setQ (r : Reg) (i j : Nat) (c' e' : Nat) (x' : EngQ) : (s.setQ c' e' x').flag r i j = s.flag r i j := rfl
@[simp] theorem flag_modQ (r : Reg) (i j : Nat) (c' e' : Nat) (f' : EngQ → EngQ) : (s.modQ c' e' f').flag r i j = s.flag r i j := rfl
@[simp] theorem flag_modTok (r : Reg) (i j : Nat) (c' e' t' : Nat) (f' : Tok → Tok) : (s.modTok c' e' t' f').flag r i j = s.flag r i j := rfl
@[simp] theorem flag_holdCore (r : Reg) (i j : Nat) (c' k' e' : Nat) (st' : Status) : (s.holdCore c' k' e' st').flag r i j = s.flag r i j := rfl
@[simp] theorem flag_emit (r : Reg) (i j : Nat) (o' : OutMsg) : (s.emit o').flag r i j = s.flag r i j := rfl
@[simp] theorem flag_modHif (r : Reg) (i j : Nat) (f' : HostIf → HostIf) : (s.modHif f').flag r i j = s.flag r i j := rfl
@[simp] theorem flag_modRing (r : Reg) (i j : Nat) (r' : Nat) (f' : RingQ → RingQ) : (s.modRing r' f').flag r i j = s.flag r i j := rfl
@[simp] theorem flag_complete (r : Reg) (i j : Nat) (r' : Nat) (x' : Compl) : (s.complete r' x').flag r i j = s.flag r i j := rfl
@[simp] theorem flag_setVec (r : Reg) (i j : Nat) (a' v' : Nat) (x' : Vec) : (s.setVec a' v' x').flag r i j = s.flag r i j := rfl
@[simp] theorem flag_setWin (r : Reg) (i j : Nat) (w' : Nat) (x' : Option PWin) : (s.setWin w' x').flag r i j = s.flag r i j := rfl
@[simp] theorem flag_modChip (r : Reg) (i j : Nat) (f' : Chip → Chip) : (s.modChip f').flag r i j = s.flag r i j := rfl
@[simp] theorem flag_modRecov (r : Reg) (i j : Nat) (f' : Recov → Recov) : (s.modRecov f').flag r i j = s.flag r i j := rfl
@[simp] theorem flag_modFab (r : Reg) (i j : Nat) (f' : Fab → Fab) : (s.modFab f').flag r i j = s.flag r i j := rfl
@[simp] theorem fld_setCore (r : Reg) (i j k : Nat) (i' : Nat) (x' : Core) : (s.setCore i' x').fld r i j k = s.fld r i j k := rfl
@[simp] theorem fld_modCore (r : Reg) (i j k : Nat) (i' : Nat) (f' : Core → Core) : (s.modCore i' f').fld r i j k = s.fld r i j k := rfl
@[simp] theorem fld_setCluster (r : Reg) (i j k : Nat) (i' : Nat) (x' : Cluster) : (s.setCluster i' x').fld r i j k = s.fld r i j k := rfl
@[simp] theorem fld_modCluster (r : Reg) (i j k : Nat) (i' : Nat) (f' : Cluster → Cluster) : (s.modCluster i' f').fld r i j k = s.fld r i j k := rfl
@[simp] theorem fld_modChn (r : Reg) (i j k : Nat) (i' : Nat) (f' : Chanter → Chanter) : (s.modChn i' f').fld r i j k = s.fld r i j k := rfl
@[simp] theorem fld_modKv (r : Reg) (i j k : Nat) (i' : Nat) (f' : Halyard → Halyard) : (s.modKv i' f').fld r i j k = s.fld r i j k := rfl
@[simp] theorem fld_setDie (r : Reg) (i j k : Nat) (i' : Nat) (x' : Die) : (s.setDie i' x').fld r i j k = s.fld r i j k := rfl
@[simp] theorem fld_modDie (r : Reg) (i j k : Nat) (i' : Nat) (f' : Die → Die) : (s.modDie i' f').fld r i j k = s.fld r i j k := rfl
@[simp] theorem fld_setStay (r : Reg) (i j k : Nat) (d' k' : Nat) (v' : Word) : (s.setStay d' k' v').fld r i j k = s.fld r i j k := rfl
@[simp] theorem fld_putStartRec (r : Reg) (i j k : Nat) (v' : Word) : (s.putStartRec v').fld r i j k = s.fld r i j k := rfl
@[simp] theorem fld_setStartRec (r : Reg) (i j k : Nat) (hi' lo' v' : Nat) : (s.setStartRec hi' lo' v').fld r i j k = s.fld r i j k := rfl
@[simp] theorem fld_setEpochReg (r : Reg) (i j k : Nat) (k' : Nat) (v' : Word) : (s.setEpochReg k' v').fld r i j k = s.fld r i j k := rfl
@[simp] theorem fld_post (r : Reg) (i j k : Nat) (d' : Nat) (c' : TCode) (a' b' : Word) : (s.post d' c' a' b').fld r i j k = s.fld r i j k := rfl
@[simp] theorem fld_postMore (r : Reg) (i j k : Nat) (d' : Nat) (c' : TCode) (a' b' : Word) (m' : List Word) : (s.postMore d' c' a' b' m').fld r i j k = s.fld r i j k := rfl
@[simp] theorem fld_setPart (r : Reg) (i j k : Nat) (i' : Nat) (x' : Part) : (s.setPart i' x').fld r i j k = s.fld r i j k := rfl
@[simp] theorem fld_modPart (r : Reg) (i j k : Nat) (i' : Nat) (f' : Part → Part) : (s.modPart i' f').fld r i j k = s.fld r i j k := rfl
@[simp] theorem fld_setQ (r : Reg) (i j k : Nat) (c' e' : Nat) (x' : EngQ) : (s.setQ c' e' x').fld r i j k = s.fld r i j k := rfl
@[simp] theorem fld_modQ (r : Reg) (i j k : Nat) (c' e' : Nat) (f' : EngQ → EngQ) : (s.modQ c' e' f').fld r i j k = s.fld r i j k := rfl
@[simp] theorem fld_modTok (r : Reg) (i j k : Nat) (c' e' t' : Nat) (f' : Tok → Tok) : (s.modTok c' e' t' f').fld r i j k = s.fld r i j k := rfl
@[simp] theorem fld_holdCore (r : Reg) (i j k : Nat) (c' k' e' : Nat) (st' : Status) : (s.holdCore c' k' e' st').fld r i j k = s.fld r i j k := rfl
@[simp] theorem fld_emit (r : Reg) (i j k : Nat) (o' : OutMsg) : (s.emit o').fld r i j k = s.fld r i j k := rfl
@[simp] theorem fld_modHif (r : Reg) (i j k : Nat) (f' : HostIf → HostIf) : (s.modHif f').fld r i j k = s.fld r i j k := rfl
@[simp] theorem fld_modRing (r : Reg) (i j k : Nat) (r' : Nat) (f' : RingQ → RingQ) : (s.modRing r' f').fld r i j k = s.fld r i j k := rfl
@[simp] theorem fld_complete (r : Reg) (i j k : Nat) (r' : Nat) (x' : Compl) : (s.complete r' x').fld r i j k = s.fld r i j k := rfl
@[simp] theorem fld_setVec (r : Reg) (i j k : Nat) (a' v' : Nat) (x' : Vec) : (s.setVec a' v' x').fld r i j k = s.fld r i j k := rfl
@[simp] theorem fld_setWin (r : Reg) (i j k : Nat) (w' : Nat) (x' : Option PWin) : (s.setWin w' x').fld r i j k = s.fld r i j k := rfl
@[simp] theorem fld_modChip (r : Reg) (i j k : Nat) (f' : Chip → Chip) : (s.modChip f').fld r i j k = s.fld r i j k := rfl
@[simp] theorem fld_modRecov (r : Reg) (i j k : Nat) (f' : Recov → Recov) : (s.modRecov f').fld r i j k = s.fld r i j k := rfl
@[simp] theorem fld_modFab (r : Reg) (i j k : Nat) (f' : Fab → Fab) : (s.modFab f').fld r i j k = s.fld r i j k := rfl
@[simp] theorem ring_setCore (i : Nat) (i' : Nat) (x' : Core) : (s.setCore i' x').ring i = s.ring i := rfl
@[simp] theorem ring_modCore (i : Nat) (i' : Nat) (f' : Core → Core) : (s.modCore i' f').ring i = s.ring i := rfl
@[simp] theorem ring_setCluster (i : Nat) (i' : Nat) (x' : Cluster) : (s.setCluster i' x').ring i = s.ring i := rfl
@[simp] theorem ring_modCluster (i : Nat) (i' : Nat) (f' : Cluster → Cluster) : (s.modCluster i' f').ring i = s.ring i := rfl
@[simp] theorem ring_modChn (i : Nat) (i' : Nat) (f' : Chanter → Chanter) : (s.modChn i' f').ring i = s.ring i := rfl
@[simp] theorem ring_modKv (i : Nat) (i' : Nat) (f' : Halyard → Halyard) : (s.modKv i' f').ring i = s.ring i := rfl
@[simp] theorem ring_setDie (i : Nat) (i' : Nat) (x' : Die) : (s.setDie i' x').ring i = s.ring i := rfl
@[simp] theorem ring_modDie (i : Nat) (i' : Nat) (f' : Die → Die) : (s.modDie i' f').ring i = s.ring i := rfl
@[simp] theorem ring_setStay (i : Nat) (d' k' : Nat) (v' : Word) : (s.setStay d' k' v').ring i = s.ring i := rfl
@[simp] theorem ring_putStartRec (i : Nat) (v' : Word) : (s.putStartRec v').ring i = s.ring i := rfl
@[simp] theorem ring_setStartRec (i : Nat) (hi' lo' v' : Nat) : (s.setStartRec hi' lo' v').ring i = s.ring i := rfl
@[simp] theorem ring_setEpochReg (i : Nat) (k' : Nat) (v' : Word) : (s.setEpochReg k' v').ring i = s.ring i := rfl
@[simp] theorem ring_post (i : Nat) (d' : Nat) (c' : TCode) (a' b' : Word) : (s.post d' c' a' b').ring i = s.ring i := rfl
@[simp] theorem ring_postMore (i : Nat) (d' : Nat) (c' : TCode) (a' b' : Word) (m' : List Word) : (s.postMore d' c' a' b' m').ring i = s.ring i := rfl
@[simp] theorem ring_setPart (i : Nat) (i' : Nat) (x' : Part) : (s.setPart i' x').ring i = s.ring i := rfl
@[simp] theorem ring_modPart (i : Nat) (i' : Nat) (f' : Part → Part) : (s.modPart i' f').ring i = s.ring i := rfl
@[simp] theorem ring_wr (i : Nat) (r' : Reg) (i' : Nat) (v' : Word) : (s.wr r' i' v').ring i = s.ring i := rfl
@[simp] theorem ring_setFld (i : Nat) (r' : Reg) (i' hi' lo' v' : Nat) : (s.setFld r' i' hi' lo' v').ring i = s.ring i := rfl
@[simp] theorem ring_setFlag (i : Nat) (r' : Reg) (i' b' : Nat) : (s.setFlag r' i' b').ring i = s.ring i := rfl
@[simp] theorem ring_clrFlag (i : Nat) (r' : Reg) (i' b' : Nat) : (s.clrFlag r' i' b').ring i = s.ring i := rfl
@[simp] theorem ring_countSat (i : Nat) (r' : Reg) (i' n' : Nat) : (s.countSat r' i' n').ring i = s.ring i := rfl
@[simp] theorem ring_countWrap (i : Nat) (r' : Reg) (i' n' : Nat) : (s.countWrap r' i' n').ring i = s.ring i := rfl
@[simp] theorem ring_setQ (i : Nat) (c' e' : Nat) (x' : EngQ) : (s.setQ c' e' x').ring i = s.ring i := rfl
@[simp] theorem ring_modQ (i : Nat) (c' e' : Nat) (f' : EngQ → EngQ) : (s.modQ c' e' f').ring i = s.ring i := rfl
@[simp] theorem ring_modTok (i : Nat) (c' e' t' : Nat) (f' : Tok → Tok) : (s.modTok c' e' t' f').ring i = s.ring i := rfl
@[simp] theorem ring_holdCore (i : Nat) (c' k' e' : Nat) (st' : Status) : (s.holdCore c' k' e' st').ring i = s.ring i := rfl
@[simp] theorem ring_emit (i : Nat) (o' : OutMsg) : (s.emit o').ring i = s.ring i := rfl
@[simp] theorem ring_modChip (i : Nat) (f' : Chip → Chip) : (s.modChip f').ring i = s.ring i := rfl
@[simp] theorem ring_modRecov (i : Nat) (f' : Recov → Recov) : (s.modRecov f').ring i = s.ring i := rfl
@[simp] theorem ring_modFab (i : Nat) (f' : Fab → Fab) : (s.modFab f').ring i = s.ring i := rfl
@[simp] theorem win_setCore (i : Nat) (i' : Nat) (x' : Core) : (s.setCore i' x').win i = s.win i := rfl
@[simp] theorem win_modCore (i : Nat) (i' : Nat) (f' : Core → Core) : (s.modCore i' f').win i = s.win i := rfl
@[simp] theorem win_setCluster (i : Nat) (i' : Nat) (x' : Cluster) : (s.setCluster i' x').win i = s.win i := rfl
@[simp] theorem win_modCluster (i : Nat) (i' : Nat) (f' : Cluster → Cluster) : (s.modCluster i' f').win i = s.win i := rfl
@[simp] theorem win_modChn (i : Nat) (i' : Nat) (f' : Chanter → Chanter) : (s.modChn i' f').win i = s.win i := rfl
@[simp] theorem win_modKv (i : Nat) (i' : Nat) (f' : Halyard → Halyard) : (s.modKv i' f').win i = s.win i := rfl
@[simp] theorem win_setDie (i : Nat) (i' : Nat) (x' : Die) : (s.setDie i' x').win i = s.win i := rfl
@[simp] theorem win_modDie (i : Nat) (i' : Nat) (f' : Die → Die) : (s.modDie i' f').win i = s.win i := rfl
@[simp] theorem win_setStay (i : Nat) (d' k' : Nat) (v' : Word) : (s.setStay d' k' v').win i = s.win i := rfl
@[simp] theorem win_putStartRec (i : Nat) (v' : Word) : (s.putStartRec v').win i = s.win i := rfl
@[simp] theorem win_setStartRec (i : Nat) (hi' lo' v' : Nat) : (s.setStartRec hi' lo' v').win i = s.win i := rfl
@[simp] theorem win_setEpochReg (i : Nat) (k' : Nat) (v' : Word) : (s.setEpochReg k' v').win i = s.win i := rfl
@[simp] theorem win_post (i : Nat) (d' : Nat) (c' : TCode) (a' b' : Word) : (s.post d' c' a' b').win i = s.win i := rfl
@[simp] theorem win_postMore (i : Nat) (d' : Nat) (c' : TCode) (a' b' : Word) (m' : List Word) : (s.postMore d' c' a' b' m').win i = s.win i := rfl
@[simp] theorem win_setPart (i : Nat) (i' : Nat) (x' : Part) : (s.setPart i' x').win i = s.win i := rfl
@[simp] theorem win_modPart (i : Nat) (i' : Nat) (f' : Part → Part) : (s.modPart i' f').win i = s.win i := rfl
@[simp] theorem win_wr (i : Nat) (r' : Reg) (i' : Nat) (v' : Word) : (s.wr r' i' v').win i = s.win i := rfl
@[simp] theorem win_setFld (i : Nat) (r' : Reg) (i' hi' lo' v' : Nat) : (s.setFld r' i' hi' lo' v').win i = s.win i := rfl
@[simp] theorem win_setFlag (i : Nat) (r' : Reg) (i' b' : Nat) : (s.setFlag r' i' b').win i = s.win i := rfl
@[simp] theorem win_clrFlag (i : Nat) (r' : Reg) (i' b' : Nat) : (s.clrFlag r' i' b').win i = s.win i := rfl
@[simp] theorem win_countSat (i : Nat) (r' : Reg) (i' n' : Nat) : (s.countSat r' i' n').win i = s.win i := rfl
@[simp] theorem win_countWrap (i : Nat) (r' : Reg) (i' n' : Nat) : (s.countWrap r' i' n').win i = s.win i := rfl
@[simp] theorem win_setQ (i : Nat) (c' e' : Nat) (x' : EngQ) : (s.setQ c' e' x').win i = s.win i := rfl
@[simp] theorem win_modQ (i : Nat) (c' e' : Nat) (f' : EngQ → EngQ) : (s.modQ c' e' f').win i = s.win i := rfl
@[simp] theorem win_modTok (i : Nat) (c' e' t' : Nat) (f' : Tok → Tok) : (s.modTok c' e' t' f').win i = s.win i := rfl
@[simp] theorem win_holdCore (i : Nat) (c' k' e' : Nat) (st' : Status) : (s.holdCore c' k' e' st').win i = s.win i := rfl
@[simp] theorem win_emit (i : Nat) (o' : OutMsg) : (s.emit o').win i = s.win i := rfl
@[simp] theorem win_modChip (i : Nat) (f' : Chip → Chip) : (s.modChip f').win i = s.win i := rfl
@[simp] theorem win_modRecov (i : Nat) (f' : Recov → Recov) : (s.modRecov f').win i = s.win i := rfl
@[simp] theorem win_modFab (i : Nat) (f' : Fab → Fab) : (s.modFab f').win i = s.win i := rfl

/-! Reads after a write. -/

@[simp] theorem rd_wr (r r' : Reg) (i j : Nat) (v : Word) :
    (s.wr r i v).rd r' j = if r = r' ∧ i = j then v else s.rd r' j := by
  unfold rd wr
  by_cases h : r = r' ∧ i = j
  · obtain ⟨rfl, rfl⟩ := h
    simp
  · have hk : r'.key j ≠ r.key i := fun e => h ⟨(Reg.key_inj e).1.symm, (Reg.key_inj e).2.symm⟩
    rw [SMap.get_set_other _ _ _ _ hk]
    simp [h]

@[simp] theorem rd_setFld (r r' : Reg) (i j hi lo v : Nat) :
    (s.setFld r i hi lo v).rd r' j = if r = r' ∧ i = j then setBits (s.rd r i) hi lo v else s.rd r' j := rd_wr ..

@[simp] theorem rd_setFlag (r r' : Reg) (i j b : Nat) :
    (s.setFlag r i b).rd r' j = if r = r' ∧ i = j then setBit (s.rd r i) b else s.rd r' j := rd_wr ..

@[simp] theorem rd_clrFlag (r r' : Reg) (i j b : Nat) :
    (s.clrFlag r i b).rd r' j = if r = r' ∧ i = j then setBits (s.rd r i) b b 0 else s.rd r' j := rd_setFld ..

@[simp] theorem rd_countSat (r r' : Reg) (i j n : Nat) :
    (s.countSat r i n).rd r' j
      = if r = r' ∧ i = j then BitVec.ofNat 32 (satAdd 32 (s.rd r i).toNat n) else s.rd r' j := rd_wr ..

@[simp] theorem rd_countWrap (r r' : Reg) (i j n : Nat) :
    (s.countWrap r i n).rd r' j = if r = r' ∧ i = j then s.rd r i + BitVec.ofNat 32 n else s.rd r' j := rd_wr ..


@[simp] theorem core_setCore (i j : Nat) (x : Core) : (s.setCore i x).core j = if j = i then x else s.core j := by
  simp [core, setCore, SMap.get_set]

@[simp] theorem core_modCore (i j : Nat) (f : Core → Core) :
    (s.modCore i f).core j = if j = i then f (s.core i) else s.core j := by
  simp [modCore]

@[simp] theorem cluster_setCluster (i j : Nat) (x : Cluster) : (s.setCluster i x).cluster j = if j = i then x else s.cluster j := by
  simp [cluster, setCluster, SMap.get_set]

@[simp] theorem cluster_modCluster (i j : Nat) (f : Cluster → Cluster) :
    (s.modCluster i f).cluster j = if j = i then f (s.cluster i) else s.cluster j := by
  simp [modCluster]

@[simp] theorem die_setDie (i j : Nat) (x : Die) : (s.setDie i x).die j = if j = i then x else s.die j := by
  simp [die, setDie, SMap.get_set]

@[simp] theorem die_modDie (i j : Nat) (f : Die → Die) :
    (s.modDie i f).die j = if j = i then f (s.die i) else s.die j := by
  simp [modDie]

@[simp] theorem part_setPart (i j : Nat) (x : Part) : (s.setPart i x).part j = if j = i then x else s.part j := by
  simp [part, setPart, SMap.get_set]

@[simp] theorem part_modPart (i j : Nat) (f : Part → Part) :
    (s.modPart i f).part j = if j = i then f (s.part i) else s.part j := by
  simp [modPart]

@[simp] theorem chn_modCluster (i j : Nat) (f : Cluster → Cluster) :
    (s.modCluster i f).chn j = if j = i then (f (s.cluster i)).chn else s.chn j := by
  unfold chn
  rw [cluster_modCluster]
  split <;> rfl

@[simp] theorem chn_modChn (i j : Nat) (f : Chanter → Chanter) :
    (s.modChn i f).chn j = if j = i then f (s.chn i) else s.chn j := by
  simp [modChn, setChn]

@[simp] theorem kv_modChn (i j : Nat) (f : Chanter → Chanter) : (s.modChn i f).kv j = s.kv j := by
  unfold kv modChn setChn
  rw [cluster_modCluster]
  split <;> simp [*]

@[simp] theorem kv_modKv (i j : Nat) (f : Halyard → Halyard) :
    (s.modKv i f).kv j = if j = i then f (s.kv i) else s.kv j := by
  unfold kv modKv setKv
  rw [cluster_modCluster]
  split <;> rfl

@[simp] theorem chn_modKv (i j : Nat) (f : Halyard → Halyard) : (s.modKv i f).chn j = s.chn j := by
  unfold chn modKv setKv
  rw [cluster_modCluster]
  split <;> simp [*]

@[simp] theorem q_modTok (c e t c' e' : Nat) (f : Tok → Tok) : (s.modTok c e t f).q c' e' = s.q c' e' := by
  unfold q modTok
  rw [core_modCore]
  split <;> simp [*]

@[simp] theorem tok_modQ (c e c' e' t' : Nat) (f : EngQ → EngQ) : (s.modQ c e f).tok c' e' t' = s.tok c' e' t' := by
  unfold tok modQ setQ
  rw [core_modCore]
  split <;> simp [*]

@[simp] theorem ring_modRing (i j : Nat) (f : RingQ → RingQ) :
    (s.modRing i f).ring j = if j = i then f (s.ring i) else s.ring j := by
  simp [ring, modRing, modHif, SMap.get_set]

@[simp] theorem win_setWin (i j : Nat) (x : Option PWin) : (s.setWin i x).win j = if j = i then x else s.win j := by
  simp [win, setWin, modHif, SMap.get_set]

@[simp] theorem q_modQ (c e c' e' : Nat) (f : EngQ → EngQ) :
    (s.modQ c e f).q c' e' = if c' = c ∧ e' = e then f (s.q c e) else s.q c' e' := by
  by_cases h : c' = c
  · subst h
    simp [q, modQ, setQ, SMap.get_set]
  · simp [q, modQ, setQ, h]

@[simp] theorem tok_modTok (c e t c' e' t' : Nat) (f : Tok → Tok) :
    (s.modTok c e t f).tok c' e' t' = if c' = c ∧ 32 * e' + t' = 32 * e + t then f (s.tok c e t) else s.tok c' e' t' := by
  by_cases h : c' = c
  · subst h
    simp [tok, modTok, SMap.get_set]
  · simp [tok, modTok, h]

@[simp] theorem chip_modChip (f : Chip → Chip) : (s.modChip f).chip = f s.chip := rfl
@[simp] theorem recov_modRecov (f : Recov → Recov) : (s.modRecov f).recov = f s.recov := rfl
@[simp] theorem fab_modFab (f : Fab → Fab) : (s.modFab f).fab = f s.fab := rfl
@[simp] theorem hif_modHif (f : HostIf → HostIf) : (s.modHif f).hif = f s.hif := rfl

/-! Stay registers. -/

@[simp] theorem stay_setStay (d k d' k' : Nat) (v : Word) :
    (s.setStay d k v).stay d' k' = if d' = d ∧ k' = k then v &&& stayMask k else s.stay d' k' := by
  unfold setStay stay
  rw [die_modDie]
  by_cases h : d' = d
  · subst h
    simp [SMap.get_set]
  · simp [h]

@[simp] theorem startRec_putStartRec (v : Word) : (s.putStartRec v).startRec = v &&& stayMask 0 := by
  simp [putStartRec, startRec]

/-! Equal parts read equal. -/

theorem fails_congr {s t : State} (h : t.dies = s.dies) : t.fails = s.fails := by simp [fails, startRec, stay, die, h]

theorem rd_congr {s t : State} (h : t.regs = s.regs) (r : Reg) (i : Nat) : t.rd r i = s.rd r i := by simp [rd, h]

end State

end Sys2Proof.Machine
end

