-- ==== Sys2Proof/Laws/Memory.lean ====
section
/-!
SUPPORT. Every write of the device to memory keeps memory's canonical form, and what such a write leaves alone.
-/

namespace Sys2Proof.Machine

namespace SMap

/-- Dropping keys. -/
theorem get_filter {α : Type} (d : α) (m : SMap α) (p : Nat → Bool) (k : Nat) :
    get d (m.filter fun x => p x.1) k = if p k then get d m k else d := by
  induction m with
  | nil => simp [get]
  | cons x m ih =>
    obtain ⟨j, w⟩ := x
    rw [List.filter_cons]
    by_cases hj : j = k
    · subst hj
      cases h : p j <;> simp [h, get] at *
      exact ih
    · cases h : p j <;> simp [hj, get] at * <;> exact ih

/-- What every key holds after a map over the entries of a sparse map, in canonical form or not. -/
theorem get_mapVals {α : Type} [DecidableEq α] (d : α) (f : Nat → α → α) (h : ∀ k, f k d = d) (m : SMap α) (k : Nat) :
    get d (mapVals d f m) k = f k (get d m k) := by
  have e : ∀ m : SMap α, get d (m.map fun x => (x.1, f x.1 x.2)) k = f k (get d m k) := by
    intro m
    induction m with
    | nil => exact (h k).symm
    | cons x m ih =>
      obtain ⟨j, w⟩ := x
      by_cases hj : j = k
      · subst hj; simp [get]
      · simpa [get, hj] using ih
  unfold mapVals
  dsimp only
  rw [get_filter d _ (fun j => decide (get d (m.map fun x => (x.1, f x.1 x.2)) j ≠ d)), e]
  split
  · rfl
  · rename_i hd; simpa using (by simpa using hd : f k (get d m k) = d).symm

end SMap

/-- A splice of two canonical memories is canonical. -/
theorem wf_spliceRegion {lo hi : Nat} {old new : Memory} (h : lo ≤ hi) (ho : old.wf = true) (hn : new.wf = true) :
    (State.spliceRegion lo hi old new).wf = true := by
  unfold State.spliceRegion
  refine Memory.wf_three (p := lo) (q := hi) (SMap.wf_filter _ _ hn) (SMap.wfFrom_filter_ge ho _ (by intro x hx; simp at hx; exact hx.1))
    (SMap.wfFrom_filter_ge hn _ (by simp)) ?_ ?_ h
  · intro e he; simpa using (List.mem_filter.1 he).2
  · intro e he; have := (List.mem_filter.1 he).2; simp at this; exact this.2

namespace State

theorem tableRegion_le {s : State} {c lo hi : Nat} (h : s.tableRegion c = some (lo, hi)) : lo ≤ hi := by
  unfold tableRegion at h
  dsimp only at h
  split at h
  · cases h
  · cases h; omega

theorem wf_guardTables (s : State) {old : Memory} (ho : old.wf = true) (cs : List Nat) :
    ∀ m : Memory, m.wf = true → (s.guardTables old m cs).wf = true := by
  induction cs with
  | nil => exact fun _ h => h
  | cons c cs ih =>
    intro m hm
    unfold guardTables
    split
    · exact ih m hm
    · rename_i lo hi h
      exact ih _ (wf_spliceRegion (tableRegion_le h) ho hm)

theorem setFlags_keeps (hits : List Nat) (r : Reg) (b : Nat) (s : State) :
    ∃ g, hits.foldl (fun t c => t.setFlag r c b) s = { s with regs := g } := by
  induction hits generalizing s with
  | nil => exact ⟨s.regs, rfl⟩
  | cons c cs ih =>
    obtain ⟨g, h⟩ := ih (s.setFlag r c b)
    exact ⟨g, h⟩

/-- What the guard of the Table Regions can do: registers alone may move, and the memory it gives is canonical. -/
theorem keepTables_keeps (s : State) (old m : Memory) (rs : List (Nat × Nat)) :
    ∃ g, (s.keepTables old m rs).1 = { s with regs := g } := setFlags_keeps _ _ _ _

theorem wf_keepTables (s : State) {old m : Memory} (rs : List (Nat × Nat)) (ho : old.wf = true) (hm : m.wf = true) :
    (s.keepTables old m rs).2.1.wf = true := by
  unfold keepTables
  dsimp only
  split
  · exact hm
  · exact wf_guardTables s ho _ m hm

theorem wf_copies (s : State) (hs : s.mem.wf = true) (hit : List Nat) :
    ∀ m : Memory, m.wf = true → (hit.foldl (fun m pg => m.copyInto s.mem (pageBytes * pg) (s.slotPage pg) pageBytes) m).wf = true := by
  induction hit with
  | nil => exact fun _ h => h
  | cons pg hit ih => exact fun m hm => ih _ (Memory.wf_copyInto _ _ _ _ _ hm hs)

/-- First touches copy pages into the slot: memory stays canonical. -/
theorem wf_firstTouch (s : State) (m : Memory) (rs : List (Nat × Nat)) (hs : s.mem.wf = true) (hm : m.wf = true) :
    (s.firstTouch m rs).2.1.wf = true := by
  unfold firstTouch
  dsimp only
  split
  · exact hm
  · exact wf_keepTables s _ hm (wf_copies s hs _ m hm)

/-- Besides memory, a first touch moves registers, the snapshot and the counter of free values alone. -/
theorem firstTouch_keeps (s : State) (m : Memory) (rs : List (Nat × Nat)) :
    ∃ g x n, (s.firstTouch m rs).1 = { s with regs := g, snap := x, fresh := n } := by
  unfold firstTouch
  dsimp only
  split
  · exact ⟨s.regs, s.snap, s.fresh, rfl⟩
  · obtain ⟨g, h⟩ := keepTables_keeps s m (List.foldl (fun m pg => m.copyInto s.mem (pageBytes * pg) (s.slotPage pg) pageBytes) m
      (s.snap.prot.filter fun pg => rs.any fun r => rangesMeet r.1 r.2 (pageBytes * pg) pageBytes))
      ((s.snap.prot.filter fun pg => rs.any fun r => rangesMeet r.1 r.2 (pageBytes * pg) pageBytes).map fun pg => (s.slotPage pg, pageBytes))
    rw [h]
    exact ⟨_, _, _, rfl⟩

theorem wf_applyMem (s : State) (m : Memory) (rs : List (Nat × Nat)) (hs : s.mem.wf = true) (hm : m.wf = true) :
    (s.applyMem m rs).mem.wf = true := by
  unfold applyMem
  dsimp only
  have h := wf_firstTouch s m rs hs hm
  generalize (s.firstTouch m rs).1.noReplayWords (blocksOf (rs ++ (s.firstTouch m rs).2.2)) = ws
  generalize (s.firstTouch m rs).2.1 = x at h
  induction ws generalizing x with
  | nil => exact h
  | cons w ws ih => exact ih _ (Memory.wf_wr32 _ _ _ h)

theorem setFlags_mem (hits : List Nat) (r : Reg) (b : Nat) :
    ∀ s : State, (hits.foldl (fun t c => t.setFlag r c b) s).mem = s.mem := by
  induction hits with
  | nil => exact fun _ => rfl
  | cons c cs ih => exact fun s => ih _

theorem wf_commitMem (s : State) (m : Memory) (rs : List (Nat × Nat)) (hs : s.mem.wf = true) (hm : m.wf = true) :
    (s.commitMem m rs).1.mem.wf = true := by
  unfold commitMem
  obtain ⟨g, h⟩ := keepTables_keeps s s.mem m rs
  refine wf_applyMem _ _ _ ?_ (wf_keepTables s rs hs hm)
  rw [h]; exact hs

/-- A store keeps memory's canonical form. -/
theorem wf_store (s : State) (a : Nat) (bs : List Byte) (hs : s.mem.wf = true) : (s.store a bs).mem.wf = true :=
  wf_commitMem s _ _ hs (Memory.wf_wrN _ _ _ hs)

/-! What a write to memory leaves alone: the queue of commands, the fuses, and every part of the state but memory, the
cores' caches, watches and logs, the snapshot, registers and the counter of free values. -/

/-- Everything a write to memory can change, in one equation. -/
theorem applyMem_eq (s : State) (m : Memory) (rs : List (Nat × Nat)) :
    ∃ g x n m' bs, s.applyMem m rs = { s with regs := g, snap := x, fresh := n, mem := m'
                                              cores := SMap.mapVals Core.reset (fun _ c => coreWrite bs c) s.cores } := by
  unfold applyMem
  obtain ⟨g, x, n, h⟩ := firstTouch_keeps s m rs
  dsimp only
  rw [h]
  exact ⟨_, _, _, _, _, rfl⟩

theorem commitMem_eq (s : State) (m : Memory) (rs : List (Nat × Nat)) :
    ∃ g x n m' bs, (s.commitMem m rs).1 = { s with regs := g, snap := x, fresh := n, mem := m'
                                                   cores := SMap.mapVals Core.reset (fun _ c => coreWrite bs c) s.cores } := by
  unfold commitMem
  obtain ⟨g, h⟩ := keepTables_keeps s s.mem m rs
  obtain ⟨g', x, n, m', bs, h'⟩ := applyMem_eq (s.keepTables s.mem m rs).1 (s.keepTables s.mem m rs).2.1 rs
  dsimp only
  rw [h', h]
  exact ⟨_, _, _, _, _, rfl⟩

theorem applyMem_keeps (s : State) (m : Memory) (rs : List (Nat × Nat)) :
    (s.applyMem m rs).pending = s.pending ∧ (s.applyMem m rs).chip = s.chip ∧ (s.applyMem m rs).parts = s.parts
      ∧ (s.applyMem m rs).dies = s.dies ∧ (s.applyMem m rs).recov = s.recov ∧ (s.applyMem m rs).fab = s.fab
      ∧ (s.applyMem m rs).hif = s.hif ∧ (s.applyMem m rs).clusters = s.clusters ∧ (s.applyMem m rs).hostMem = s.hostMem
      ∧ (s.applyMem m rs).out = s.out := by
  obtain ⟨g, x, n, m', bs, h⟩ := applyMem_eq s m rs
  rw [h]
  exact ⟨rfl, rfl, rfl, rfl, rfl, rfl, rfl, rfl, rfl, rfl⟩

theorem store_keeps (s : State) (a : Nat) (bs : List Byte) :
    (s.store a bs).pending = s.pending ∧ (s.store a bs).chip = s.chip ∧ (s.store a bs).parts = s.parts
      ∧ (s.store a bs).dies = s.dies ∧ (s.store a bs).recov = s.recov ∧ (s.store a bs).fab = s.fab
      ∧ (s.store a bs).hif = s.hif ∧ (s.store a bs).clusters = s.clusters ∧ (s.store a bs).hostMem = s.hostMem
      ∧ (s.store a bs).out = s.out := by
  obtain ⟨g, x, n, m', bs', h⟩ := commitMem_eq s (s.mem.wrN a bs) [(a, bs.length)]
  unfold store
  rw [h]
  exact ⟨rfl, rfl, rfl, rfl, rfl, rfl, rfl, rfl, rfl, rfl⟩

end State

end Sys2Proof.Machine
end

