-- ==== Sys2Proof/Laws/Rows.lean ====
section
/-!
SUPPORT. What the shared operations behind many rows do, once each: the tensor rows, the Chanter's rows, ring entries,
received frames, register fields, and the holds that leave queues and tokens alone.
-/

namespace Sys2Proof.Machine

/-! Tensor rows. -/

theorem exec_tensorRow {i : Instr} {core eng op : Nat} {env : Env} {body : Body} (s : State)
    (h : tensorRow i = some (core, eng, op, env, body)) : exec i s = .next (s.runHead core eng op env body) := by
  cases i <;> simp only [tensorRow, Option.some.injEq, Prod.mk.injEq, reduceCtorEq] at h
  all_goals (obtain ⟨rfl, rfl, rfl, rfl, rfl⟩ := h; rfl)

namespace State

@[simp] theorem hold_modQ (s : State) (c e : Nat) (f : EngQ → EngQ) (k : Nat) :
    ((s.modQ c e f).core k).hold = (s.core k).hold := by
  unfold modQ setQ
  rw [core_modCore]
  split <;> simp [*]

@[simp] theorem hold_modTok (s : State) (c e id : Nat) (f : Tok → Tok) (k : Nat) :
    ((s.modTok c e id f).core k).hold = (s.core k).hold := by
  unfold modTok
  rw [core_modCore]
  split <;> simp [*]

@[simp] theorem q_holdCore (s : State) (c cause eng : Nat) (st : Status) (k e : Nat) :
    (s.holdCore c cause eng st).q k e = s.q k e := by
  unfold holdCore q
  rw [core_modCore]
  split
  · subst_vars; split <;> rfl
  · rfl

@[simp] theorem tok_holdCore (s : State) (c cause eng : Nat) (st : Status) (k e id : Nat) :
    (s.holdCore c cause eng st).tok k e id = s.tok k e id := by
  unfold holdCore tok
  rw [core_modCore]
  split
  · subst_vars; split <;> rfl
  · rfl

/-! The Chanter's rows. -/

/-- The clock changes neither the pc nor what is fetched there. -/
theorem chnFetch_chnClock (s : State) (c n m : Nat) :
    (s.chnClock c n m).chnFetch c = s.chnFetch c ∧ ((s.chnClock c n m).chn c).pc = (s.chn c).pc := by
  simp [chnClock, chnTick, chnFetch, Chanter.slot]

/-- A row of a Chanter instruction retires it, traps or stalls. -/
theorem chnRow_of_fetches {s : State} {c : Nat} {k : ChnKind} {w len : Nat} (n m : Nat) (h : s.Fetches c k w len) :
    s.chnRow c k n m = match (s.chnClock c n m).execRv c w (s.chn c).pc len with
      | .next s pc => s.chnRetire c pc (writesInstret w)
      | .trap s t => s.chnTrap c t
      | .stall s => s := by
  have hc := chnFetch_chnClock s c n m
  rw [chnRow, if_pos h.1, chnRun1, hc.1, h.2]
  dsimp only
  rw [hc.2] <;> rfl

end State

theorem exec_chnInstr {i : Instr} {c n m : Nat} {k : ChnKind} (s : State) (h : chnInstr i = some (c, k, n, m)) :
    exec i s = .next (s.chnRow c k n m) := by
  cases i <;> simp [chnInstr] at h <;> (obtain ⟨rfl, rfl, rfl, rfl⟩ := h; rfl)

namespace State

/-! Ring entries. -/

theorem actEntry_of_starts {s t : State} {r op fn : Nat} {e : List Byte} (act : State → Nat → List Byte → State)
    (h : s.Starts r op fn e t) : s.actEntry r op act = act t fn e := by
  obtain ⟨es, h1, h2, h3, h4, rfl⟩ := h
  simp only [actEntry, h1, h2, h3, h4, and_self, if_true]

/-- Starting an entry changes its ring alone. -/
theorem keeps_of_starts {s t : State} {r op fn : Nat} {e : List Byte} (h : s.Starts r op fn e t) :
    t.regs = s.regs ∧ t.parts = s.parts ∧ t.hostWins = s.hostWins ∧ t.dies = s.dies ∧ t.mem = s.mem := by
  obtain ⟨es, h1, h2, h3, h4, rfl⟩ := h
  exact ⟨rfl, rfl, rfl, rfl, rfl⟩

theorem job_of_starts {s t : State} {r op fn : Nat} {e : List Byte} (h : s.Starts r op fn e t) (p : Nat) :
    t.jobState p = s.jobState p ∧ t.part p = s.part p := by
  obtain ⟨es, h1, h2, h3, h4, rfl⟩ := h
  exact ⟨rfl, rfl⟩

/-! Received frames. -/

/-- Credits that go back leave the incarnation and the peers reported lost. -/
theorem creditBack_keeps (s : State) (b : Option (Nat × Nat × Nat)) :
    (s.creditBack b).ownInc = s.ownInc ∧ (s.creditBack b).isLost = s.isLost := by
  unfold creditBack
  repeat' split
  all_goals exact ⟨rfl, rfl⟩

/-- The link keeps the incarnation and the peers reported lost. -/
theorem linkTake_keeps (s : State) (p : Nat) (f : Frame) :
    (s.linkTake p f).1.ownInc = s.ownInc ∧ (s.linkTake p f).1.isLost = s.isLost := by
  unfold linkTake
  constructor
  all_goals
    repeat' split
    all_goals first
      | rfl
      | (dsimp only
         split <;> first | rfl | (rw [(creditBack_keeps _ _).1]; rfl) | (rw [(creditBack_keeps _ _).2]; rfl))

/-- A frame that the transport delivers in order has the effect of its type, and is answered as that says. -/
theorem receive_in_order {s : State} {p : Nat} {f : Frame} {typ : Nat} (act : State → Nat → State × Ans)
    (h : s.Takes p f typ) (h5 : typ ≠ 5) (h6 : typ ≠ 6) (h8 : typ < 8) (ho : s.InOrder p f) :
    s.receive p f typ act = match act (s.entered p f) (frameKey f) with
      | (u, .hold) => u
      | (u, .ack) => (u.delivered (frameKey f)).sendAck (frameKey f) (marked f && (typ == 0 || typ == 2 || typ == 4))
      | (u, .quiet) => u.modFlow (frameKey f) fun x => { x with crcFail := 0 }
      | (u, .nack) => (u.delivered (frameKey f)).sendNack (frameKey f) (hPsn f.hdr) := by
  obtain ⟨a1, a2, a3, a4, a5, a6, a7, a8, a9⟩ := h
  have b := s.linkTake_keeps p f
  have key : flowKey (hDdie f.hdr) (hSrc f.hdr) (hSdie f.hdr) = frameKey f := rfl
  have e : (if hAckV f.hdr then (((s.linkTake p f).1.meetInc (frameKey f) (hSinc f.hdr)).1).takeAck (frameKey f)
      (hApsn f.hdr) else (((s.linkTake p f).1.meetInc (frameKey f) (hSinc f.hdr)).1)) = s.entered p f := rfl
  unfold InOrder at ho
  simp only [receive, a2, a4, a5, a6, b.1, b.2, key, a9, e, ho]
  have a7 := a7.resolve_right (by omega)
  have a8 : (s.isLost (hSrc f.hdr) && typ != 7) = false := by rcases a8 with h | h <;> simp [h]
  simp only [a7, a8]
  simp [h5, h6]
  generalize act (s.entered p f) (frameKey f) = r
  rcases r with ⟨u, (_|_|_|_)⟩ <;> simp [delivered] <;> intro h <;> omega

end State

/-! Register fields. -/

/-- The fields of a register lie within its word and apart from each other. -/
theorem Reg.fields_apart (r : Reg) :
    (∀ f ∈ r.fields, f.lo ≤ f.hi ∧ f.hi < 32) ∧ r.fields.Pairwise fun a b => a.hi < b.lo ∨ b.hi < a.lo := by
  cases r <;> decide

end Sys2Proof.Machine
end

