-- ==== Sys2Proof/Laws/Writes.lean ====
section
/-!
SUPPORT. What a write to memory and an event record do to the cores, the queues, the tokens and the registers: the caches,
Source Watch, STALE marks and Replay Logs may move, and nothing else does.
-/

namespace Sys2Proof.Machine

@[simp] theorem logWrite_nil (bs : List Nat) : logWrite bs [] = [] := rfl

/-- A token but for its STALE mark. -/
def Tok.fresh (t : Tok) : Tok := { t with stale := false }

theorem watchWrite_keeps (bs : List Nat) (c : Core) :
    (watchWrite bs c).q = c.q ∧ (watchWrite bs c).desc = c.desc ∧ (watchWrite bs c).dver = c.dver
      ∧ (watchWrite bs c).journal = c.journal ∧ (watchWrite bs c).hold = c.hold ∧ (watchWrite bs c).cand = c.cand
      ∧ (watchWrite bs c).shadow = c.shadow ∧ (watchWrite bs c).miss = c.miss ∧ (watchWrite bs c).watchOrder = c.watchOrder
      ∧ ∀ k, (SMap.get Tok.reset (watchWrite bs c).tok k).fresh = (SMap.get Tok.reset c.tok k).fresh := by
  unfold watchWrite
  generalize c.watch = ws
  induction ws generalizing c with
  | nil => exact ⟨rfl, rfl, rfl, rfl, rfl, rfl, rfl, rfl, rfl, fun _ => rfl⟩
  | cons w ws ih =>
    rw [List.foldl_cons]
    dsimp only
    split
    · obtain ⟨h1, h2, h3, h4, h5, h6, h7, h8, h9, h10⟩ := ih { c with
        watch := SMap.set WRange.reset c.watch w.1 { w.2 with seen := true }
        tok := SMap.set Tok.reset c.tok (32 * w.2.eng + w.2.tok)
          { SMap.get Tok.reset c.tok (32 * w.2.eng + w.2.tok) with stale := true } }
      refine ⟨h1, h2, h3, h4, h5, h6, h7, h8, h9, fun k => (h10 k).trans ?_⟩
      dsimp only
      rw [SMap.get_set]
      split
      · rename_i e; subst e; rfl
      · rfl
    · exact ih c

/-- What a write does to one core. -/
theorem coreWrite_keeps (bs : List Nat) (c : Core) :
    (coreWrite bs c).desc = c.desc ∧ (coreWrite bs c).dver = c.dver ∧ (coreWrite bs c).journal = c.journal
      ∧ (coreWrite bs c).hold = c.hold ∧ (coreWrite bs c).cand = c.cand ∧ (coreWrite bs c).shadow = c.shadow
      ∧ (coreWrite bs c).miss = (cacheWrite bs c).miss ∧ (coreWrite bs c).watchOrder = c.watchOrder
      ∧ (∀ k, (SMap.get Tok.reset (coreWrite bs c).tok k).fresh = (SMap.get Tok.reset c.tok k).fresh)
      ∧ ∀ e, SMap.get EngQ.reset (coreWrite bs c).q e
          = { SMap.get EngQ.reset c.q e with log := logWrite bs (SMap.get EngQ.reset c.q e).log } := by
  obtain ⟨h1, h2, h3, h4, h5, h6, h7, h8, h9, h10⟩ := watchWrite_keeps bs (cacheWrite bs c)
  refine ⟨h2, h3, h4, h5, h6, h7, h8, h9, h10, fun e => ?_⟩
  show SMap.get EngQ.reset (SMap.mapVals EngQ.reset (fun _ q => { q with log := logWrite bs q.log }) _) e = _
  rw [SMap.get_mapVals _ _ (fun _ => rfl), h1]
  rfl

@[simp] theorem coreWrite_reset (bs : List Nat) : coreWrite bs Core.reset = Core.reset := rfl

namespace State

/-- Every core after a write to memory. -/
theorem applyMem_core (s : State) (m : Memory) (rs : List (Nat × Nat)) :
    ∃ bs, ∀ k, (s.applyMem m rs).core k = coreWrite bs (s.core k) := by
  obtain ⟨g, x, n, m', bs, h⟩ := applyMem_eq s m rs
  refine ⟨bs, fun k => ?_⟩
  rw [h]
  exact SMap.get_mapVals Core.reset (fun _ c => coreWrite bs c) (fun _ => coreWrite_reset bs) _ _

theorem commitMem_core (s : State) (m : Memory) (rs : List (Nat × Nat)) :
    ∃ bs, ∀ k, (s.commitMem m rs).1.core k = coreWrite bs (s.core k) := by
  obtain ⟨g, x, n, m', bs, h⟩ := commitMem_eq s m rs
  refine ⟨bs, fun k => ?_⟩
  rw [h]
  exact SMap.get_mapVals Core.reset (fun _ c => coreWrite bs c) (fun _ => coreWrite_reset bs) _ _

theorem store_core (s : State) (a : Nat) (bs : List Byte) :
    ∃ xs, ∀ k, (s.store a bs).core k = coreWrite xs (s.core k) := commitMem_core _ _ _

theorem setFlags_rd (hits : List Nat) (q : Reg) (b : Nat) (s : State) {r : Reg} (i : Nat) (h : r ≠ q) :
    (hits.foldl (fun t c => t.setFlag q c b) s).rd r i = s.rd r i := by
  induction hits generalizing s with
  | nil => rfl
  | cons c cs ih => rw [List.foldl_cons, ih]; simp [Ne.symm h]

theorem keepTables_rd (s : State) (old m : Memory) (rs : List (Nat × Nat)) {r : Reg} (i : Nat) (h : r ≠ .KVP_STATUS) :
    (s.keepTables old m rs).1.rd r i = s.rd r i := setFlags_rd _ _ _ _ _ h

/-- Registers after a write to memory: only KVP_STATUS and the two counts of first touches may move. -/
theorem applyMem_rd (s : State) (m : Memory) (rs : List (Nat × Nat)) {r : Reg} (i : Nat)
    (h : r ∉ [Reg.RES_TOUCH_COUNT, .RES_TOUCH_STALL, .KVP_STATUS]) : (s.applyMem m rs).rd r i = s.rd r i := by
  simp only [List.mem_cons, List.not_mem_nil, or_false, not_or] at h
  obtain ⟨h1, h2, h3⟩ := h
  unfold applyMem firstTouch
  dsimp only
  split
  · rfl
  · show State.rd (State.countSat (State.countSat _ _ _ _) _ _ _) r i = _
    rw [State.countSat, rd_wr, if_neg (fun e => h2 e.1.symm), State.countSat, rd_wr, if_neg (fun e => h1 e.1.symm)]
    exact keepTables_rd _ _ _ _ _ h3

theorem store_rd (s : State) (a : Nat) (bs : List Byte) {r : Reg} (i : Nat)
    (h : r ∉ [Reg.RES_TOUCH_COUNT, .RES_TOUCH_STALL, .KVP_STATUS]) : (s.store a bs).rd r i = s.rd r i := by
  unfold store commitMem
  dsimp only
  rw [applyMem_rd _ _ _ _ h, keepTables_rd _ _ _ _ _ (by simp only [List.mem_cons, not_or] at h; exact h.2.2.1)]

/-- Everything an event record can do: it is lost and counted, or its words are stored, the head moves, and the Chanter has
the event pending. -/
theorem putEvent_cases (s : State) (c : Nat) (ws : List Word) :
    s.putEvent c ws = (s.countSat .CHN_EVR_LOST c 1).setFlag .CHN_STATUS c 29
      ∨ ∃ a n, s.putEvent c ws = ((s.store a (ws.flatMap fun w => natLe 4 w.toNat)).setFld .CHN_EVR_HEAD c 15 0 n).modChn c
          fun x => { x with mip := setBit x.mip 16 } := by
  unfold putEvent
  dsimp only
  split
  · exact .inl rfl
  · exact .inr ⟨_, _, rfl⟩

/-- An event record changes the cores by its write alone, and no register but those of the Event Ring and of a write. -/
theorem putEvent_core (s : State) (c : Nat) (ws : List Word) (k : Nat) :
    ∃ bs, (s.putEvent c ws).core k = coreWrite bs (s.core k) ∨ (s.putEvent c ws).core k = s.core k := by
  obtain h | ⟨a, n, h⟩ := putEvent_cases s c ws <;> rw [h]
  · exact ⟨[], .inr (by simp)⟩
  · obtain ⟨xs, e⟩ := store_core s a (ws.flatMap fun w => natLe 4 w.toNat)
    exact ⟨xs, .inl (by rw [core_modChn, core_setFld, e])⟩

theorem putEvent_rd (s : State) (c : Nat) (ws : List Word) {r : Reg} (i : Nat)
    (h : r ∉ [Reg.RES_TOUCH_COUNT, .RES_TOUCH_STALL, .KVP_STATUS, .CHN_EVR_LOST, .CHN_STATUS, .CHN_EVR_HEAD]) :
    (s.putEvent c ws).rd r i = s.rd r i := by
  simp only [List.mem_cons, List.not_mem_nil, or_false, not_or] at h
  obtain ⟨h1, h2, h3, h4, h5, h6⟩ := h
  obtain h | ⟨a, n, h⟩ := putEvent_cases s c ws <;> rw [h]
  · simp [State.countSat, Ne.symm h4, Ne.symm h5]
  · simp [Ne.symm h6, store_rd _ _ _ _ (show r ∉ [Reg.RES_TOUCH_COUNT, .RES_TOUCH_STALL, .KVP_STATUS] by simp [h1, h2, h3])]

/-- Queues and tokens after an event record. -/
theorem putEvent_q (s : State) (c : Nat) (ws : List Word) (k e : Nat) :
    ∃ l, (s.putEvent c ws).q k e = { s.q k e with log := l } := by
  obtain ⟨bs, h | h⟩ := putEvent_core s c ws k
  · refine ⟨logWrite bs (s.q k e).log, ?_⟩
    show SMap.get EngQ.reset ((s.putEvent c ws).core k).q e = _
    rw [h]; exact (coreWrite_keeps bs _).2.2.2.2.2.2.2.2.2 e
  · refine ⟨(s.q k e).log, ?_⟩
    show SMap.get EngQ.reset ((s.putEvent c ws).core k).q e = _
    rw [h]; rfl

theorem putEvent_tok (s : State) (c : Nat) (ws : List Word) (k e id : Nat) :
    ((s.putEvent c ws).tok k e id).fresh = (s.tok k e id).fresh := by
  show (SMap.get Tok.reset ((s.putEvent c ws).core k).tok (32 * e + id)).fresh = _
  obtain ⟨bs, h | h⟩ := putEvent_core s c ws k
  · rw [h]; exact (coreWrite_keeps bs _).2.2.2.2.2.2.2.2.1 _
  · rw [h]; rfl

theorem putEvent_hold (s : State) (c : Nat) (ws : List Word) (k : Nat) : ((s.putEvent c ws).core k).hold = (s.core k).hold := by
  obtain ⟨bs, h | h⟩ := putEvent_core s c ws k
  · rw [h]; exact (coreWrite_keeps bs _).2.2.2.1
  · rw [h]

theorem wf_putEvent (s : State) (c : Nat) (ws : List Word) (h : s.mem.wf = true) : (s.putEvent c ws).mem.wf = true := by
  obtain e | ⟨a, n, e⟩ := putEvent_cases s c ws <;> rw [e]
  · rw [setFlag_mem, countSat_mem]; exact h
  · rw [modChn_mem, setFld_mem]; exact wf_store _ _ _ h

end State

end Sys2Proof.Machine
end

