-- ==== Sys2Proof/WellFormed.lean ====
section
/-!
DEFINITION. Which operand values a command can carry, beyond what the operands' types say: sizes and counts that the spec
fixes. A command that is not well formed is not one that the outside can send; its meaning says nothing about the hardware.
-/

namespace Sys2Proof

/-- A received frame carries at most 4096 bytes of data (R345). -/
def Frame.wf (f : Frame) : Bool := decide (f.data.length ≤ 4096)

/-- One value for each of the four dies (R533 to R535). -/
def Sense.wf (x : Sense) : Bool := decide (x.want.length = 4) && decide (x.tj.length = 4)

/-- Well-formed commands: BAR0 is 64 MiB (R397), a submission entry 64 bytes (R404), an Ed448 key 57 bytes (R497), and a bus
address 7 bits (R541). -/
def Instr.wf : Instr → Bool
  | .writeFrameRx _ f => f.wf
  | .readReqRx _ f => f.wf
  | .readDataRx _ f => f.wf
  | .flagFrameRx _ f => f.wf
  | .collFrameRx _ f => f.wf
  | .ackRx _ f => f.wf
  | .nackRx _ f => f.wf
  | .resetNoticeRx _ f => f.wf
  | .peerDownRx _ f => f.wf
  | .peerUpRx _ f _ => f.wf
  | .restoreRx _ f _ _ => f.wf
  | .replayRx _ f => f.wf
  | .frameForward _ f => f.wf
  | .entryFetch bytes _ => decide (bytes.length = 64)
  | .lcChange _ vkey okey _ _ => decide (vkey.length = 57) && decide (okey.length = 57)
  | .governorLoop x => x.wf
  | .envelopeOverrun want => decide (want.length = 4)
  | .i3cPrivateWrite addr _ => decide (addr < 128)
  | .i3cPrivateRead addr _ => decide (addr < 128)
  | .setdasa static addr => decide (static < 128) && decide (addr < 128)
  | .entdaa addr => decide (addr < 128)
  | .getstatus addr => decide (addr < 128)
  | .getbcr addr => decide (addr < 128)
  | .getdcr addr => decide (addr < 128)
  | .getpid addr => decide (addr < 128)
  | .rcFieldRead _ a => decide (a.off < 2 ^ 26)
  | .registerWrite _ a _ => decide (a.off < 2 ^ 26)
  | .nop .. | .waitf .. | .waitfSatisfied .. | .setf .. | .addf .. | .upassOpen .. | .upassClose .. | .fmm ..
  | .bmm .. | .add .. | .sub .. | .mul .. | .minF .. | .maxF .. | .cmp .. | .fma .. | .sel .. | .absF .. | .neg ..
  | .cvt .. | .exp .. | .exp2 .. | .log .. | .log2 .. | .rcp .. | .rsqrt .. | .sqrt .. | .div .. | .tanh ..
  | .sin .. | .cos .. | .comb .. | .rsum .. | .rmax .. | .iadd .. | .isub .. | .imin .. | .imax .. | .icmp ..
  | .andU .. | .orU .. | .xorU .. | .shl .. | .shr .. | .vmode .. | .optAdam .. | .optMom .. | .optStep ..
  | .conv .. | .conv2 .. | .convx .. | .reefPost .. | .gather .. | .kvread .. | .route .. | .copy .. | .prefetch ..
  | .staleRefetch .. | .staleRefetchLand .. | .kvappend .. | .furl .. | .unfurl .. | .csend .. | .crecv ..
  | .tokenDeadlock .. | .flagDeadlock .. | .waitfTimeout .. | .tdisp .. | .tdispm .. | .tdesc .. | .tdrain ..
  | .dispatchHeldRelease .. | .chanterBaseInstr .. | .dmBitSetStore .. | .dmBitClearStore .. | .dmAmo ..
  | .chanterTimer .. | .chanterInterruptTaken .. | .tmboxClear .. | .tmboutWrite .. | .chnMboxSet .. | .chnRun ..
  | .slotArm .. | .slotDisarm .. | .loaderGo .. | .loaderDone .. | .reefDataWrite .. | .reefDataRead ..
  | .reefStepBoundary .. | .overflowVerdict .. | .stepReady .. | .stepBoundary .. | .stepSyncEdge ..
  | .stepSyncWindowExpire .. | .stepBarrierDone .. | .stepBegin .. | .normWatchObservation .. | .nwDataWrite ..
  | .nwDataRead .. | .shadowSampleJudge .. | .shrFlagDataWrite .. | .shrRegDataWrite .. | .shrConfigWrite ..
  | .hbmSlotGrant .. | .dataCacheMissFill .. | .segmentLand .. | .stackOdeccReport .. | .kvOpen .. | .kvTrunc ..
  | .kvClose .. | .kvOffload .. | .kvAdopt .. | .kvReset .. | .kvUpdateRelease .. | .reclaimToFree ..
  | .stagingFlush .. | .flushResume .. | .lackRx .. | .creditRx .. | .lanemapRx .. | .rstnRx ..
  | .linkResendTimeout .. | .linkAckTimer .. | .transportRto .. | .fabricAckTimeout .. | .lostPeerTimeout ..
  | .portsDownLost .. | .ecnRateRecover .. | .laneMarginLow .. | .fecLimitExceeded .. | .laneRetrainWrite ..
  | .laneRetrainDone .. | .portUp .. | .hostNop .. | .jobSubmit .. | .planCompute .. | .planAgreement ..
  | .jobStart .. | .jobStop .. | .jobAbort .. | .jobRelease .. | .portOpen .. | .portClose .. | .hostwinGrant ..
  | .hostwinRevoke .. | .sqTailDoorbell .. | .cqHeadDoorbell .. | .completionWrite .. | .coalesceTimer ..
  | .windowWriteTlp .. | .windowReadTlp .. | .ringEnable .. | .ringDisable .. | .fnRangeWrite .. | .flrVf ..
  | .flrPf0 | .vfEnableClear | .msixUnmask .. | .telltaleTick .. | .firstTouchCopy .. | .epochCopyDone ..
  | .epochEncodeDone .. | .epochCommit .. | .snapReqWrite .. | .restore .. | .replanRebuild .. | .recalPc ..
  | .drainCluster .. | .readmitCluster .. | .fenceCluster .. | .drainDie .. | .readmitDie .. | .fenceDie ..
  | .fwHandover .. | .engineWatchdog .. | .memoryRequestWatchdog .. | .queueWatchdog .. | .dispatchWatchdog ..
  | .refetchWatchdog .. | .stepWatchdog .. | .contextReset .. | .engineReset .. | .partitionReset ..
  | .chipReset .. | .escalationDeadline .. | .stepReplay .. | .mgtResetCmd .. | .mastheadHeartbeat ..
  | .mastheadWatchdog .. | .trayHeartbeat | .trayWatchdog | .rejoinWindowExpire .. | .rejoinAgree .. | .powerOn
  | .brownOut | .thermalTrip | .perstN .. | .pcieHotReset | .resetN .. | .resetRelease .. | .startWatchdog ..
  | .startSequence .. | .updateBegin .. | .updateEnd .. | .obWrite .. | .mrmExit .. | .stayDataWrite ..
  | .staymemDataRead .. | .writeSlot .. | .fwCommit .. | .secTokenDataAccess .. | .getVersion | .getCapabilities
  | .negotiateAlgorithms .. | .getDigests | .getCertificate .. | .challenge .. | .getMeasurements ..
  | .spdmUnsupportedRequest | .tamperTrip .. | .transientLimit | .clockStep .. | .brakeAssert | .brakeRelease
  | .vinLow | .pwrCtrlWrite .. | .reqMrm | .clrMrm | .enec | .disec | .rstdaa | .mastheadRestarted .. | .powerLoss
  | .refclkRuns .. | .coldStartRelease .. => true

end Sys2Proof
end

