-- ==== Sys2Proof/Tests/Slice0.lean ====
section
/-!
SUPPORT. The model's own tests: ill-formed operands are refused, results worked out from the spec's tables and examples,
and for every statement with hypotheses a state and operands that meet them.
-/

open Sys2Proof Sys2Proof.Machine

set_option Elab.async false

namespace Sys2Proof.Tests

/-! Helpers. -/

/-- The state after reset. -/
def s0 : State := State.reset

/-- An instruction word from its opcode, engine code and the bits of its other fields. -/
def iword (op eng rest : Nat) : TWord := BitVec.ofNat 128 (op * 2 ^ 120 + eng * 2 ^ 117 + rest)

/-- Nothing amiss around an instruction. -/
def env0 : Env := Env.quiet

/-- A word at the head of a queue of core 0. -/
def headed (eng : Nat) (w : TWord) : State := s0.modQ 0 eng fun q => { q with items := [w] }

/-- A valid FP32 tile of one row of `n` columns at an address of the core's Scratchpad. -/
def tile32 (a n : Nat) : Desc := BitVec.ofNat 256 (a + 2 ^ 63 + n * 2 ^ 96 + 2 ^ 112 + 64 * 2 ^ 136 + 5 * 2 ^ 220)

/-- ADD of descriptors 1 and 2 into descriptor 0. -/
def addWord : TWord := iword 0x30 2 (1 * 2 ^ 69 + 2 * 2 ^ 61)

/-- Core 0 with that ADD at the head, over 1.5 and 2.25. -/
def addState : State :=
  let s := (((headed 2 addWord).setDesc 0 0 (tile32 0x100 1)).setDesc 0 1 (tile32 0x200 1)).setDesc 0 2 (tile32 0x300 1)
  { s with mem := (s.mem.wr32 (spadBase 0 + 0x200) 0x3FC00000#32).wr32 (spadBase 0 + 0x300) 0x40100000#32 }

/-- The next state of an outcome, or the state after reset. -/
def nextOf (o : Host.Outcome State Fault Refusal) : State := match o with
  | .next t => t
  | _ => s0

/-! Well-formedness: each check refuses an ill-formed command. -/

def frame0 : Frame := ⟨.direct 0 0 0 0 true false, 0, [], true⟩

theorem test_wf_frame : (Instr.writeFrameRx 0 { frame0 with data := List.replicate 4097 0 }).wf = false := by decide +kernel
theorem test_wf_sense : (Instr.governorLoop ⟨0, 0, 0, 0, [0], [0, 0, 0, 0]⟩).wf = false := by decide +kernel
theorem test_wf_offset : (Instr.registerWrite (.host 0) ⟨2 ^ 26, 4⟩ 0).wf = false := by decide +kernel
theorem test_wf_read_offset : (Instr.rcFieldRead (.host 0) ⟨2 ^ 26, 4⟩).wf = false := by decide +kernel
theorem test_wf_entry : (Instr.entryFetch [0] false).wf = false := by decide +kernel
theorem test_wf_key : (Instr.lcChange (.host 0) [] [] none 0).wf = false := by decide +kernel
theorem test_wf_bus_address : (Instr.setdasa 0x50 128).wf = false ∧ (Instr.i3cPrivateWrite 128 []).wf = false := by decide +kernel
theorem test_wf_duties : (Instr.envelopeOverrun [0]).wf = false := by decide +kernel
theorem test_wf_nop : (Instr.nop 0 .fwd env0).wf = true := by decide +kernel

/-! Tensor instructions. -/

theorem test_reset_queue_empty : s0.pending = [] := by decide +kernel

/-- 1.5 + 2.25 = 3.75 in FP32. -/
theorem test_add : (nextOf (exec (.add 0 env0) addState)).mem.rd32 (spadBase 0 + 0x100) = 0x40700000#32 := by decide +kernel

theorem wit_add_clean : addState.HeadReady 0 2 0x30 addWord ∧ addState.Clean 0 2 addWord env0
    ∧ (addState.runOf 0 2 addWord env0 bodyFloat).waits = []
    ∧ (addState.runOf 0 2 addWord env0 bodyFloat).segs = [] ∧ (addState.runOf 0 2 addWord env0 bodyFloat).col = none
    ∧ (addState.runOf 0 2 addWord env0 bodyFloat).stuck = false
    ∧ ((addState.worked 0 2 addWord env0 bodyFloat).q 0 2).flight = [] := by
  simp only [State.HeadReady, State.Clean]; decide +kernel

/-! Witnesses: the issue of tensor instructions. -/

theorem wit_refused_head : (headed 2 addWord).HeadReady 0 2 0x30 addWord
    ∧ ((headed 2 addWord).taken 0 2 addWord env0).refusal 0 2 addWord env0.ext = some .versionMismatch
    ∧ ((headed 2 addWord).core 0).hold = none := by
  simp only [State.HeadReady]; decide +kernel

theorem wit_held_core : ((addState.holdCore 0 8 2 .faultAddress).core 0).hold.isSome = true := by decide +kernel

theorem wit_elementwise_geometry : (Tile.dataRanges (tile32 0x100 2)).Pairwise (fun a b => a.1 + a.2 ≤ b.1 ∨ b.1 + b.2 ≤ a.1)
    ∧ 0 < Tile.rows (tile32 0x100 2) ∧ 1 < Tile.cols (tile32 0x100 2) := by decide +kernel

/-- A byte of HBM lies outside every destination, log, Event Ring and slot page of the ADD. -/
theorem wit_untouched_byte : (∀ r ∈ ((TW.outs addWord).map (addState.desc 0)).flatMap (Tile.physRanges 0), 0 < r.1 ∨ r.1 + r.2 ≤ 0)
    ∧ (∀ c e seq, 0 < addState.logAddr c e seq ∨ addState.logAddr c e seq + 64 ≤ 0) ∧ (∀ pg ∈ addState.snap.prot,
      0 < addState.slotPage pg ∨ addState.slotPage pg + State.pageBytes ≤ 0) := by
  refine ⟨by decide +kernel, fun c e seq => .inl ?_, by decide +kernel⟩
  simp only [State.logAddr, State.logBase, cmemBase]; omega

/-- WAITF of cluster flag 0 for a value of `v` or more. -/
def waitWord (v : Nat) : TWord := iword 0x01 2 (2 ^ 52 + v)

theorem wit_waitf_true : (headed 2 (waitWord 0)).HeadReady 0 2 0x01 (waitWord 0)
    ∧ ((headed 2 (waitWord 0)).taken 0 2 (waitWord 0) env0).refusal 0 2 (waitWord 0) env0.ext = none
    ∧ (headed 2 (waitWord 0)).blockedWait 0 2 = none := by
  simp only [State.HeadReady]; decide +kernel

theorem wit_waitf_false : (headed 2 (waitWord 1)).HeadReady 0 2 0x01 (waitWord 1)
    ∧ ((headed 2 (waitWord 1)).blockedWait 0 2).isSome = true ∧ (headed 2 (waitWord 1)).skipped 0 2 (waitWord 1) = false := by
  simp only [State.HeadReady]; decide +kernel

/-- A WAITF that holds its queue. -/
def waitingState (v : Nat) : State := (headed 2 (waitWord v)).modQ 0 2 fun q => { q with waiting := true }

theorem wit_waitf_satisfied : (waitingState 0).headOf 0 2 = some (waitWord 0) ∧ ((waitingState 0).q 0 2).waiting = true
    ∧ TW.opcode (waitWord 0) = 1 ∧ (waitingState 0).mayIssue 0 2 (waitWord 0) = true
    ∧ (waitingState 0).waitHolds 0 (waitWord 0) = true := by decide +kernel

def crecvWord : TWord := iword 0x99 5 0
def crecvState : State :=
  let s := ((headed 5 crecvWord).setDesc 0 0 (tile32 0x100 1)).setFlag .COL_CTRL 0 31
  { s with mem := (s.mem.wr32 0 0x80000000#32).wr32 8 1#32 }

theorem wit_crecv : crecvState.HeadReady 0 5 0x99 crecvWord
    ∧ (crecvState.taken 0 5 crecvWord env0).refusal 0 5 crecvWord env0.ext = none := by
  simp only [State.HeadReady]; decide +kernel

/-! Witnesses: instructions that complete at once. -/

def nopWord (op : Nat) : TWord := iword op 2 0
def verdictHead (w : TWord) : State := (headed 2 w).modPart 0 fun p => { p with verdict := some false }
theorem wit_completes_plain : ∀ op ∈ [0x00, 0x04, 0x05], (verdictHead (nopWord op)).Completes 0 2 op (nopWord op) env0 := by
  simp only [State.Completes, State.HeadReady, State.Clean]; decide +kernel
theorem wit_completes_add : addState.Completes 0 2 0x30 addWord env0 := by
  simp only [State.Completes, State.HeadReady, State.Clean]; decide +kernel

/-- SETF and ADDF of cluster flag 5. -/
def flagWord (op : Nat) : TWord := iword op 2 (5 * 2 ^ 73)
theorem wit_completes_flag : ∀ op ∈ [0x02, 0x03], (headed 2 (flagWord op)).flagScope 0 (flagWord op) ≤ 2
    ∧ (headed 2 (flagWord op)).Completes 0 2 op (flagWord op) env0 := by
  simp only [State.Completes, State.HeadReady, State.Clean]; decide +kernel

/-- COPY of descriptor 1 into descriptor 0. -/
def copyWord : TWord := iword 0x90 5 (1 * 2 ^ 77)
def copyState : State := ((headed 5 copyWord).setDesc 0 0 (tile32 0x100 1)).setDesc 0 1 (tile32 0x200 1)
theorem wit_completes_copy : (copyState.descsOf 0 copyWord).map Tile.space = [0, 0] ∧ copyState.Completes 0 5 0x90 copyWord env0 := by
  simp only [State.Completes, State.HeadReady, State.Clean]; decide +kernel

/-- CSEND of a collective of one member, this device. -/
def csendWord : TWord := iword 0x98 5 0
def csendState : State :=
  let s := ((headed 5 csendWord).setDesc 0 0 (tile32 0x100 1)).setFlag .COL_CTRL 0 31
  { s with mem := (s.mem.wr32 0 0x80000000#32).wr32 8 1#32 }
theorem wit_completes_csend : (csendState.descsOf 0 csendWord).map Tile.space = [0]
    ∧ (csendState.issued 0 5 csendWord env0).colLost ((csendState.issued 0 5 csendWord env0).col 0 0) = false
    ∧ (csendState.issued 0 5 csendWord env0).colPeers ((csendState.issued 0 5 csendWord env0).col 0 0) true
      (bits csendWord 64 60) (bits csendWord 59 42) = [(csendState.issued 0 5 csendWord env0).devId]
    ∧ csendState.Completes 0 5 0x98 csendWord env0 := by
  simp only [State.Completes, State.HeadReady, State.Clean]; decide +kernel

/-- A NOP of the Vector Engine that waits on token 3. -/
def tokWord : TWord := iword 0 2 (2 ^ 108 + 3 * 2 ^ 103)

/-- Its token's only posts stand behind it. -/
def tokDead : State := (headed 2 tokWord).modTok 0 2 3 fun t => { t with pend := 1, pendOwn := 1 }

theorem wit_token_deadlock : tokDead.headOf 0 2 = some tokWord ∧ 3 ∈ TW.waits tokWord ∧ (tokDead.tok 0 2 3).count = 0
    ∧ 0 < (tokDead.tok 0 2 3).pend ∧ (tokDead.tok 0 2 3).pend = (tokDead.tok 0 2 3).pendOwn ∧ (tokDead.core 0).hold = none := by
  decide +kernel

/-- A WAITF that holds its queue in a running context with a timeout. -/
def timingState : State := ((headed 2 (waitWord 1)).setFlag .CHN_CTRL 0 0).setFld .SHR_CTRL 0 31 16 5
theorem wit_waitf_timeout : timingState.fld .SHR_CTRL 0 31 16 ≠ 0 ∧ timingState.running (clOfCore 0) = true
    ∧ timingState.blockedWait 0 2 = some (waitWord 1) ∧ timingState.flagClosed 0 (waitWord 1) = false
    ∧ (timingState.core 0).hold = none := by decide +kernel

/-- A head whose token came STALE. -/
def staleState : State := (headed 2 tokWord).modTok 0 2 3 fun t => { t with count := 1, stale := true }

theorem wit_stale_refetch : staleState.headOf 0 2 = some tokWord ∧ (staleState.core 0).hold = none
    ∧ staleState.waitsMet 0 2 tokWord = true ∧ staleState.waitsStale 0 2 tokWord = true ∧ (staleState.q 0 2).refetching = false := by
  decide +kernel

theorem wit_stale_land : (staleState.modQ 0 2 fun q => { q with refetching := true }).headOf 0 2 = some tokWord
    ∧ ((staleState.modQ 0 2 fun q => { q with refetching := true }).q 0 2).refetching = true ∧ 3 ∈ TW.waits tokWord := by
  decide +kernel

/-! Witnesses: registers and who reaches them. -/

/-- A started device whose Mastheads run. -/
def up : State :=
  let s := (s0.setFlag .HIF_STATUS 0 0).modChip fun c => { c with start := .none, power := false, fw := some ⟨1, 1, 1, []⟩ }
  [0, 1, 2, 3].foldl (fun s d => s.modDie d fun x => { x with mast := { x.mast with running := true } }) s

/-- The same, with the context of cluster 0 running. -/
def running0 : State := up.setFlag .CHN_CTRL 0 0

theorem wit_shroud_data : up.reaches (.host 0) .SHR 0 0x24 = true ∧ up.reaches (.host 0) .SHR 0 0x2C = true
    ∧ up.shrWritable 0 (up.sel (.host 0) .SHR_FLAG_SEL 0) = true ∧ up.shrWritable 0 (up.sel (.host 0) .SHR_REG_SEL 0) = true := by
  decide +kernel
theorem wit_shroud_data_refused : running0.reaches (.host 0) .SHR 0 0x24 = true ∧ running0.reaches (.host 0) .SHR 0 0x2C = true
    ∧ running0.shrWritable 0 (running0.sel (.host 0) .SHR_FLAG_SEL 0) = false
    ∧ running0.shrWritable 0 (running0.sel (.host 0) .SHR_REG_SEL 0) = false := by decide +kernel
theorem wit_shroud_config : up.reaches (.host 0) .SHR 0 0x10 = true ∧ up.reaches (.host 0) .SHR 0 0x18 = true ∧ up.running 0 = false
    ∧ running0.reaches (.host 0) .SHR 0 0x10 = true ∧ running0.reaches (.host 0) .SHR 0 0x18 = true ∧ running0.running 0 = true
    ∧ up.reaches (.host 1) .SHR 0 0x10 = false ∧ up.reaches (.host 1) .SHR 0 0x18 = false := by decide +kernel

/-! Witnesses: the Chanter. -/

/-- Cluster 0's Chanter runs with instruction word `w` at its pc. -/
def chnState (w : Nat) : State :=
  running0.modChn 0 fun h => { h with imA := h.imA.wr32 0 (BitVec.ofNat 32 w) }

/-- `addi x1, x0, 5`, worked out by the base encoding: imm 5, rs1 0, funct3 0, rd 1, opcode 0x13. -/
def addiWord : Nat := 0x00500093

theorem test_addi : ((nextOf (exec (.chanterBaseInstr 0 1 1) (chnState addiWord))).chn 0).reg 1 = 5#64
    ∧ ((nextOf (exec (.chanterBaseInstr 0 1 1) (chnState addiWord))).chn 0).pc = 4#64 := by decide +kernel

theorem fetches_of {s : State} {c : Nat} {k : ChnKind} {x : Nat × Nat} (h : s.chnReady c k = true)
    (h2 : (s.chnFetch c).toOption = some x) : s.Fetches c k x.1 x.2 := by
  refine ⟨h, ?_⟩
  cases e : s.chnFetch c with
  | error t => rw [e] at h2; cases h2
  | ok y => rw [e] at h2; cases h2; rfl

/-- What an executed instruction gives: its next pc, or its trap's cause, or a stall. -/
def resOf : ChnRes → Option DWord × Option Nat
  | .next _ pc => (some pc, none)
  | .trap _ x => (none, if x.open_ = false ∧ x.alt = x.cause then some x.cause else none)
  | .stall _ => (none, none)

theorem next_of {r : ChnRes} {pc : DWord} (h : resOf r = (some pc, none)) : ∃ u, r = .next u pc := by
  cases r <;> simp_all [resOf]
theorem trap_of {r : ChnRes} {k : Nat} (h : resOf r = (none, some k)) : ∃ u x, r = .trap u x ∧ x.open_ = false ∧ x.alt = x.cause := by
  cases r with
  | trap u x => simp only [resOf, Prod.mk.injEq, true_and] at h; split at h
                · exact ⟨u, x, rfl, by assumption⟩
                · cases h
  | _ => simp [resOf] at h
theorem stall_of {r : ChnRes} (h : resOf r = (none, none)) (h2 : (match r with | .trap _ _ => false | _ => true) = true) :
    ∃ u, r = .stall u := by
  cases r with
  | stall u => exact ⟨u, rfl⟩
  | next u p => exact absurd h (by simp [resOf])
  | trap u x => cases h2

/-- Execution of the instruction at cluster 0's pc, after one cycle. -/
def run0 (w : Nat) (s : State) : ChnRes := (s.chnClock 0 1 1).execRv 0 w (s.chn 0).pc 4

theorem wit_chanter_next : (chnState addiWord).Fetches 0 .base addiWord 4 ∧ ∃ u, run0 addiWord (chnState addiWord) = .next u 4#64 :=
  ⟨fetches_of (x := (addiWord, 4)) (by decide +kernel) (by decide +kernel), next_of (by decide +kernel)⟩

/-- `csrrw x0, 0x7C2, x1` writes tmbout. -/
theorem wit_tmbout : (chnState 0x7C209073).Fetches 0 .mboxOut 0x7C209073 4
    ∧ ∃ u, run0 0x7C209073 (chnState 0x7C209073) = .next u 4#64 :=
  ⟨fetches_of (x := (0x7C209073, 4)) (by decide +kernel) (by decide +kernel), next_of (by decide +kernel)⟩

/-- `ecall` traps. -/
theorem wit_chanter_trap : (chnState 0x73).Fetches 0 .base 0x73 4
    ∧ ∃ u x, run0 0x73 (chnState 0x73) = .trap u x ∧ x.open_ = false ∧ x.alt = x.cause :=
  ⟨fetches_of (x := (0x73, 4)) (by decide +kernel) (by decide +kernel), trap_of (k := 11) (by decide +kernel)⟩

/-- A TDISP of x1 and x2 that finds queue 2 of core 0 full. -/
def tdispWord : Nat := 0x0020800B
def tdispState (n : Nat) : State :=
  ((chnState tdispWord).modChn 0 fun h => { h with x := (SMap.set 0 (SMap.set 0 h.x 1 1#64) 2 (BitVec.ofNat 64 (2 * 2 ^ 53 + 2 ^ 45))) }).modQ 0 2
    fun q => { q with items := List.replicate n tokWord }

theorem wit_chanter_stall : (tdispState 64).Fetches 0 .tdisp tdispWord 4 ∧ ∃ u, run0 tdispWord (tdispState 64) = .stall u :=
  ⟨fetches_of (x := (tdispWord, 4)) (by decide +kernel) (by decide +kernel), stall_of (by decide +kernel) (by decide +kernel)⟩

theorem wit_tdisp : (tdispState 63).Fetches 0 .tdisp tdispWord 4 ∧ Rv.f7Of tdispWord = 0 ∧ Rv.rdOf tdispWord = 0
    ∧ (tdispState 63).disabledOf 0 (TW.coreMask (BitVec.ofNat 128 (1 + (2 * 2 ^ 53 + 2 ^ 45) * 2 ^ 64))) = 0
    ∧ (tdispState 63).hasRoom 0 (BitVec.ofNat 128 (1 + (2 * 2 ^ 53 + 2 ^ 45) * 2 ^ 64)) = true
    ∧ State.selected (BitVec.ofNat 128 (1 + (2 * 2 ^ 53 + 2 ^ 45) * 2 ^ 64)) = [0] :=
  ⟨fetches_of (x := (tdispWord, 4)) (by decide +kernel) (by decide +kernel), by decide +kernel⟩

theorem test_tdisp_enters : ((nextOf (exec (.tdisp 0 1 1) (tdispState 0))).q 0 2).items.length = 1 := by decide +kernel

/-- Cluster 0's Chanter holds a dispatch, and its queue has a free entry again. -/
def heldState : State := (tdispState 63).modChn 0 fun h => { h with held := some ⟨BitVec.ofNat 128 ((2 * 2 ^ 53 + 2 ^ 45) * 2 ^ 64), 0, 4⟩ }

theorem wit_held_release : (heldState.chn 0).held = some ⟨BitVec.ofNat 128 ((2 * 2 ^ 53 + 2 ^ 45) * 2 ^ 64), 0, 4⟩
    ∧ heldState.running 0 = true ∧ heldState.hasRoom 0 (BitVec.ofNat 128 ((2 * 2 ^ 53 + 2 ^ 45) * 2 ^ 64)) = true := by decide +kernel
theorem wit_chanter_timer : (running0.chnTime 0).toNat < (running0.chn 0).tmtimecmp.toNat := by decide +kernel

/-- A pending and enabled STEP interrupt with MIE 1. -/
def irqState : State := running0.modChn 0 fun h => { h with mie := 2 ^ 20, mip := 2 ^ 20, mstatus := 0x1808 }
theorem wit_interrupt : topInterrupt irqState 0 = some 20 ∧ irqState.running 0 = true ∧ bit (irqState.chn 0).mstatus 3 = true := by
  decide +kernel

def opState (w : Nat) (x2 x3 : DWord) : State :=
  (chnState w).modChn 0 fun h => { h with x := SMap.set 0 (SMap.set 0 h.x 2 x2) 3 x3, dm := h.dm.wrN 0 (natLe 16 ((2 * 2 ^ 53 + 2 ^ 45) * 2 ^ 64)) }
theorem op_fetches {w : Nat} {x2 x3 : DWord} {k : ChnKind}
    (h : ((opState w x2 x3).chnReady 0 k && ((opState w x2 x3).chnFetch 0).toOption == some (w, 4)) = true) :
    (opState w x2 x3).Fetches 0 k w 4 := by
  simp only [Bool.and_eq_true, beq_iff_eq] at h
  exact fetches_of h.1 h.2
/-- Words of the base encoding: lui, auipc, add, addw, addi, jal, jalr, beq, fence and mret, and a load and a store of 8 bytes at both
ends of Data Memory. -/
theorem wit_chanter_base : ∀ x ∈ [(0x000010B7, 0#64), (0x00001097, 0), (0x002080B3, 0), (0x002080BB, 0), (addiWord, 0), (0x008000EF, 0),
      (0x000100E7, 0), (0x00000463, 0), (0x0FF0000F, 0), (0x30200073, 0), (0x00013083, 0x100000), (0x00013083, 0x13FFF8),
      (0x00113023, 0x100000), (0x00113023, 0x13FFF8)], (opState x.1 x.2 0).Fetches 0 .base x.1 4 := by
  intro x h
  exact op_fetches (by revert x; decide +kernel)
theorem wit_chanter_fields : Rv.opOf 0x000010B7 = 0x37 ∧ Rv.opOf 0x00001097 = 0x17 ∧ Rv.opOf 0x002080B3 = 0x33
    ∧ Rv.alu (Rv.f7Of 0x002080B3) (Rv.f3Of 0x002080B3) 3 4 = some 7#64 ∧ Rv.opOf 0x002080BB = 0x3B
    ∧ Rv.alu32 (Rv.f7Of 0x002080BB) (Rv.f3Of 0x002080BB) 3 4 = some 7#64 ∧ Rv.opOf addiWord = 0x13 ∧ Rv.f3Of addiWord = 0
    ∧ Rv.alu 0 0 0 (Rv.immI addiWord) = some 5#64 ∧ Rv.opOf 0x008000EF = 0x6F ∧ Rv.opOf 0x000100E7 = 0x67 ∧ Rv.f3Of 0x000100E7 = 0
    ∧ Rv.opOf 0x00000463 = 0x63 ∧ Rv.branch (Rv.f3Of 0x00000463) 1 1 = some true ∧ Rv.branch (Rv.f3Of 0x00000463) 1 2 = some false
    ∧ Rv.opOf 0x0FF0000F = 0x0F ∧ Rv.f3Of 0x0FF0000F = 0 ∧ Rv.opOf 0x00013083 = 0x03
    ∧ (State.loadOf (Rv.f3Of 0x00013083)).map (·.1) = some 8 ∧ Rv.opOf 0x00113023 = 0x23 ∧ Rv.f3Of 0x00113023 = 3
    ∧ ((0x13FFF8#64 + Rv.immS 0x00113023).toNat = 0x13FFF8) ∧ 0x13FFF8 + 8 ≤ 0x140000 := by decide +kernel
/-- Stores through the two aliases at both ends; LR.D, SC.D, AMOADD.D and AMOADD.W. -/
theorem wit_chanter_alias : ∀ x ∈ [(0x140000#64, ChnKind.bitSet), (0x17FFF8, .bitSet), (0x180000, .bitClear), (0x1BFFF8, .bitClear)],
    (opState 0x00113023 x.1 0).Fetches 0 x.2 0x00113023 4 := by
  intro x h
  exact op_fetches (by revert x; decide +kernel)
theorem wit_chanter_amo : (∀ x ∈ [(0x100130AF, 0x100000#64), (0x183130AF, 0x13FFF8), (0x003130AF, 0x100000), (0x003120AF, 0x13FFFC)],
      (opState x.1 x.2 1).Fetches 0 .amo x.1 4)
    ∧ Rv.f7Of 0x100130AF / 4 = 2 ∧ Rv.rs2Of 0x100130AF = 0 ∧ Rv.f7Of 0x183130AF / 4 = 3 ∧ Rv.f3Of 0x183130AF = 3
    ∧ Rv.amoOp (Rv.f7Of 0x003130AF / 4) 2#64 1#64 = some 3#64 ∧ Rv.f3Of 0x003120AF = 2
    ∧ Rv.amoOp (Rv.f7Of 0x003120AF / 4) 2#32 1#32 = some 3#32
    ∧ (((opState 0x183130AF 0x13FFF8 1).modChn 0 fun h => { h with resv := some (0x13FFF8, 8) }).chn 0).resv = some (0x13FFF8, 8)
    ∧ ((opState 0x183130AF 0x13FFF8 1).chn 0).resv ≠ some (0x13FFF8, 8) :=
  ⟨fun x h => op_fetches (by revert x; decide +kernel), by decide +kernel⟩
theorem wit_chanter_sc : ((opState 0x183130AF 0x13FFF8 1).modChn 0 fun h => { h with resv := some (0x13FFF8, 8) }).Fetches 0 .amo 0x183130AF 4 :=
  fetches_of (x := (0x183130AF, 4)) (by decide +kernel) (by decide +kernel)
/-- `csrrw x0, 0x7C1, x1`, TDRAIN of no queue, TDESC of descriptor 7 in core 0, and TDISPM. -/
theorem wit_chanter_mbox : (opState 0x7C109073 0 0).Fetches 0 .mboxClear 0x7C109073 4 := op_fetches (by decide +kernel)
theorem wit_tdrain : (opState 0x0001300B 1 0).Fetches 0 .tdrain 0x0001300B 4 ∧ Rv.f7Of 0x0001300B = 0 ∧ Rv.rdOf 0x0001300B = 0
    ∧ Rv.rs2Of 0x0001300B = 0 ∧ Rv.rs1Of 0x0001300B = 2 ∧ (opState 0x0001300B 1 0).drained 0 1 = true :=
  ⟨op_fetches (by decide +kernel), by decide +kernel⟩
theorem wit_tdesc : (opState 0x0031208B 0x100000 0x107).Fetches 0 .tdesc 0x0031208B 4 ∧ Rv.f7Of 0x0031208B = 0 ∧ Rv.rs1Of 0x0031208B = 2
    ∧ Rv.rs2Of 0x0031208B = 3 ∧ (opState 0x0031208B 0x100000 0x107).disabledOf 0 1 = 0
    ∧ ∀ k, k < 8 → (1).testBit k = true → (opState 0x0031208B 0x100000 0x107).namesDesc (8 * 0 + k) 7 = false
      ∧ (opState 0x0031208B 0x100000 0x107).journalFull (8 * 0 + k) 7 = false :=
  ⟨op_fetches (by decide +kernel), by decide +kernel⟩
theorem wit_tdispm : (opState 0x0001100B 0x100000 0).Fetches 0 .tdispm 0x0001100B 4 ∧ Rv.rdOf 0x0001100B = 0
    ∧ ((((opState 0x0001100B 0x100000 0).chn 0).reg (Rv.rs1Of 0x0001100B)) + Rv.immI 0x0001100B).toNat = 0x100000
    ∧ BitVec.ofNat 128 (leNat (((opState 0x0001100B 0x100000 0).chn 0).dm.rdN 0 16)) = BitVec.ofNat 128 ((2 * 2 ^ 53 + 2 ^ 45) * 2 ^ 64)
    ∧ (opState 0x0001100B 0x100000 0).disabledOf 0 (TW.coreMask (BitVec.ofNat 128 ((2 * 2 ^ 53 + 2 ^ 45) * 2 ^ 64))) = 0
    ∧ (opState 0x0001100B 0x100000 0).hasRoom 0 (BitVec.ofNat 128 ((2 * 2 ^ 53 + 2 ^ 45) * 2 ^ 64)) = true :=
  ⟨op_fetches (by decide +kernel), by decide +kernel⟩

/-- A load into slot A, the active slot, and one into slot B. -/
def load (t : Nat) : Load := ⟨t, false, 0, 16, 0, false⟩
def loadState (t : Nat) : State := up.modChn 0 fun h => { h with ld := some (load t) }
theorem wit_run_idle : up.running 0 = false ∧ (up.chn 0).ld = none ∧ up.reached .CHN 0 0 = true ∧ s0.reached .CHN 0 0 = false
    ∧ (loadState 1).reached .CHN 0 0 = true := by decide +kernel
theorem wit_run_during_load : (loadState 0).running 0 = false ∧ ((loadState 0).chn 0).ld = some (load 0) ∧ (load 0).out = false
    ∧ (load 0).target = (if ((loadState 0).chn 0).active then 1 else 0) := by decide +kernel
theorem wit_slot_arm : bit 0x80000000#32 31 = true ∧ (up.chn 0).armed = false ∧ (up.chn 0).ld = none := by decide +kernel
theorem wit_slot_arm_busy : ((loadState 1).chn 0).armed = false ∧ ((loadState 1).chn 0).ld = some (load 1)
    ∧ (load 1).target = loadable (loadState 1) 0 ∧ (load 1).out = false := by decide +kernel
theorem wit_slot_armed : ((up.modChn 0 fun h => { h with armed := true }).chn 0).armed = true ∧ bit 0x40000000#32 30 = true := by
  decide +kernel
theorem wit_load_done : ((loadState 1).chn 0).ld = some (load 1) ∧ inMap (load 1).src (load 1).len = true ∧ (load 1).startAfter = false := by
  decide +kernel

/-! Witnesses: Reef, steps and numeric assurance. -/

def job0 : Job :=
  { id := 1, jd := 0, resume := false, strict := false, epoch := 0, steps := 0, start := 0, pm1 := 0, digest := [], exp0 := 0, lsCtrl := 0
    reefCtrl := 0, vecMode := 0, hyper := [], met := none, tensors := [], table := [], gmb := 1, mbtok := 1, lrt := (0, 0), opt := 0, clip := 0
    cons := (0, 0), pins := [], memTab := 0, members := [], ring := 0, tag := 7, irq := true, reds := [] }
def plan0 : Plan :=
  { pages := [0], consts := [], slot0 := 0x100000, slot1 := 0x200000, parity0 := 0, parity1 := 0, constAt := 0, constParity := 0
    images := [], params := [], accums := [], wcopies := [], narrow := [], reef := [], banks := [], flags := []
    dflags := [], groups := [], dgroups := [], norms := [], bytes := [], regs := [], code := [], brec0 := 0x300000, brec1 := 0x800000, cols := [], lrts := [] }
def met0 : Metrics := ⟨0, 0, 0, [], 0⟩

/-- A started device with a job in partition 0, in a state of R377. -/
def jobbed (k : Nat) : State := (up.modPart 0 fun p => { p with job := some job0, plan := some plan0 }).setJobState 0 k
/-- Its step has a verdict, and what else a boundary needs. -/
def verdictState (v : Bool) : State := (jobbed 4).modPart 0 fun p => { p with verdict := some v }
def readyState (mode : Nat) : State := (jobbed 4).modPart 0 fun p => { p with verdict := some false, reefDone := true, ready := some ⟨mode, 100, met0⟩ }

def post0 : RPost := { entry := 3, max := 0x3F800000, sat := 1, van := 0, ovf := true, update := false }
theorem wit_reef_post : ((s0.modCluster 0 fun c => { c with posts := [post0] }).cluster 0).posts = [post0]
    ∧ ((s0.modCluster 0 fun c => { c with posts := [post0] }).reefW 0 3 16).toNat ≤ 0x7F800000 ∧ post0.max.toNat ≤ 0x7F800000 := by
  decide +kernel
theorem test_reef_post_max : (nextOf (exec (.reefPost 0) (s0.modCluster 0 fun c => { c with posts := [post0] }))).reefW 0 3 16 = 0x3F800000#32 := by
  decide +kernel
theorem wit_reef_window : up.reaches (.host 0) .CVT 0 0x28 = true ∧ up.running 0 = false ∧ running0.reaches (.host 0) .CVT 0 0x28 = true
    ∧ running0.running 0 = true := by decide +kernel
theorem wit_norm_window : up.reaches (.host 0) .TTL 0 0x120 = true ∧ up.anyRunning = false ∧ running0.reaches (.host 0) .TTL 0 0x120 = true
    ∧ running0.anyRunning = true := by decide +kernel
theorem wit_reef_boundary (v : Bool) : ((verdictState v).part 0).verdict = some v ∧ ((verdictState v).part 0).reefDone = false
    ∧ (verdictState v).postsLanded 0 = true ∧ (verdictState v).noUpass 0 = true ∧ 0 ∈ (verdictState v).partClusters 0 := by
  cases v <;> decide +kernel
theorem wit_verdict : (jobbed 4).stepping 0 = true ∧ ((jobbed 4).part 0).verdict = none ∧ (jobbed 4).postsLanded 0 = true := by decide +kernel
theorem wit_step_ready : ((verdictState false).modPart 0 fun p => { p with reefDone := true }).stepping 0 = true
    ∧ (((verdictState false).modPart 0 fun p => { p with reefDone := true }).part 0).reefDone = true
    ∧ (((verdictState false).modPart 0 fun p => { p with reefDone := true }).part 0).ready = none
    ∧ ((verdictState false).modPart 0 fun p => { p with reefDone := true }).noUpass 0 = true := by decide +kernel
theorem wit_ready_modes : ((readyState 0).part 0).ready = some ⟨0, 100, met0⟩ ∧ ((readyState 1).part 0).ready = some ⟨1, 100, met0⟩
    ∧ ((readyState 2).part 0).ready = some ⟨2, 100, met0⟩ := by decide +kernel
theorem wit_step_begin : ((jobbed 4).modPart 0 fun p => { p with inputHold := true }).stepping 0 = true
    ∧ (((jobbed 4).modPart 0 fun p => { p with inputHold := true }).part 0).inputHold = true
    ∧ ((jobbed 4).modPart 0 fun p => { p with inputHold := true }).inputReady 0 (((jobbed 4).modPart 0 fun p => { p with inputHold := true }).rd
      .PLC_STEP 0) = true := by decide +kernel
theorem wit_boundary : ((readyState 0).part 0).job = some job0 ∧ job0.met = none ∧ ((readyState 0).part 0).nfOr = false
    ∧ ((readyState 0).part 0).reqOr = false ∧ ((readyState 0).jobState 0 == 7 || (job0.steps != 0
      && ((readyState 0).rd .PLC_STEP 0 + 1 - job0.start).toNat == job0.steps % 2 ^ 32)) = false ∧ ((readyState 0).part 0).replanDue = false
    ∧ (readyState 0).inputReady 0 ((readyState 0).rd .PLC_STEP 0 + 1) = true := by decide +kernel
theorem test_boundary_step : (nextOf (exec (.stepBoundary 0) (readyState 0))).rd .PLC_STEP 0 = 1#32 := by decide +kernel

/-- A Norm Watch entry that is valid: warm-up 0 or 2 observations left, and the example's MEAN 3.0 and VAR 0.0025 (R189). -/
def normState (warm : Nat) : State :=
  let s := { s0 with nwSeen := [0] }
  ((s.setNwW 0 1 (BitVec.ofNat 32 (2 ^ 31 + 4 * 2 ^ 27 + warm * 2 ^ 16 + 0x60 * 2 ^ 8 + 0xA0))).setNwW 0 2 0x40400000#32).setNwW 0 3 0x3B23D70A#32
theorem wit_norm_zero : bit ((normState 0).nwW 0 1) 31 = true ∧ (dec32 0#32).isZero = true := by decide +kernel
theorem wit_norm_warm : (dec32 0x42800000#32).isZero = false ∧ (normState 2).nwSeen.contains 0 = true
    ∧ bits ((normState 2).nwW 0 1) 23 16 ≠ 0 ∧ bit ((normState 2).nwW 0 1) 31 = true := by decide +kernel
/-- n2 = 64, norm 8: x = 3.0 = MEAN, so z = 0 reaches neither level. -/
theorem wit_norm_quiet : bits ((normState 0).nwW 0 1) 23 16 = 0
    ∧ (State.sixteenth (bits ((normState 0).nwW 0 1) 7 0)).le (dec32 (div32 (abs32 (sub32 (mul32 0x3F000000#32 (log2_32 0x42800000#32))
      ((normState 0).nwW 0 2))) (max32 (sqrt32 ((normState 0).nwW 0 3)) 0x3D800000#32))) = false
    ∧ (State.sixteenth (bits ((normState 0).nwW 0 1) 15 8)).le (dec32 (div32 (abs32 (sub32 (mul32 0x3F000000#32 (log2_32 0x42800000#32))
      ((normState 0).nwW 0 2))) (max32 (sqrt32 ((normState 0).nwW 0 3)) 0x3D800000#32))) = false := by decide +kernel

/-- The same entry with an observation due. -/
def dueState (warm : Nat) (n2 : Word) : State := { normState warm with nwQ := [⟨0, true, [(0, n2)]⟩] }
theorem wit_norm_due : ∀ x ∈ [(0, 0#32), (2, 0x42800000), (0, 0x42800000)], (dueState x.1 x.2).nwQ.findIdx? (·.due) = some 0
    ∧ (dueState x.1 x.2).nwQ[0]? = some ⟨0, true, [(0, x.2)]⟩ ∧ bit ((dueState x.1 x.2).nwW 0 1) 31 = true := by decide +kernel
/-- A first observation, of an entry with WARM 2 or 0, and an entry that is not valid. -/
def firstState (warm : Nat) : State := { dueState warm 0x42800000 with nwSeen := [] }
theorem wit_norm_first : ∀ w ∈ [0, 2], (firstState w).nwQ.findIdx? (·.due) = some 0 ∧ bit ((firstState w).nwW 0 1) 31 = true
    ∧ (firstState w).nwQ[0]? = some ⟨0, true, [(0, 0x42800000)]⟩ ∧ (firstState w).nwSeen.contains 0 = false
    ∧ (bits ((firstState w).nwW 0 1) 23 16 = 0 ↔ w = 0) := by decide +kernel
theorem wit_norm_invalid : bit (({ s0 with nwQ := [⟨0, true, [(0, 1#32)]⟩] } : State).nwW 0 1) 31 = false := by decide +kernel
/-- z of an observation of the warmed-up entry. -/
def zOf (n2 : Word) : FV := dec32 (div32 (abs32 (sub32 (mul32 0x3F000000#32 (log2_32 n2)) ((normState 0).nwW 0 2)))
  (max32 (sqrt32 ((normState 0).nwW 0 3)) 0x3D800000#32))
/-- n2 = 128: x = 3.5 and z = 8, a warning; n2 = 256: z = 16, an alarm, the fourth in a row where RUN is 3. -/
theorem wit_norm_levels : (State.sixteenth 0xA0).le (zOf 0x43000000#32) = false ∧ (State.sixteenth 0x60).le (zOf 0x43000000#32) = true
    ∧ (State.sixteenth 0xA0).le (zOf 0x43800000#32) = true ∧ bits ((normState 0).nwW 0 1) 7 0 = 0xA0
    ∧ bits ((normState 0).nwW 0 1) 15 8 = 0x60 ∧ bits (((normState 0).setNwF 0 26 24 3).nwW 0 1) 26 24 + 1 = 4 := by decide +kernel
theorem wit_norm_third : 2 ≤ ({ s0 with nwQ := [⟨0, true, [(0, 1#32)]⟩, ⟨0, false, [(0, 1#32)]⟩] } : State).nwQ.length
    ∧ [((0 : Fin 512), 1#32)].filter (fun x => !(false && bit (s0.nwW x.1 1) 30)) ≠ [] := by decide +kernel

/-- A complete shadow sample of one row and channel: X 1.0, reference weight 1.0 at `tile32 0x100 1`, and Y. -/
def shadow0 (y : Word) : Shadow := ⟨0, false, 5, 0x0402, 1, [[0x3F80]], some 1, [[y]], tile32 0x100 1, false⟩
def shadowState (y : Word) : State :=
  let s := s0.modCore 0 fun c => { c with shadow := some (shadow0 y) }
  { s with mem := s.mem.wr32 (spadBase 0 + 0x100) 0x3F800000#32 }
/-- The judged value's numerator, denominator, and whether it is lost. -/
def judge (y : Word) : Word × Word × Bool :=
  let s := shadowState y
  let sh := shadow0 y
  let r := (sh.x.take sh.y.length).map (s.stripRow 0 sh 1)
  let num := (rsumPair (((sh.y.zip r).flatMap fun p => (p.1.zip p.2).map fun q => sub32 q.1 q.2).map fun x => mul32 x x)).1
  let den := (rsumPair (r.flatMap fun l => l.map fun x => mul32 x x)).1
  (num, den, sh.x.any (fun l => l.any (codeNonfinite 3)) || sh.y.any (fun l => l.any isNonfinite32)
    || r.any (fun l => l.any isNonfinite32) || isNonfinite32 num || isNonfinite32 den)
theorem wit_shadow_lost : (judge 0x7F800000).2.2 = true ∧ (shadow0 0x7F800000).n = some 1 := by decide +kernel
theorem wit_shadow_alarm : (judge 0x41000000).2.2 = false
    ∧ State.levelReached (bits (shadow0 0x41000000).thr 15 8) (judge 0x41000000).1 (judge 0x41000000).2.1 = true := by
  decide +kernel
theorem wit_shadow_warn : (judge 0x3F810000).2.2 = false
    ∧ State.levelReached (bits (shadow0 0x3F810000).thr 15 8) (judge 0x3F810000).1 (judge 0x3F810000).2.1 = false
    ∧ State.levelReached (bits (shadow0 0x3F810000).thr 7 0) (judge 0x3F810000).1 (judge 0x3F810000).2.1 = true := by
  decide +kernel

theorem wit_shadow_quiet : (judge 0x3F800000).2.2 = false
    ∧ State.levelReached (bits (shadow0 0x3F800000).thr 15 8) (judge 0x3F800000).1 (judge 0x3F800000).2.1 = false
    ∧ State.levelReached (bits (shadow0 0x3F800000).thr 7 0) (judge 0x3F800000).1 (judge 0x3F800000).2.1 = false := by
  decide +kernel

/-! Witnesses: memory and Halyard. -/

/-- Stack 0 holds one request of core 0 accepted for block 0. -/
def ctrlState : State := s0.setCtrl 0 ⟨[], [(0, 0)]⟩
theorem wit_slot_grant : (ctrlState.ctrl 0).accepted.find? (fun y => y.2 == 0) = some (0, 0)
    ∧ (ctrlState.ctrl 0).accepted.find? (fun y => y.2 == 1) = none := by decide +kernel
theorem wit_miss_fill : 0 * 256 / dieHbm = dieOfCore 0 ∧ 0x2400000000 / 256 * 256 / dieHbm = dieOfCore 64 := by decide +kernel
/-- Core 0 misses block 0, which a write has met or not. -/
def missState (met : Bool) : State := s0.modCore 0 fun c => { c with miss := [(0, met)] }
theorem wit_miss_met : ((missState false).core 0).miss.contains (0, true) = false ∧ ((missState true).core 0).miss.contains (0, true) = true := by
  decide +kernel
/-- A segment of a COPY of core 0 is on its way to its Scratchpad. -/
def segFlight : Flight := ⟨copyWord, 1, [], [tile32 0x200 1, tile32 0x100 1], [], [(0x100, 4)], [], none, false, false, false, false⟩
def segState : State := s0.modQ 0 5 fun q => { q with flight := [segFlight] }
theorem wit_segment : segState.segmentAt 0 (spadBase 0 + 0x100) = some (segFlight, (0x100, 4)) ∧ s0.segmentAt 0 0 = none
    ∧ segState.sourceGone 0 segFlight = false ∧ (segState.core 0).gthWait = none := by decide +kernel
/-- The same from a host window that no longer stands. -/
def goneFlight : Flight := { segFlight with descs := [tile32 0x200 1 ||| 4 <<< 59, tile32 0x100 1] }
theorem wit_segment_gone : (s0.modQ 0 5 fun q => { q with flight := [goneFlight] }).sourceGone 0 goneFlight = true := by decide +kernel

/-- Both ends of die 1's HBM; by R284 with ILV 0, address 4096 of die 0 lies in stack 1 at 0. -/
theorem wit_interleave : 1 * 0x2400000000 ≤ 0x2400000000 ∧ 0x2400000000 < (1 + 1) * 0x2400000000
    ∧ 1 * 0x2400000000 ≤ 0x47FFFFFFFF ∧ 0x47FFFFFFFF < (1 + 1) * 0x2400000000 ∧ s0.stackOf 4096 = (1, 0) := by decide +kernel
theorem wit_interleave_pair : 0 < hbmEnd ∧ hbmEnd - 1 < hbmEnd ∧ s0.stackOf 5 = s0.stackOf 5 := by decide +kernel

/-- Halyard of cluster 0 with 16 sequences, a Table Region of 64 KiB at 0x1_0000 and 4 pages; the registers ask for `op`
on sequence 0 with rank 32 and a list at 0x500. -/
def kvState (op : Nat) : State :=
  (((((up.wr .KVP_TABLE_LO 0 0x10000).wr .KVP_TABLE_SIZE 0 16).wr .KVP_CTRL 0 (4 * 65536)).wr .KVP_POOL_PAGES 0 4).wr .KVP_CMD0 0
    (BitVec.ofNat 32 (op * 2 ^ 24))).wr .KVP_CMD1 0 32 |>.wr .KVP_CMD2 0 0x500

/-- KVAPPEND of one row of 32 FP8 codes to sequence 0, which is OPEN with one page. -/
def appendWord : TWord := iword 0x94 5 (2 ^ 43)
def appendState : State :=
  let s := ((kvState 1).setFlag .KVP_CTRL 0 31).modQ 0 5 fun q => { q with items := [appendWord] }
  let s := s.setDesc 0 0 (BitVec.ofNat 256 (0x100 + 2 ^ 63 + 32 * 2 ^ 96 + 2 ^ 112 + 64 * 2 ^ 136 + 64 * 2 ^ 160 + 2 ^ 220))
  { s with mem := (s.mem.wr32 0x10004 0x40000020#32).wr32 0x10014 1#32 }
theorem wit_completes_kvappend : (appendState.descsOf 0 appendWord).map Tile.space = [0]
    ∧ ((appendState.stageOf 0 0).page (appendState.stageOf 0 0).active).st = .filling
    ∧ ((appendState.stageOf 0 0).page (appendState.stageOf 0 0).active).fill + bits appendWord 58 43 ≤ 256
    ∧ appendState.Completes 0 5 0x94 appendWord env0 := by
  simp only [State.Completes, State.HeadReady, State.Clean]; decide +kernel

theorem wit_kv_rows : (∀ op ∈ [1, 2, 3, 4, 5, 6], (kvState op).fld .KVP_CMD0 0 31 24 = op ∧ (kvState op).reached .KVP 0 0 = true
    ∧ (kvState op).flag .KVP_CMD_RESULT 0 0 = false) ∧ s0.reached .KVP 0 0 = false := by
  decide +kernel
theorem wit_kv_busy : ∀ op ∈ [1, 2, 3, 4, 5, 6], ((kvState op).setFlag .KVP_CMD_RESULT 0 0).flag .KVP_CMD_RESULT 0 0 = true
    ∧ ((kvState op).setFlag .KVP_CMD_RESULT 0 0).fld .KVP_CMD0 0 31 24 = op
    ∧ ((kvState op).setFlag .KVP_CMD_RESULT 0 0).reached .KVP 0 0 = true := by decide +kernel
theorem wit_kv_held : (((kvState 2).modKv 0 fun k => { k with held := true }).kv 0).held = true := by decide +kernel

/-- The state of KV_OPEN with CMD3 1: a capacity of one page. -/
def openState : State := (setWalks (kvState 1) 0 []).wr .KVP_CMD3 0 1
theorem wit_kv_open : 0 < openState.kvSeqCount 0 ∧ State.seqState (openState.seqNow 0 0) = 0 ∧ openState.fld .KVP_CMD1 0 12 11 ≤ 2
    ∧ openState.fld .KVP_CMD1 0 10 0 = 32 ∧ 32 % (32 * 2 ^ openState.fld .KVP_CMD1 0 12 11) = 0 ∧ openState.fld .KVP_CMD3 0 14 0 = 1
    ∧ (openState.rd .KVP_CMD2 0).toNat % 256 = 0 ∧ 64 * openState.kvSeqCount 0 + 4 * openState.kvPages 0 ≤ (openState.rd .KVP_CMD2 0).toNat
    ∧ (openState.rd .KVP_CMD2 0).toNat + 16 * 1 ≤ (openState.rd .KVP_TABLE_SIZE 0).toNat * 4096 ∧ openState.heldBy 0 0 [] = false := by
  decide +kernel
theorem test_kv_open : State.seqState ((nextOf (exec (.kvOpen 0 1 []) (kvState 1))).seqNow 0 0) = 1 := by decide +kernel

/-- Sequence 0 is OPEN. -/
def closeState : State := { kvState 3 with mem := (kvState 3).mem.wr32 0x10004 0x40000020#32 }
theorem wit_kv_close : closeState.flag .KVP_CMD_RESULT 0 0 = false ∧ closeState.fld .KVP_CMD0 0 31 24 = 3
    ∧ State.seqState (((setWalks closeState 0 []).wr .KVP_CMD3 0 0).seqNow 0 0) = 1
    ∧ ((setWalks closeState 0 []).wr .KVP_CMD3 0 0).heldBy 0 0 (((setWalks closeState 0 []).wr .KVP_CMD3 0 0).heldPages 0 0 0 |>.map (·.1)) = false
    ∧ 0 < ((setWalks closeState 0 []).wr .KVP_CMD3 0 0).kvSeqCount 0 := by decide +kernel

/-- Staging page `a` of core 0 is full, with no row's tag valid; or its flush has stalled. -/
def stageState (st : StageState) : State :=
  (kvState 1).setStage 0 0 { Stage.reset with a := { StagePage.reset with st := st, fill := 256 } }
theorem wit_flush_resume : [false, true].find? (fun x => (((stageState .stalled).stageOf 0 0).page x).st == .stalled) = some false := by
  decide +kernel

/-- Row 0 of the staging page is tagged for sequence 0, whose entry was written after an active walk began. -/
def olderState : State :=
  let s := (setWalks (stageState .filling) 0 [0#32]).modKv 0 fun k => { k with gen := 1 }
  { s with mem := (s.mem.wrN (s.tagAddr 0 0 false 0) (State.tagWord 0 0 true)).wr32 0x10000 1#32 }
theorem wit_flush_next : flushNext ((setWalks (stageState .filling) 0 []).stageOf 0 0) = some false
    ∧ (setWalks (stageState .filling) 0 []).flushHeld 0 0 false = false ∧ flushNext (olderState.stageOf 0 0) = some false
    ∧ olderState.flushHeld 0 0 false = true ∧ setWalks olderState 0 [0] = olderState := by decide +kernel
/-- Its flush has stalled instead. -/
def olderStalled : State :=
  let x := olderState.stageOf 0 0
  olderState.setStage 0 0 (x.setPage false { x.page false with st := .stalled })
theorem wit_flush_resume_held : [false, true].find? (fun x => ((olderStalled.stageOf 0 0).page x).st == .stalled) = some false
    ∧ olderStalled.flushHeld 0 0 false = true ∧ setWalks olderStalled 0 [0] = olderStalled
    ∧ (setWalks (stageState .stalled) 0 []).flushHeld 0 0 false = false := by decide +kernel
theorem wit_kv_entries : openState.heldBy 0 0 ((List.range 1).map fun k => openState.kvTableBase 0 + 0x500 + 16 * k) = false
    ∧ ((setWalks closeState 0 []).wr .KVP_CMD3 0 0).heldBy 0 0 (((setWalks closeState 0 []).wr .KVP_CMD3 0 0).listAddrs 0 0
      ((((setWalks closeState 0 []).wr .KVP_CMD3 0 0).heldPages 0 0 0).map (·.1))) = false := by decide +kernel

/-! Witnesses: the fabric. -/

/-- Device 5 in Direct framing, port 0 up and enabled, device 6 by port 0. -/
def fab0 : State :=
  ((((up.wr .FAB_DEVID 0 0x80000005).setFlag .FAB_PORT_STATUS 0 31).setFlag .FAB_PORT_CTRL 0 31).setFld .FAB_PORT_STATUS 0 21 4 6).modFab
    fun f => { f with route := SMap.set 0 f.route 6 0x80000001#32 }

/-- A frame of device 6 for this one, in Direct framing: its type, PSN and operand words. -/
def rx (typ psn ops : Nat) (data : List Byte) : Frame :=
  ⟨.direct 5 3 0 0 true false, BitVec.ofNat 256 (2 ^ 28 + typ * 2 ^ 24 + 6 + 5 * 2 ^ 32 + psn * 2 ^ 96 + ops * 2 ^ 160), data, true⟩

def ansOf (x : State × Ans) : Ans := x.2

theorem wit_frames_taken : ∀ typ ∈ [0, 1, 2, 3, 4, 5, 6, 7], fab0.Takes 0 (rx typ 0 0 []) typ ∧ fab0.InOrder 0 (rx typ 0 0 []) := by
  simp only [State.Takes, State.InOrder]; decide +kernel
theorem wit_notices_taken : ∀ kind ∈ [0, 1, 2, 3, 4], fab0.Takes 0 (rx 7 0 kind []) 7 ∧ hOp (rx 7 0 kind []).hdr 3 0 = kind
    ∧ fab0.InOrder 0 (rx 7 0 kind []) := by
  simp only [State.Takes, State.InOrder]; decide +kernel
theorem wit_frame_early : fab0.Takes 0 (rx 0 1 0 []) 0
    ∧ wrapN 32 ((hPsn (rx 0 1 0 []).hdr : Int) - ((fab0.entered 0 (rx 0 1 0 [])).flow (frameKey (rx 0 1 0 []))).expect) = 1 := by
  simp only [State.Takes]; decide +kernel
/-- A WRITE whose PSN came before. -/
theorem wit_frame_again : fab0.Takes 0 (rx 0 0xFFFFFFFF 0 []) 0
    ∧ wrapN 32 ((hPsn (rx 0 0xFFFFFFFF 0 []).hdr : Int) - ((fab0.entered 0 (rx 0 0xFFFFFFFF 0 [])).flow (frameKey (rx 0 0xFFFFFFFF 0 []))).expect)
      = 2 ^ 32 - 1 := by
  simp only [State.Takes]; decide +kernel

theorem wit_frame_dropped : hVer (rx 0 0 (0) []).hdr = 1 ∧ hType (rx 0 0 0 []).hdr = 0 ∧ fab0.passesOn { rx 0 0 0 [] with crcOk := false } = false
    ∧ (fab0.linkTake 0 { rx 0 0 0 [] with crcOk := false }).2 = true ∧ hDinc (rx 0 0 0 []).hdr = fab0.ownInc
    ∧ hDinc (BitVec.ofNat 256 (2 ^ 28 + 9 * 2 ^ 64)) ≠ fab0.ownInc := by decide +kernel

/-- A WRITE inside the map is acknowledged, one outside it refused, and a READ_REQ answered by its data alone. -/
theorem wit_frame_answers : ansOf (State.applyWrite (rx 0 0 0x100 [1, 2]) (fab0.entered 0 (rx 0 0 0x100 [1, 2])) (frameKey (rx 0 0 0x100 [1, 2]))) = .ack
    ∧ ansOf (State.applyWrite (rx 0 0 0x9000000000 [1]) (fab0.entered 0 (rx 0 0 0x9000000000 [1])) (frameKey (rx 0 0 0 []))) = .nack
    ∧ ansOf (State.applyReadReq (rx 1 0 (0x100 + 2 ^ 64) []) (fab0.entered 0 (rx 1 0 (0x100 + 2 ^ 64) [])) (frameKey (rx 1 0 0 []))) = .quiet := by
  decide +kernel
theorem test_write_frame : (State.applyWrite (rx 0 0 0x100 [1, 2]) fab0 0).1.mem.rd 0x101 = 2 := by decide +kernel
theorem wit_write_inside : inMap (hOp (rx 0 0 0x100 [1, 2]).hdr 47 0) 2 = true ∧ fab0.rawHits [(hOp (rx 0 0 0x100 [1, 2]).hdr 47 0, 2)] = []
    ∧ hNotify (rx 0 0 0x100 [1, 2]).hdr = false ∧ hNotify (BitVec.ofNat 256 (2 ^ 28 + 2 ^ 22)) = true
    ∧ inMap (hOp (rx 0 0 0x9000000000 [1]).hdr 47 0) 1 = false ∧ inMap (hOp (rx 1 0 (0x100 + 2 ^ 64) []).hdr 47 0)
      (4 * hOp (rx 1 0 (0x100 + 2 ^ 64) []).hdr 74 64) = true
    ∧ inMap (hOp (rx 1 0 (0x9000000000 + 2 ^ 64) []).hdr 47 0) (4 * hOp (rx 1 0 (0x9000000000 + 2 ^ 64) []).hdr 74 64) = false := by
  decide +kernel

/-- A collective frame is held while the engine is off, and taken when it is on and moves bytes. -/
theorem wit_coll : ansOf (State.applyColl (rx 4 0 0 []) (fab0.entered 0 (rx 4 0 0 [])) (frameKey (rx 4 0 0 []))) = .hold
    ∧ ansOf (State.applyColl (rx 4 0 0 []) (({ fab0 with mem := fab0.mem.wr32 0 0xC0000000#32 } : State).setFlag .COL_CTRL 0 31
      |>.wr .COL_STORE_SIZE 0 1
      |>.entered 0 (rx 4 0 0 [])) (frameKey (rx 4 0 0 []))) = .ack := by decide +kernel

/-- An instruction of core 0 waits for the READ_DATA of tag 0. -/
def readState : State := fab0.modFab fun f => { f with reads := [⟨0, frameKey (rx 2 0 0 []), 9, 0x100, 4, (0, 5, 1)⟩] }
theorem wit_read_data : (readState.fab.reads.find? fun r => r.tag == hOp (rx 2 0 0 []).hdr 95 80 && r.key == frameKey (rx 2 0 0 []))
    = some ⟨0, frameKey (rx 2 0 0 []), 9, 0x100, 4, (0, 5, 1)⟩ := by decide +kernel

theorem wit_port_rows : fab0.portUp 0 = true ∧ fab0.ethernet = false ∧ (fab0.port 0).lanes ≠ 7 ∧ 0 < fab0.fld .FAB_PORT_CTRL 0 20 13
    ∧ ((fab0.modPort 0 fun x => { x with retrain := some 2 }).port 0).retrain = some 2
    ∧ (fab0.modPort 0 fun x => { x with retrain := some 2 }).portUp 0 = true := by decide +kernel
/-- A frame for device 6 that this device passes on. -/
def passFrame : Frame := { rx 0 0 0 [] with link := .direct 6 3 2 0 true false }
theorem wit_frame_forward : (6 : Nat) ≠ fab0.devId ∧ (fab0.linkTake 0 passFrame).2 = true ∧ bit (SMap.get (0 : Word) fab0.fab.route 6) 31 = true
    ∧ bit (SMap.get (0 : Word) fab0.fab.route 6) 30 = false
    ∧ fab0.portsUp.filter (fun q => bit (SMap.get (0 : Word) fab0.fab.route 6) q) = [0] := by decide +kernel
def txState (resends : Nat) : State := fab0.modPort 0 fun x => { x with tx := [⟨0, 0, 3, 0, [], resends, none⟩] }
theorem wit_link_resend : ((txState 7).port 0).tx = [⟨0, 0, 3, 0, [], 7, none⟩] ∧ ((txState 8).port 0).tx = [⟨0, 0, 3, 0, [], 8, none⟩] := by decide +kernel
theorem wit_lane_retrain : fab0.reaches (.host 0) .PORT 0 0 = true := by decide +kernel
theorem wit_port_comes_up : (fab0.setFlag .FAB_PORT_CTRL 1 31).portUp 1 = false ∧ (fab0.setFlag .FAB_PORT_CTRL 1 31).flag .FAB_PORT_CTRL 1 31 = true
    ∧ (fab0.setFlag .FAB_PORT_CTRL 1 31).flag .FAB_DEVID 0 31 = true ∧ (fab0.setFlag .FAB_PORT_CTRL 1 31).idSuits = true
    ∧ (fab0.setFlag .FAB_PORT_CTRL 1 31).portHeld 1 = false := by decide +kernel

/-- A flow to device 6 with one frame unacknowledged, whose instruction waits for it. -/
def sentFrame : TxFrame := ⟨4, 0, 0, [], false, some (0, 5, 1)⟩
def waitsFlight : Flight := ⟨0, 1, [], [], [(flowKey 0 6 0, 4)], [], [], none, false, false, false, false⟩
def flowState : State :=
  (fab0.modFlow (flowKey 0 6 0) fun f => { f with unacked := [sentFrame] }).modQ 0 5 fun q => { q with flight := [waitsFlight] }
theorem wit_rto : (flowState.flow (flowKey 0 6 0)).unacked ≠ [] := by decide +kernel
theorem wit_rto_backlog : ((fab0.modFlow (flowKey 0 6 0) fun f => { f with backlog := [sentFrame] }).flow (flowKey 0 6 0)).unacked = []
    ∧ ((fab0.modFlow (flowKey 0 6 0) fun f => { f with backlog := [sentFrame] }).flow (flowKey 0 6 0)).backlog ≠ [] := by decide +kernel
theorem wit_ack_timeout : ((flowState.flow (flowKey 0 6 0)).unacked ++ (flowState.flow (flowKey 0 6 0)).backlog).find? (fun x => x.psn == 4)
      = some sentFrame ∧ sentFrame.owner = some (0, 5, 1)
    ∧ (flowState.q 0 5).flight.find? (fun g => g.seq == 1 && g.waits.contains (flowKey 0 6 0, 4)) = some waitsFlight := by decide +kernel
theorem wit_lost_peer : (flowState.fab.flows.any fun x => keyDev x.1 == 6 && (x.2.unacked != [] || x.2.backlog != [])) = true := by
  decide +kernel
theorem wit_ports_down : (fab0.clrFlag .FAB_PORT_STATUS 0 31).ethernet = false
    ∧ (List.range 24).filter (fun p => (fab0.clrFlag .FAB_PORT_STATUS 0 31).fld .FAB_PORT_STATUS p 21 4 == 6) = [0]
    ∧ (fab0.clrFlag .FAB_PORT_STATUS 0 31).portUp 0 = false := by decide +kernel

/-! Witnesses: the host interface and jobs. -/

/-- An entry of version 1 with tag 7, its opcode and its operand words. -/
def entry (op : Nat) (ws : List Nat) : List Byte :=
  ((natLe 4 (op * 256 + 1) ++ natLe 4 7 ++ ws.flatMap (natLe 4)) ++ List.replicate 64 0).take 64
/-- The entry at the front of ring 0, which function 0 holds after reset. -/
def ringed (op : Nat) (ws : List Nat) (s : State) : State := s.modRing 0 fun q => { q with entries := [entry op ws] }
def begun (s : State) : State := s.begin 0
theorem starts_of {op : Nat} {ws : List Nat} {s : State}
    (h : (entryOp (entry op ws) == op && (ringed op ws s).nextStart == some 0 && (ringed op ws s).ringFn 0 == some 0
      && ((ringed op ws s).ring 0).entries == [entry op ws]) = true) :
    (ringed op ws s).Starts 0 op 0 (entry op ws) (begun (ringed op ws s)) := by
  simp only [Bool.and_eq_true, beq_iff_eq] at h
  exact ⟨[], h.2, h.1.2, h.1.1.1, h.1.1.2, rfl⟩

def winRead : PWin := ⟨false, none, 0x100000, 64, 0, false, false, false⟩
def winIn : PWin := ⟨false, some 0, 0x100000, 8, 8, false, false, false⟩
/-- A window's state before PORT_CLOSE, and a granted host window. -/
def winState (x : PWin) : State := (jobbed 3).setWin 0 (some x)
def grantState : State := { up with hostWins := SMap.set none up.hostWins 0 (some ⟨0, 4096, true, true⟩) }

theorem wit_nop : (ringed 0x00 [] up).Starts 0 0x00 0 (entry 0x00 []) (begun (ringed 0x00 [] up)) := starts_of (by decide +kernel)
theorem wit_port_open : (ringed 0x10 [0, 0x100000, 0, 64] up).Starts 0 0x10 0 (entry 0x10 [0, 0x100000, 0, 64])
      (begun (ringed 0x10 [0, 0x100000, 0, 64] up))
    ∧ (begun (ringed 0x10 [0, 0x100000, 0, 64] up)).portAsks 0 0 (entry 0x10 [0, 0x100000, 0, 64]) = some winRead
    ∧ (begun (ringed 0x10 [0, 0x100000, 0, 0] up)).portAsks 0 0 (entry 0x10 [0, 0x100000, 0, 0]) = none
    ∧ (begun (ringed 0x10 [0, 0x100000, 0, 0] up)).localWin 0 (bits (entryW (entry 0x10 [0, 0x100000, 0, 0]) 2) 3 0) = some 0 :=
  ⟨starts_of (by decide +kernel), by decide +kernel, by decide +kernel, by decide +kernel⟩
theorem wit_port_close (x : PWin) (h : x = winRead ∨ x = winIn) : (ringed 0x11 [0] (winState x)).Starts 0 0x11 0 (entry 0x11 [0])
      (begun (ringed 0x11 [0] (winState x)))
    ∧ (begun (ringed 0x11 [0] (winState x))).localWin 0 (bits (entryW (entry 0x11 [0]) 2) 3 0) = some 0
    ∧ (begun (ringed 0x11 [0] (winState x))).win 0 = some x := by
  rcases h with rfl | rfl <;> exact ⟨starts_of (by decide +kernel), by decide +kernel, by decide +kernel⟩
/-- The first word of the buffer of even steps is step 0, which waits in LOADING; one byte short is not complete. -/
theorem wit_input_window : winIn.pos = winIn.len
    ∧ (ringed 0x11 [0] (winState winIn)).mem.rd32 winIn.base = (ringed 0x11 [0] (winState winIn)).servedStep 0 0
    ∧ { winIn with pos := 7 }.pos ≠ winIn.len := by decide +kernel
theorem wit_hostwin : (ringed 0x20 [0, 0x1000, 0, 0x1000, 0] up).Starts 0 0x20 0 (entry 0x20 [0, 0x1000, 0, 0x1000, 0])
      (begun (ringed 0x20 [0, 0x1000, 0, 0x1000, 0] up))
    ∧ SMap.get none (ringed 0x20 [0, 0x1000, 0, 0x1000, 0] up).hostWins 0 = none
    ∧ (entryW (entry 0x20 [0, 0x1000, 0, 0x1000, 0]) 3).toNat = 0x1000 ∧ (entryW (entry 0x20 [0, 0x1000, 0, 0x1000, 0]) 5).toNat = 0x1000
    ∧ (ringed 0x21 [0] grantState).Starts 0 0x21 0 (entry 0x21 [0]) (begun (ringed 0x21 [0] grantState))
    ∧ SMap.get none (ringed 0x21 [0] grantState).hostWins 0 = some ⟨0, 4096, true, true⟩ :=
  ⟨starts_of (by decide +kernel), by decide +kernel, by decide +kernel, by decide +kernel, starts_of (by decide +kernel), by decide +kernel⟩

/-- SHAKE256 of no bytes, 64 bytes long, by FIPS 202. -/
def shakeEmpty : List Byte := (natLe 64 0x46b9dd2b0ba88d13233b3feb743eeb243fcd52ea62b81b82b50c27646ed5762fd75dc4ddd8c0f200cb05019d67b592f6fc821c49479ab48640292eacb3b7c4be).reverse

/-- A job descriptor at 0x10000 by R375's layout: no tensors and reductions, one member, an image of no bytes. -/
def jdMem : Memory :=
  let a := 0x10000
  let sect := fun (m : Memory) (x : Nat × Nat × Nat × Nat × Nat) =>
    m.wrN (a + 128 + 16 * x.1) (natLe 2 x.2.1 ++ natLe 2 0 ++ natLe 4 x.2.2.1 ++ natLe 4 x.2.2.2.1 ++ natLe 4 x.2.2.2.2)
  let m := (Memory.wrN up.mem a ([1, 0] ++ natLe 2 6 ++ natLe 4 372)).wrN (a + 64) shakeEmpty
  ([(0, 1, 256, 16, 1), (1, 2, 256, 0, 0), (2, 3, 272, 32, 1), (3, 4, 304, 64, 1), (4, 5, 368, 0, 0), (5, 8, 368, 4, 1)].foldl sect m).wrN (a + 276) [1]
def submitState : State := { up with mem := jdMem }
theorem wit_job_submit : (ringed 0x01 [0x10000, 0, 372] submitState).Starts 0 0x01 0 (entry 0x01 [0x10000, 0, 372])
      (begun (ringed 0x01 [0x10000, 0, 372] submitState))
    ∧ submitState.jobState 0 = 0 ∧ submitState.inPartHbm 0 0x10000 372 = true ∧ submitState.jdForm 0x10000 = true
    ∧ submitState.jdDigestOk 0x10000 = true ∧ submitState.jdContentOk 0x10000 [] = true ∧ submitState.jd 0x10000 28 4 = 0 :=
  ⟨starts_of (by decide +kernel), by decide +kernel, by decide +kernel, by decide +kernel, by decide +kernel, by decide +kernel,
    by decide +kernel⟩
theorem wit_job_states : ∀ k ∈ [2, 3, 4, 5, 6, 7, 8, 9], (jobbed k).jobState 0 = k ∧ ((jobbed k).part 0).job = some job0
    ∧ ((jobbed k).part 0).plan = some plan0 := by decide +kernel
theorem wit_job_entries : ∀ op ∈ [0x02, 0x03, 0x04, 0x05], ∀ k ∈ [3, 4, 8], (ringed op [1] (jobbed k)).Starts 0 op 0 (entry op [1])
      (begun (ringed op [1] (jobbed k)))
    ∧ entryW (entry op [1]) 2 = job0.id := by
  intro op h k h2
  refine ⟨starts_of ?_, ?_⟩ <;> revert k <;> revert op <;> decide +kernel
/-- Entries of another JOB_ID, or with no job, and of a descriptor in no HBM of the partition. -/
theorem wit_job_refusals : (∀ op ∈ [0x02, 0x03, 0x04, 0x05], (ringed op [2] (jobbed 4)).Starts 0 op 0 (entry op [2])
      (begun (ringed op [2] (jobbed 4))) ∧ entryW (entry op [2]) 2 ≠ job0.id
      ∧ (ringed op [1] up).Starts 0 op 0 (entry op [1]) (begun (ringed op [1] up)))
    ∧ (up.part 0).job = none ∧ up.inPartHbm 0 hbmEnd 372 = false := by
  refine ⟨fun op h => ⟨starts_of ?_, ?_, starts_of ?_⟩, by decide +kernel⟩ <;> revert op <;> decide +kernel
/-- Partition 1 runs a job of several members. -/
theorem wit_job_second : ∃ s : State, ∃ q i, q < 8 ∧ s.jobState q ≠ 0 ∧ (s.part q).job = some i ∧ i.pm1 ≠ 0 :=
  ⟨(up.modPart 1 fun p => { p with job := some { job0 with pm1 := 1 } }).setJobState 1 4, 1, { job0 with pm1 := 1 }, by decide +kernel⟩
/-- A resume from the epoch 0 that Stay 8 holds. -/
def resumeState : State :=
  (((up.modPart 0 fun p => { p with job := some { job0 with resume := true }, plan := some plan0 }).setJobState 0 3).setEpochReg 11 1).setEpochReg 8 0
theorem wit_job_resume : resumeState.record 11 = job0.id ∧ job0.epoch ≠ noEpoch ∧ resumeState.record 8 = job0.epoch := by decide +kernel

/-- A plan of one stage, replica and shard that fits, over one layer. -/
def facts0 : PlanFacts :=
  ⟨[⟨1, 0⟩], false, [], 0x600000, [⟨(1, 1, 1), false, false, false, [(1, 1, 1)], [], [], [], [], (0x400000, 0x500000), [], [], plan0⟩]⟩
def placing (k : Nat) : State := (up.modPart 0 fun p => { p with job := some { job0 with members := [0] }, plan := some plan0 }).setJobState 0 k
/-- What a job of one member comes to: a plan (1), a failure (2), or neither yet (0). -/
def placedAs (j : Job) (f : PlanFacts) (s : State) : Nat := match s.place 0 { j with members := [0] } f with
  | .placed .. => 1
  | .failed _ => 2
  | .waits => 0
/-- A job that asks for more HBM to be kept free than there is does not fit; facts that name no trial are not all there. -/
theorem wit_place : placedAs job0 facts0 (placing 2) = 1 ∧ placedAs { job0 with cons := (0, 0xFFFFFFFF) } facts0 (placing 2) = 2
    ∧ placedAs job0 { facts0 with trials := [] } (placing 2) = 0 ∧ placedAs job0 facts0 (placing 6) = 1
    ∧ (placing 2).jobState 0 = 2 ∧ ((placing 2).part 0).job = some { job0 with members := [0] } ∧ (placing 6).jobState 0 = 6
    ∧ (placing 6).lossFatal 0 = false := by decide +kernel
theorem wit_agreement : State.maxAgrees ((placing 2).part 0).place.digest [0] = true ∧ State.maxAgrees ((placing 2).part 0).place.digest [1] = false
    ∧ ((placing 2).part 0).plan = some plan0 := by decide +kernel
theorem wit_job_version : (begun (ringed 0x01 [0x10000, 0, 372] submitState)).versionOk (1, 0) = true
    ∧ (begun (ringed 0x01 [0x10000, 0, 372] submitState)).jobState 0 = 0 := by decide +kernel

/-- Ring 0 enabled for version 1, with room for 16 entries and completions each, one entry waiting in host memory. -/
def ringOn : State :=
  ((((up.wr .RP_CFG 0 0x80010000).wr .RP_SIZE 0 0x00040004).wr .RP_SQ_TAIL 0 1)).modHif fun h => { h with rr := 0xFF }
theorem wit_doorbells : ringOn.localRing 0 0 = some 0 ∧ ringOn.isReady = true ∧ ringOn.enabled 0 = true ∧ (15#32).toNat < ringOn.sqSize 0
    ∧ (15#32).toNat < ringOn.cqSize 0 ∧ ringOn.inMrm = false := by decide +kernel
theorem wit_entry_fetch : ringOn.nextRing = some 0 ∧ ringOn.ringFn 0 = some 0 ∧ ringOn.entryValid 0 (entry 0x00 []) = true
    ∧ ringOn.entryValid 0 (entry 0x06 []) = false := by decide +kernel
theorem wit_entry_invalid : (entryVer (0#8 :: (entry 0x00 []).tail) ≠ ringOn.fld .RP_CFG 0 23 16)
    ∧ entryOp (entry 0x06 []) ∉ [0x00, 0x01, 0x02, 0x03, 0x04, 0x05, 0x10, 0x11, 0x20, 0x21]
    ∧ bits (entryW (natLe 4 0x80000001 ++ (entry 0x00 []).drop 4) 0) 31 18 ≠ 0 := by decide +kernel
def compl0 : Compl := ⟨0, false, 0, 7, 0, [], true, 0⟩
def compState : State := ringOn.modRing 0 fun q => { q with comps := [compl0], unsig := 1 }
theorem wit_completion : (compState.ring 0).comps = [compl0] ∧ compState.cqFull 0 = false ∧ compl0.irq = true
    ∧ compState.fld .RP_CQ_TAIL 0 15 0 + 1 < compState.cqSize 0 ∧ (compState.ring 0).unsig ≠ 0
    ∧ (((compState.writeHost (compState.fld .RP_CQ_LO 0 31 12 * 4096 + (compState.rd .RP_CQ_HI 0).toNat * 2 ^ 32
      + 32 * compState.fld .RP_CQ_TAIL 0 15 0) (compState.complBytes 0 compl0)).setFld .RP_CQ_TAIL 0 15 0
        (compState.fld .RP_CQ_TAIL 0 15 0 + 1)).cqFull 0 = false) := by decide +kernel
theorem wit_ring_enable : up.localRing 0 0 = some 0 ∧ up.reaches (.host 0) .RP 0 0 = true ∧ up.reaches (.host 0) .HIF 0 0x14 = true := by
  decide +kernel
/-- A ring pair not yet enabled, of legal sizes and the version that `HIF_VERSION` gives. -/
def ringSet (ver : Nat) : State := (up.wr .RP_CFG 0 (BitVec.ofNat 32 (ver * 2 ^ 16))).wr .RP_SIZE 0 0x00100004
theorem wit_ring_enables : ∃ ver, (ringSet ver).ringFn 0 = some 0 ∧ (ringSet ver).enabled 0 = false
    ∧ (0x80000000#32 ||| (ringSet ver).rd .RP_CFG 0) &&& 0x00FFFF00#32 = (ringSet ver).rd .RP_CFG 0 &&& 0x00FFFF00#32
    ∧ 4 ≤ (ringSet ver).fld .RP_SIZE 0 4 0 ∧ (ringSet ver).fld .RP_SIZE 0 20 16 ≤ 16
    ∧ (ringSet ver).fld .HIF_VERSION 0 7 0 ≤ (ringSet ver).fld .RP_CFG 0 23 16
    ∧ (ringSet ver).fld .RP_CFG 0 23 16 ≤ (ringSet ver).fld .HIF_VERSION 0 15 8 ∧ (ringSet ver).isReady = true :=
  ⟨1, by decide +kernel⟩
/-- A write that enables ring 0 of the settings it has, one with another version, and one while the ring is enabled. -/
theorem wit_ring_config : up.localRing 0 0 = some 0 ∧ up.ringFn 0 = some 0 ∧ (ringSet 1).enabled 0 = false ∧ ringOn.enabled 0 = true
    ∧ ringOn.fnEnabled 0 = true ∧ up.fnEnabled 0 = false ∧ up.fld .RP_SIZE 0 4 0 < 4
    ∧ 0x00020000#32 &&& 0x00FFFF00#32 ≠ (ringSet 1).rd .RP_CFG 0 &&& 0x00FFFF00#32 ∧ s0.reaches (.host 0) .RP 0 0 = false
    ∧ s0.reaches (.host 0) .HIF 0 0x14 = false := by decide +kernel
/-- Function 1 asks for no rings, or for one of function 0's. -/
def fnOne : State := up.setSel (.host 0) .HIF_FN_SEL 0 1
theorem wit_range : bits (fnOne.sel (.host 0) .HIF_FN_SEL 0) 2 0 = 1 ∧ fnOne.reaches (.host 0) .HIF 0 0x14 = true ∧ fnOne.fnEnabled 1 = false
    ∧ (∀ w, w < (fnOne.fnPorts 1).2 → fnOne.win ((fnOne.fnPorts 1).1 + w) = none)
    ∧ (∀ f, f < 8 → f ≠ 1 → rangesMeet 0 0 (fnOne.fnRings f).1 (fnOne.fnRings f).2 = false
      ∧ rangesMeet 0 0 (fnOne.fnPorts f).1 (fnOne.fnPorts f).2 = false)
    ∧ rangesMeet 0 1 (fnOne.fnRings 0).1 (fnOne.fnRings 0).2 = true ∧ 256 < 255 + 2 := by decide +kernel
/-- One free entry before its completion queue's end, and a queue that is full. -/
theorem wit_completion_full : (compState.wr .RP_CQ_HEAD 0 ((compState.rd .RP_CQ_TAIL 0 + 1) &&& 0xFFFF#32)).cqFull 0 = true
    ∧ ((compState.setFld .RP_CQ_TAIL 0 15 0 15).wr .RP_CQ_HEAD 0 5).cqFull 0 = false
    ∧ (((compState.setFld .RP_CQ_TAIL 0 15 0 15).wr .RP_CQ_HEAD 0 5).fld .RP_CQ_TAIL 0 15 0 + 1) % compState.sqSize 0 = 0 := by decide +kernel
theorem wit_unmask : ((up.setVec 0 3 { Vec.reset with pend := true }).vec 0 3).pend = true ∧ (up.vec 0 3).pend = false := by decide +kernel

theorem wit_functions : (∀ fn, fn < 8 → (up.modChip fun c => { c with pcieCap := 0xF00 }).fnPresent fn = true) ∧ up.fnPresent 0 = true ∧ up.reached .FN 0 0x8000 = true
    ∧ (up.setVec 0 3 { Vec.reset with pend := true }).reached .FN 0 0x8000 = true := by decide +kernel
theorem wit_window_tlp : up.inMrm = false ∧ up.localWin 0 0 = some 0 ∧ up.win 0 = none ∧ up.chip.mrmWin = none
    ∧ (winState winRead).localWin 0 0 = some 0 ∧ (winState winRead).win 0 = some winRead ∧ (winState winRead).chip.mrmWin = none
    ∧ (winState { winRead with dirRead := true }).win 0 = some { winRead with dirRead := true } := by decide +kernel
theorem test_window_write : (nextOf (exec (.windowWriteTlp 0 0 [0xAB] false) (winState winRead))).mem.rd 0x100000 = 0xAB := by decide +kernel

/-! Witnesses: resilience and the reset ladder. -/

/-- A job of four members, the epoch in progress in state `k`. -/
def epochOf (members : List Nat) (k : Nat) : State :=
  { (((up.modPart 0 fun p => { p with job := some { job0 with members := members }, plan := some plan0 }).setJobState 0 4).setEpochState k) with
    snap := { up.snap with prot := [0] } }
theorem wit_epoch_states : ∀ k ∈ [2, 3, 4], (epochOf [5] k).epochState = k ∧ (epochOf [5] k).epochMembers < 4
    ∧ 4 ≤ (epochOf [5, 6, 7, 8] k).epochMembers ∧ ((epochOf [5] k).part (epochOf [5] k).snap.part).plan = some plan0
    ∧ (epochOf [5] k).snap.prot.contains 0 = true ∧ ((epochOf [5] k).part (epochOf [5] k).snap.part).firstEpoch = false
    ∧ (epochOf [5] k).recov.maint = none := by decide +kernel
theorem wit_epoch_first : ((epochOf [5] 4).setEpochReg 8 noEpoch).record 8 = noEpoch ∧ ((epochOf [5] 4).setEpochReg 8 3).record 8 ≠ noEpoch := by
  decide +kernel
/-- The chunks of the other three members of a group of four. -/
theorem wit_epoch_chunks : ((epochOf [0, 5, 6, 7] 3).parityGroup (epochOf [0, 5, 6, 7] 3).snap.part).1.length = 4
    ∧ 4 ≤ (epochOf [0, 5, 6, 7] 3).epochMembers ∧ ((epochOf [0, 5, 6, 7] 3).part (epochOf [0, 5, 6, 7] 3).snap.part).constDue = false := by
  decide +kernel
theorem wit_epoch_consts : (((epochOf [0, 5, 6, 7] 3).modPart 0 fun p => { p with constDue := true }).part 0).constDue = true := by decide +kernel

theorem wit_tick : up.chip.start = .none ∧ up.chip.fw.isSome = true ∧ up.reaches (.host 0) .RES 0 0x18 = true := by decide +kernel
/-- A persistent detection at 0x5000 of the running job, and the same one again. -/
def badState (again : Bool) : State :=
  { jobbed 4 with snap := { (jobbed 4).snap with bad := [0x5000], lastBad := if again then [0x7000, 0x5000] else [0x7000] } }
theorem wit_restore : (∀ a ∈ (badState false).snap.bad, a ∉ (badState false).snap.lastBad) ∧ (jobbed 4).multi 0 = false
    ∧ (badState true).stepping 0 = true ∧ (badState true).snap.bad.find? (fun x => (badState true).snap.lastBad.contains x) = some 0x5000 := by
  decide +kernel
/-- A write of the epoch has met a Table Region, or has not. -/
theorem wit_epoch_refused : ({ epochOf [5] 2 with snap := { (epochOf [5] 2).snap with refused := true } } : State).copyRest.copyConsts.snap.refused = true
    ∧ (epochOf [5] 2).copyRest.copyConsts.snap.refused = false ∧ (epochOf [5] 3).snap.refused = false := by decide +kernel

theorem wit_replan : (jobbed 6).jobState 0 = 6 ∧ ((jobbed 6).part 0).job = some job0 ∧ (jobbed 6).lossFatal 0 = false ∧ ((jobbed 6).modPart 0 fun p => { p with lost := [6] }).lossFatal 0 = true := by decide +kernel
theorem wit_maintenance : up.reaches (.host 0) .RES 0 0x60 = true ∧ up.recov.maint = none ∧ up.chip.start = .none ∧ up.chip.fw.isSome = true
    ∧ (up.die up.primary).mast.running = true := by decide +kernel
/-- Two errors in 2^20 reads; a die 10 °C from where its channels were calibrated, and one that is not. -/
theorem wit_recal : 2 ^ 20 < 2 * 2 ^ 20 ∧ ¬2 ^ 21 < 2 * 2 ^ 20
    ∧ 10 ≤ ((up.dieTemp 0) - SMap.get 0 (up.modRecov fun x => { x with calTemp := [(0, up.dieTemp 0 - 10)] }).recov.calTemp 0).natAbs
    ∧ ¬10 ≤ ((up.dieTemp 0) - SMap.get 0 (up.modRecov fun x => { x with calTemp := [(0, up.dieTemp 0)] }).recov.calTemp 0).natAbs := by decide +kernel
theorem wit_digests : State.maxAgrees 7 [7, 7] = true ∧ State.maxAgrees 7 [7, 8] = false := by decide +kernel
/-- Cluster 0, or die 1, is drained. -/
def drainedState (w : Word) : State := up.modRecov fun x => { x with drained := w }
theorem wit_readmit : (drainedState 1).rd .RES_FENCED 0 &&& 1#32 ≠ 1#32 ∧ (drainedState 1).recov.drained &&& 1#32 ≠ 0
    ∧ State.Maint.mask ⟨3, 0, 0, 0⟩ = 1#32 ∧ (drainedState 1).recov.maint = none ∧ (drainedState 1).reaches (.host 0) .RES 0 0x60 = true
    ∧ (drainedState 0xFF00).rd .RES_FENCED 0 &&& State.Maint.mask ⟨6, 0, 0, 1⟩ ≠ State.Maint.mask ⟨6, 0, 0, 1⟩
    ∧ (drainedState 0xFF00).recov.drained &&& State.Maint.mask ⟨6, 0, 0, 1⟩ ≠ 0 := by decide +kernel

/-- An instruction of queue 2 of core 0 in execution, which waits for an acknowledgement. -/
def busyState : State := running0.modQ 0 2 fun q => { q with flight := [waitsFlight] }
theorem wit_watchdogs : ((busyState.q 0 2).flight.any fun f => !f.done) = true ∧ ((busyState.q 0 2).flight.any fun f => f.waits != []) = true := by
  decide +kernel
theorem wit_queue_watchdog : ((running0.modQ 0 2 fun q => { q with items := [tokWord] }).headOf 0 2).isSome = true
    ∧ (running0.modQ 0 2 fun q => { q with items := [tokWord] }).queueCounts (clOfCore 0) = true
    ∧ ((running0.modQ 0 2 fun q => { q with items := [tokWord] }).core 0).hold = none
    ∧ (running0.modQ 0 2 fun q => { q with items := [tokWord] }).waitTimerRuns 0 2 = false := by decide +kernel
/-- A dispatch to core 0 that its full queue 2 holds. -/
def stuffedState : State :=
  (running0.modChn 0 fun h => { h with held := some ⟨tokWord ||| 1 <<< 109, 0, 4⟩ }).modQ 0 2 fun q =>
    { q with items := List.replicate 64 tokWord }
theorem wit_dispatch_watchdog : stuffedState.heldCores 0 = [0] ∧ stuffedState.queueCounts 0 = true
    ∧ ((List.range 6).any fun e => stuffedState.waitTimerRuns 0 e) = false := by decide +kernel
theorem wit_refetch_watchdog : ((s0.modCore 0 fun c => { c with watch := SMap.set WRange.reset c.watch 3 { WRange.reset with
    armed := true, refetches := 64 } }).core 0).watch.any (fun x => x.1 == 3 && x.2.armed && x.2.refetches == 64) = true := by decide +kernel
theorem wit_step_watchdog : (running0.setJobState 0 4).partClusters 0 = 0 :: (running0.partClusters 0).tail
    ∧ (running0.setJobState 0 4).stepping 0 = true ∧ (running0.setJobState 0 4).stepHeld 0 = false
    ∧ bits (running0.setJobState 0 4).recov.wd 11 0 ≠ 0 ∧ ((0 :: (running0.partClusters 0).tail).any fun c =>
      (running0.setJobState 0 4).running c) = true := by decide +kernel
/-- The ladder while the step watchdog fires: empty, with a fault of its partition, and with its own last recovery. -/
theorem wit_recurrences : (running0.setJobState 0 4).recov.seen = [] ∧ (running0.setJobState 0 4).recov.faults = []
    ∧ State.faultPart (running0.setJobState 0 4) ⟨3, 0x06, 0, 7⟩ = (running0.setJobState 0 4).partOf 0
    ∧ ((running0.setJobState 0 4).modRecov fun x => { x with seen := [⟨3, 0x06, 0, 7⟩] }).recov.seen = [⟨3, 0x06, 0, 7⟩] := by decide +kernel
theorem wit_mgt_reset : up.reaches (.host 0) .MGT 0 0x3C = true ∧ up.recov.faults = [] ∧ bits (0x30000000#32) 31 28 = 3
    ∧ bits (0x30000000#32) 27 20 < 32 := by decide +kernel

theorem wit_recovering : up.recovering = false ∧ (up.modRecov fun x => { x with faults := [⟨3, 0x06, 0, 7⟩] }).recovering = true := by decide +kernel
def faulted (f : FaultRec) (s : State) : State := s.modRecov fun x => { x with faults := [f] }
theorem wit_context_reset : ((s0.holdCore 0 8 2 .faultAddress).contextFault 0) = some ⟨1, 8, 0, 2⟩
    ∧ (faulted ⟨1, 0x03, 0, 2⟩ s0).contextFault 0 = some ⟨1, 0x03, 0, 2⟩ ∧ ((faulted ⟨1, 0x03, 0, 2⟩ s0).core 0).hold = none := by
  decide +kernel
theorem wit_engine_reset : (faulted ⟨2, 0x01, 0, 2⟩ s0).engineFault 0 2 = some ⟨2, 0x01, 0, 2⟩
    ∧ (faulted ⟨2, 0x07, 0, 0⟩ s0).engineFault 0 0 = some ⟨2, 0x07, 0, 0⟩ ∧ FaultRec.same ⟨2, 0x07, 0, 0⟩ ⟨2, 0x07, 0, 0⟩ = true := by
  decide +kernel
theorem wit_partition_reset : (faulted ⟨3, 0x06, 0, 7⟩ (jobbed 4)).recov.faults.find? (fun f => f.level == 3
      && (faulted ⟨3, 0x06, 0, 7⟩ (jobbed 4)).faultPart f == 0) = some ⟨3, 0x06, 0, 7⟩ := by decide +kernel
/-- The partition's job as it stands when the reset loads its parts again. -/
def clearedState : State :=
  let f : FaultRec := ⟨3, 0x06, 0, 7⟩
  let s := faulted f (jobbed 4)
  let t := (((s.openRec f).takeSample f 0 (State.sampleCores f ((s.openRec f).partClusters 0)) 0).setPhase 2).setPhase 3
  ((((((t.partClusters 0).foldl (fun s c => s.clearCluster c) t).clearCols 0).clearStepMarks 0).resetFlags 0).countSat .MGT_PART_COUNT 0 1).leave f
set_option maxRecDepth 20000 in
theorem wit_partition_cleared : (clearedState.part 0).job = some job0 ∧ (clearedState.part 0).plan = some plan0 := by decide +kernel
theorem wit_chip_reset : (faulted ⟨4, 0x0F, 0, 7⟩ up).recov.faults.find? (fun f => f.level == 4) = some ⟨4, 0x0F, 0, 7⟩ := by decide +kernel
theorem wit_escalation : ∀ l ∈ [2, 3, 4], (faulted ⟨l, 0x06, 0, 7⟩ up).recov.faults.find? (fun f => f.level == l && f.unit == 0)
    = some ⟨l, 0x06, 0, 7⟩ := by decide +kernel
theorem wit_step_replay : (jobbed 4).stepping 0 = true ∧ ((jobbed 4).part 0).plan.isSome = true ∧ (jobbed 4).waitsRejoin 0 = false := by
  decide +kernel

def mastState (d missed fails : Nat) (runs : Bool) : State := up.modDie d fun x => { x with mast := ⟨runs, missed, fails⟩ }
theorem wit_masthead : ((mastState 0 2 0 true).die 0).mast.missed = 2 ∧ (mastState 0 2 0 true).primary = 0
    ∧ (mastState 0 2 0 true).standbyRuns = true ∧ ((mastState 1 2 0 true).die 1).mast.missed = 2 ∧ (mastState 1 2 0 true).primary ≠ 1
    ∧ ((mastState 1 0 0 true).die 1).mast.running = true ∧ (mastState 1 0 0 true).chip.fencedDies.getLsbD 1 = false
    ∧ (mastState 1 0 0 true).chip.fw.isSome = true ∧ ((mastState 1 0 0 false).die 1).mast.running = false
    ∧ ((mastState 1 0 0 false).die 1).mast.fails = 0 := by decide +kernel
theorem wit_tray : up.trayCounts = true ∧ (up.die up.primary).mast.running = true := by decide +kernel
theorem wit_rejoin : (jobbed 5).jobState 0 = 5
    ∧ State.votesAgree (((jobbed 5).part 0).place.digest, (jobbed 5).rd .PLC_STEP 0) [⟨0, 0⟩] = true
    ∧ State.votesAgree (((jobbed 5).part 0).place.digest, (jobbed 5).rd .PLC_STEP 0) [⟨1, 0⟩] = false := by decide +kernel

/-- A device whose Job Record lets it rejoin. -/
def rejoinState : State :=
  let j := { job0 with members := [0] }
  let s := (((up.setStartRec 22 22 1).modChip fun c => { c with jobRec := some (j, plan0, Place.reset) }).setEpochReg 11 1).setEpochReg 13
    0x10090000
  { s.setEpochReg 14 0xFFFFFFFF with mem := s.mem.wrN 0 (s.jobRecBytes j plan0 Place.reset) }
theorem wit_rejoins : rejoinState.rejoins 0 = some ({ job0 with members := [0] }, plan0, Place.reset)
    ∧ placedAs job0 facts0 ((((rejoinState.wr .PLC_PART_HBM 0 (BitVec.ofNat 32 (bits (rejoinState.record 13) 27 20 * 256
      + bits (rejoinState.record 13) 19 12))).wr .PLC_PART_CLUSTERS 0 (rejoinState.record 14)).modPart 0 fun y =>
        { y with job := some { job0 with members := [0] } })) = 1 := by decide +kernel
/-- A member of a job of several that has reset its partition. -/
def waiterState : State :=
  (up.modPart 0 fun p => { p with job := some { job0 with pm1 := 1, members := [0, 6] }, plan := some plan0, rejoin := true }).setJobState 0 4
theorem wit_waits_rejoin : waiterState.waitsRejoin 0 = true ∧ waiterState.jobState 0 ≠ 5
    ∧ State.votesAgree ((waiterState.part 0).place.digest, waiterState.rd .PLC_STEP 0) [⟨0, 0⟩] = true
    ∧ State.votesAgree ((waiterState.part 0).place.digest, waiterState.rd .PLC_STEP 0) [⟨1, 0⟩] = false := by decide +kernel

/-! Witnesses: resets, starts, security, power and registers. -/

theorem wit_reset_sources : s0.chip.start ≠ .off ∧ s0.chip.start ≠ .held ∧ s0.chip.perst = false ∧ s0.chip.resetn = false := by decide +kernel
def pinState (perst resetn : Bool) : State := s0.modChip fun c => { c with start := .held, perst := perst, resetn := resetn }
theorem wit_release : ∀ p q, (pinState p q).chip.start = .held ∧ (pinState p q).chip.therm = false ∧ (pinState p q).chip.perst = p
    ∧ (pinState p q).chip.resetn = q := by decide +kernel

def startEnv (refclk warm : Bool) : StartEnv := ⟨refclk, warm, 0, 0, 0, 0, none, 0, true, 0, 0, 0, [], 0, ⟨[], false, [], 0, []⟩⟩

/-- The Ed448 point whose encoding is 1 and zeros is the neutral element: under it, neutral R and S = 0 verify every message. -/
def key0 : List Byte := [1#8] ++ List.replicate 56 0#8
def sig0 : List Byte := key0 ++ List.replicate 57 0#8

/-- An image by R503's layout: SVN 1, a body of 16 zero bytes, its SHAKE256 and a header signed under that key. -/
def image0 : List Byte :=
  natLe 4 0x57464847 ++ [1, 1, 1, 0] ++ natLe 4 1 ++ natLe 4 16 ++ List.replicate 16 0 ++ natLe 64 0xd7cb15aeac5da3162f7dc1729a79bb9ed26c1e8f7b24bb28a5d89d341f680fc226036379b8ae812ed3cbe78d17d63dc928762b6faa34bfc4434f5f453cb270d5 ++ key0
    ++ List.replicate 103 0 ++ sig0 ++ List.replicate 142 0 ++ List.replicate 16 0
/-- Both slots hold it, their records with ORDER 1, and an Option Block of default fields: SHAKE256 as R504 and R479 say. -/
def record0 : List Byte := natLe 4 0x52534847 ++ natLe 4 1 ++ natLe 64 0x36ac1e8722bfff8ef2ccd380cde846cf7aeb1eeb2c72fedeef587c5dc18f273233e96a628a530323a155f36e81e42afa8943a48325fba2c87950f07eab644c23 ++ List.replicate 184 0
def option0 : List Byte := natLe 4 0x424F4847 ++ [1] ++ List.replicate 31 0 ++ [0x11] ++ List.replicate 411 0 ++ natLe 64 0xf7707dd6da7969e56e7069283b904e87462ec93cb203cce76750238c28121514cee1036a682b491b3b32b24e8c301c1f84a8c4446f082214ded19b408ab2126d
def flash0 (s : State) : State :=
  ((((s.flashWr 0 option0).flashWr 0x100000 image0).flashWr 0x1FFF00 record0).flashWr 0x200000 image0).flashWr 0x2FFF00 record0
def keyed (s : State) : State :=
  s.modChip fun c => { c with otp := { c.otp with hash := SMap.set 0 c.otp.hash 0 0x2a49fcc74e74c7e38318a4ab87d387db9a834131b955407fda70fd6b0390917cbd7a989f4c391ff1ad6fd0a0b6c59049040191e64c422d4ddc7421435aad012d } }
set_option maxRecDepth 20000
theorem test_key_hash : leNat (shake256 64 key0) = 0x2a49fcc74e74c7e38318a4ab87d387db9a834131b955407fda70fd6b0390917cbd7a989f4c391ff1ad6fd0a0b6c59049040191e64c422d4ddc7421435aad012d := by decide +kernel
theorem test_image_signed : edVerify key0 (ascii "GH-FW") (image0.take 256) sig0 = true := by decide +kernel
theorem test_body_digest : shake256 64 (List.replicate 16 0#8) = natLe 64 0xd7cb15aeac5da3162f7dc1729a79bb9ed26c1e8f7b24bb28a5d89d341f680fc226036379b8ae812ed3cbe78d17d63dc928762b6faa34bfc4434f5f453cb270d5 := by decide +kernel
theorem test_record_digest : shake256 64 (record0.take 8 ++ image0.take 512) = sliceB record0 8 64 := by decide +kernel
theorem test_option_valid : obValid option0 = true := by decide +kernel
theorem key_known {s : State} (h : s.keyHash 0 = 0x2a49fcc74e74c7e38318a4ab87d387db9a834131b955407fda70fd6b0390917cbd7a989f4c391ff1ad6fd0a0b6c59049040191e64c422d4ddc7421435aad012d) (h2 : s.fuseSet 0 = false) : s.vkeyKnown key0 = true := by
  rw [State.vkeyKnown, test_key_hash, h, h2]; simp
theorem image_fields : imgBodyLen image0 = 16 ∧ imgSvn image0 = 1 ∧ leB image0 0 4 = 0x57464847 ∧ leB image0 4 1 = 1 ∧ leB image0 5 1 = 1
    ∧ leB image0 6 1 = 1 ∧ leB image0 7 1 = 0 ∧ (zeroB image0 20 31 && zeroB image0 153 159 && zeroB image0 217 255 && zeroB image0 370 383
      && zeroB image0 498 511) = true := by
  decide +kernel
theorem image_slices : sliceB image0 96 57 = key0 ∧ sliceB image0 256 114 = sig0 ∧ sliceB image0 32 64 = natLe 64 0xd7cb15aeac5da3162f7dc1729a79bb9ed26c1e8f7b24bb28a5d89d341f680fc226036379b8ae812ed3cbe78d17d63dc928762b6faa34bfc4434f5f453cb270d5
    ∧ sliceB image0 512 16 = List.replicate 16 0#8 := by decide +kernel
/-- The image passes R505 in a device of architecture 1.0 that knows the key, of a counter of 0 and not OWNED. -/
theorem image_passes {s : State} {u : Option Nat} (hv : s.fld .ARCH_VERSION 0 15 8 = 1) (hw : s.fld .ARCH_VERSION 0 7 0 = 0) (hc : s.svnCtr = 0)
    (hk : s.vkeyKnown key0 = true) (hl : s.lifeCycle ≠ 2) (hu : (u.any fun x => x != 33) = false) : s.imageFails image0 u = none := by
  obtain ⟨a, b, c, d, e, f, g, h⟩ := image_fields
  obtain ⟨i, j, k, l⟩ := image_slices
  rw [State.imageFails]
  simp only [a, b, c, d, e, f, g, h, i, j, k, l, hv, hw, hc, hk, hu, test_image_signed, test_body_digest]
  rw [if_neg (by decide), if_neg (by decide), if_neg (by decide), if_neg (by decide), if_neg (by decide), if_neg (fun x => hl x.1),
    if_neg (fun x => x rfl)]
/-- A device held in the cold with that image and block; the same before its start, and with no valid block. -/
def coldState : State := (keyed (flash0 s0)).modChip fun c => { c with start := .cold }
theorem flash_lengths : option0.length = 512 ∧ image0.length = 528 ∧ record0.length = 256 := by decide +kernel
theorem not_not (bs : List Byte) : (bs.map fun b => ~~~b).map (fun b => ~~~b) = bs := by simp [Function.comp_def]
/-- Flash reads back what was written, and is otherwise as it was. -/
theorem flash_self (s : State) (a : Nat) (bs : List Byte) {n : Nat} (h : n ≤ bs.length) : (s.flashWr a bs).flashRd a n = bs.take n := by
  show (Memory.rdN (Memory.wrN s.chip.flash a (bs.map fun b => ~~~b)) a n).map (fun b => ~~~b) = _
  have e := Memory.rdN_wrN s.chip.flash a (bs.map fun b => ~~~b)
  rw [List.length_map] at e
  rw [← Memory.take_rdN _ _ h, e, List.map_take, not_not]
theorem flash_other (s : State) {a b n : Nat} (bs : List Byte) (h : b + n ≤ a ∨ a + bs.length ≤ b) :
    (s.flashWr a bs).flashRd b n = s.flashRd b n := by
  show (Memory.rdN (Memory.wrN s.chip.flash a (bs.map fun b => ~~~b)) b n).map (fun b => ~~~b) = _
  rw [Memory.rdN_wrN_out _ _ (by simpa using h)]
  rfl
theorem flash_of {s t : State} (h : s.chip.flash = t.chip.flash) (a n : Nat) : s.flashRd a n = t.flashRd a n := by
  rw [State.flashRd, State.flashRd, h]
theorem flash0_option (s : State) : (flash0 s).flashRd 0 512 = option0 := by
  obtain ⟨h1, h2, h3⟩ := flash_lengths
  rw [flash0, flash_other _ _ (by omega), flash_other _ _ (by omega), flash_other _ _ (by omega), flash_other _ _ (by omega),
    flash_self _ _ _ (by omega), List.take_of_length_le (by omega)]
theorem flash0_option2 (s : State) : (flash0 s).flashRd 0x10000 512 = s.flashRd 0x10000 512 := by
  obtain ⟨h1, h2, h3⟩ := flash_lengths
  rw [flash0, flash_other _ _ (by omega), flash_other _ _ (by omega), flash_other _ _ (by omega), flash_other _ _ (by omega),
    flash_other _ _ (by omega)]
theorem flash0_image (s : State) (b : Bool) {n : Nat} (h : n ≤ 528) : (flash0 s).flashRd (slotFlash b) n = image0.take n := by
  obtain ⟨h1, h2, h3⟩ := flash_lengths
  cases b
  · show (flash0 s).flashRd 0x100000 n = _
    rw [flash0, flash_other _ _ (by omega), flash_other _ _ (by omega), flash_other _ _ (by omega), flash_self _ _ _ (by omega)]
  · show (flash0 s).flashRd 0x200000 n = _
    rw [flash0, flash_other _ _ (by omega), flash_self _ _ _ (by omega)]
theorem flash0_record (s : State) (b : Bool) : (flash0 s).flashRd (slotFlash b + 0xFFF00) 256 = record0 := by
  obtain ⟨h1, h2, h3⟩ := flash_lengths
  cases b
  · show (flash0 s).flashRd 0x1FFF00 256 = _
    rw [flash0, flash_other _ _ (by omega), flash_other _ _ (by omega), flash_self _ _ _ (by omega), List.take_of_length_le (by omega)]
  · show (flash0 s).flashRd 0x2FFF00 256 = _
    rw [flash0, flash_self _ _ _ (by omega), List.take_of_length_le (by omega)]
/-- A state whose flash is so has the Option Block in use, and both slots' records valid. -/
theorem flash0_uses {s t : State} (h : t.chip.flash = (flash0 s).chip.flash) (h2 : obValid (s.flashRd 0x10000 512) = false) :
    t.obInUse = some false ∧ t.obCopy false = option0 := by
  have a : t.obCopy false = option0 := (flash_of h _ _).trans (flash0_option s)
  have b : t.obCopy true = s.flashRd 0x10000 512 := (flash_of h _ _).trans (flash0_option2 s)
  refine ⟨?_, a⟩
  rw [State.obInUse, a, b, h2, test_option_valid]; rfl
theorem flash0_slots {s t : State} (h : t.chip.flash = (flash0 s).chip.flash) (b : Bool) : t.slotOrder b = some 1 ∧ t.slotImage b = image0 := by
  have a : t.slotHeader b = image0.take 512 := (flash_of h _ _).trans (flash0_image s b (by decide))
  constructor
  · rw [State.slotOrder, (flash_of h _ _).trans (flash0_record s b), a, test_record_digest]; decide +kernel
  · rw [State.slotImage, a, show imgBodyLen (image0.take 512) = 16 by decide +kernel]
    refine (flash_of h _ _).trans ((flash0_image s b (by decide)).trans (List.take_of_length_le ?_))
    rw [flash_lengths.2.1]; decide
theorem cold_key : coldState.fld .ARCH_VERSION 0 15 8 = 1 ∧ coldState.fld .ARCH_VERSION 0 7 0 = 0 ∧ coldState.svnCtr = 0
    ∧ coldState.lifeCycle ≠ 2 ∧ coldState.keyHash 0 = 0x2a49fcc74e74c7e38318a4ab87d387db9a834131b955407fda70fd6b0390917cbd7a989f4c391ff1ad6fd0a0b6c59049040191e64c422d4ddc7421435aad012d ∧ coldState.fuseSet 0 = false := by decide +kernel
theorem cold_flash : coldState.chip.flash = (flash0 s0).chip.flash := by
  unfold coldState keyed; simp only [State.modChip]
theorem reset_flash : obValid (s0.flashRd 0x10000 512) = false := by decide +kernel
theorem wit_cold_start : coldState.chip.start = .cold ∧ coldState.obInUse = some false ∧ leB (coldState.obCopy false) 12 4 % 2 = 0
    ∧ coldState.fails < 4 ∧ coldState.chip.mrmLatch = false ∧ coldState.chip.mrmStays = false ∧ coldState.chip.jobRec = none := by
  obtain ⟨a, b⟩ := flash0_uses cold_flash reset_flash
  exact ⟨by decide +kernel, a, by rw [b]; decide +kernel, by decide +kernel, by decide +kernel⟩
theorem wit_boot_slot : coldState.bootSlot = some false := by
  obtain ⟨a, b, c, d, e, f⟩ := cold_key
  obtain ⟨h, h2⟩ := flash0_slots cold_flash false
  have h3 : coldState.slotOk false = true := by
    rw [State.slotOk, h, h2, image_passes (u := none) a b c (key_known e f) d rfl]; rfl
  rw [State.bootSlot, State.firstSlot, h, (flash0_slots cold_flash true).1]
  simp only [show newerSeq 1 1 = false by decide, h3, if_true]
theorem wit_start_env : (startEnv true true).mastFail.getLsbD 0 = false ∧ (∀ k, k < 6 → (startEnv true true).stackFail.getLsbD k = false)
    ∧ (startEnv false false).refclk = false ∧ (startEnv true false).warm = false ∧ s0.chip.start = .ready := by decide +kernel
theorem wit_start_mrm : (s0.modChip fun c => { c with start := .cold }).chip.fw = none
    ∧ (s0.modChip fun c => { c with start := .cold, mrmStays := true }).chip.mrmStays = true
    ∧ (s0.modChip fun c => { c with start := .cold }).obInUse = none
    ∧ (s0.setStartRec 27 24 4).fails = 4 := by decide +kernel
/-- The same device about to start at chip level: its phases 1 and 2 leave flash as it was, and it wants no recovery mode. -/
def warmState : State := coldState.modChip fun c => { c with start := .ready, power := false }
theorem phase1_keeps (s : State) (e : StartEnv) : (s.phase1 e).chip.flash = s.chip.flash ∧ (s.phase1 e).chip.mrmLatch = s.chip.mrmLatch
    ∧ (s.phase1 e).chip.mrmStays = s.chip.mrmStays := by
  unfold State.phase1; dsimp only; split <;> split <;> exact ⟨rfl, rfl, rfl⟩
theorem bits_stay0 (w : Word) : bits (w &&& State.stayMask 0) 27 24 = bits w 27 24 := by
  refine Nat.eq_of_testBit_eq fun i => ?_
  rw [testBit_bits, testBit_bits]
  by_cases h : i < 4
  · have : i = 0 ∨ i = 1 ∨ i = 2 ∨ i = 3 := by omega
    rcases this with rfl | rfl | rfl | rfl <;> simp [State.stayMask]
  · simp [show ¬i < 4 from h]
theorem fails_setStartRec (s : State) {hi lo : Nat} (v : Nat) (h : lo ≤ hi) (h2 : hi < 24) : (s.setStartRec hi lo v).fails = s.fails := by
  rw [State.fails, State.fails, State.setStartRec, State.startRec_putStartRec, bits_stay0, bits_setBits_disj _ _ _ _ _ _ h (.inl h2)]
theorem phase2_keeps (s : State) : s.phase2.chip.flash = s.chip.flash ∧ s.phase2.chip.mrmLatch = s.chip.mrmLatch
    ∧ s.phase2.chip.mrmStays = s.chip.mrmStays ∧ s.phase2.fails = s.fails := by
  unfold State.phase2
  split
  · exact ⟨by simp, by simp, by simp, fails_setStartRec _ _ (by decide) (by decide)⟩
  · refine ⟨by simp, by simp, by simp, ?_⟩
    dsimp only
    rw [State.fails_congr (State.modChip_dies _ _), State.fails_congr (State.wr_dies _ _ _ _)]
    exact (fails_setStartRec (hi := 20) (lo := 20) _ _ (by decide) (by decide)).trans
      (fails_setStartRec (hi := 21) (lo := 21) _ _ (by decide) (by decide))
theorem warm_chip : warmState.chip.flash = (flash0 s0).chip.flash ∧ warmState.chip.mrmLatch = false ∧ warmState.chip.mrmStays = false := by
  refine ⟨?_, by decide +kernel, by decide +kernel⟩
  rw [← cold_flash]; unfold warmState; simp only [State.modChip]
theorem wit_start_watchdog : (warmState.phase1 (startEnv true true)).phase2.wantsMrm = false := by
  obtain ⟨a, b, m, c⟩ := phase2_keeps (warmState.phase1 (startEnv true true))
  obtain ⟨p, q, r⟩ := phase1_keeps warmState (startEnv true true)
  obtain ⟨d, e⟩ := flash0_uses ((a.trans p).trans warm_chip.1) reset_flash
  rw [State.wantsMrm, d, b, c, m, q, r, warm_chip.2.1, warm_chip.2.2]
  simp only [e]
  decide +kernel

/-- Minimal Recovery Mode. -/
def mrmState : State := (s0.setStay 0 0 (BitVec.ofNat 32 (2 ^ 23))).modChip fun c => { c with start := .none, power := false }
def streamState (data : List Byte) : State := (keyed mrmState).modChip fun c => { c with mrmWin := some (1, 0, 528), mrmData := data }
theorem wit_mrm : mrmState.inMrm = true ∧ mrmState.reaches (.host 0) .MGT 0 0x40 = true ∧ mrmState.chip.mrmWin = none
    ∧ up.inMrm = false ∧ 0xFFF00 < 16 * bits (0xFFFFFFFF#32) 31 1 ∧ 16 * bits (mrmState.rd .MGT_MRM_ARG 0) 31 1 ≤ 0xFFF00 := by decide +kernel
theorem wit_mrm_stream : (streamState image0).inMrm = true ∧ (streamState image0).chip.mrmWin = some (1, 0, 528)
    ∧ (streamState image0).chip.mrmOver = false ∧ image0.length = 528 ∧ ([] : List Byte).length ≠ 528
    ∧ (streamState image0).imageFails (List.replicate 528 0) (some (528 / 16)) = some .versionMismatch := by decide +kernel
theorem wit_mrm_image : (streamState image0).imageFails image0 (some (528 / 16)) = none :=
  image_passes (by decide +kernel) (by decide +kernel) (by decide +kernel) (key_known (by decide +kernel) (by decide +kernel))
    (by decide +kernel) (by decide +kernel)
theorem wit_stay_window : up.reaches (.masthead 0) .CKR 0 0x24 = true ∧ up.reaches (.masthead 0) .CKR 0 0x2C = true
    ∧ up.reaches (.host 0) .CKR 0 0x2C = true ∧ up.reaches (.host 0) .CKR 0 0x24 = true := by decide +kernel

/-- A token for PROVISIONED from BLANK, signed under the same key. -/
def lcState : State :=
  (keyed up).modChip fun c => { c with token := c.token.wrN 0 (natLe 4 0x4B544847 ++ [1] ++ List.replicate 123 0 ++ sig0) }
def checkOf (s : State) : Option State.Change := match s.lcCheck key0 [] with
  | .ok x => some x
  | .error _ => none
theorem wit_lc_change : lcState.reaches (.host 0) .SEC 0 0x2C = true ∧ checkOf lcState = some ⟨true, false, [10]⟩ ∧ checkOf up = none := by
  decide +kernel
def srcState : State := { keyed up with mem := up.mem.wrN 0 image0, regs := (up.setFld .SEC_FW_LEN 0 15 0 33).regs }
theorem wit_write_slot : srcState.handOverRuns = false ∧ srcState.inPartHbm 0 srcState.fwSrc (16 * 33) = true
    ∧ srcState.fld .SEC_FW_LEN 0 15 0 = 33 ∧ max 512 (16 * 33) = image0.length := by decide +kernel
theorem wit_write_slot_image : srcState.imageFails (srcState.mem.rdN srcState.fwSrc (max 512 (16 * 33))) (some 33) = none := by
  have h := Memory.rdN_wrN up.mem 0 image0
  rw [flash_lengths.2.1] at h
  rw [show srcState.mem.rdN srcState.fwSrc (max 512 (16 * 33)) = image0 from h]
  exact image_passes (by decide +kernel) (by decide +kernel) (by decide +kernel) (key_known (by decide +kernel) (by decide +kernel))
    (by decide +kernel) (by decide +kernel)
theorem wit_hand_over : (up.modRecov fun x => { x with maint := some ⟨8, 0, 0, 0⟩ }).handOverRuns = true
    ∧ (up.modRecov fun x => { x with maint := some ⟨8, 0, 0, 0⟩ }).reaches (.host 0) .SEC 0 0x2C = true := by decide +kernel
def commitState : State := { flash0 up with regs := (up.setFld .SEC_STATUS 0 15 8 1).regs }
theorem wit_fw_commit : commitState.svnCtr < commitState.fld .SEC_STATUS 0 15 8
    ∧ commitState.firstSlot = some (commitState.flag .SEC_STATUS 0 24) := by
  refine ⟨by decide +kernel, ?_⟩
  have h : commitState.chip.flash = (flash0 up).chip.flash := rfl
  rw [State.firstSlot, (flash0_slots h false).1, (flash0_slots h true).1]
  simp only [show newerSeq 1 1 = false by decide]
  decide +kernel
theorem wit_spdm : up.noId = false ∧ (up.setFlag .SEC_STATUS 0 25).noId = true ∧ (up.setFlag .SEC_STATUS 0 25).spdmServed = true
    ∧ up.measure 40 = none ∧ s0.spdmServed = false := by decide +kernel
theorem wit_security : up.reaches (.host 0) .SEC 0 0x28 = true ∧ up.chip.start ≠ .off ∧ up.spdmServed = true ∧ (up.measure 2).isSome = true := by
  decide +kernel

def armed0 : State := up.modChip fun c => { c with armed := true, dynAddr := some 9 }
theorem wit_power : armed0.chip.start = .none ∧ armed0.chip.armed = true ∧ armed0.chip.brake = none ∧ armed0.chip.dynAddr = some 9
    ∧ up.chip.dynAddr = none ∧ up.reaches (.host 0) .PWR 0 0x10 = true ∧ 12 ≤ bits (0x28000#32) 17 13 ∧ bits (0x28000#32) 17 13 ≤ 30
    ∧ bits (0x28000#32) 19 18 ≠ 3 ∧ bits (0#32) 17 13 < 12 ∧ 30 < bits (0x3E000#32) 17 13 ∧ bits (0xC0000#32) 19 18 = 3 := by decide +kernel

/-- The loop has made a step of die 0's clock due, down or up. -/
def clockState (slow : Bool) : State := armed0.setGov 0 { armed0.gov 0 with due := true, slow := slow }
theorem wit_clock : ((clockState false).gov 0).due = true ∧ ((clockState false).gov 0).slow = false ∧ ((clockState true).gov 0).slow = true
    ∧ (armed0.gov 0).due = false ∧ (clockState true).chip.armed = true := by decide +kernel
theorem wit_registers : barOf (.host 0) 0x300010 = some (.PWR, 0, 0x10) ∧ regAt .PWR 0x10 = some .PWR_CTRL ∧ up.reaches (.host 0) .PWR 0 0x10 = true
    ∧ barOf (.host 1) 0x10000 = none ∧ 0x300011 % 4 ≠ 0 := by decide +kernel
theorem wit_register_words : 0x300010 % 8 = 0 ∧ (∃ t, exec (.registerWrite (.host 0) ⟨0x300010, 4⟩ 0) up = .next t)
    ∧ ∃ t, exec (.rcFieldRead (.host 0) ⟨0x300010, 4⟩) up = .next t := ⟨by decide, ⟨_, rfl⟩, ⟨_, rfl⟩⟩
/-- A ring pair's and a function's registers, an MSI-X entry and a pending word; a register of a fenced cluster. -/
theorem wit_register_blocks : barOf (.host 0) 0x11014 = some (.RP, 0, 0x14) ∧ up.rpOf 0 = some (0, 0) ∧ regAt .RP 0x14 = some .RP_SIZE
    ∧ up.reaches (.host 0) .RP 0 0x14 = true ∧ barOf (.host 0) 0x18000 = some (.FN, 0, 0x8000) ∧ up.reaches (.host 0) .FN 0 0x8000 = true
    ∧ (up.setFlag .RES_FENCED 0 0).reaches (.host 0) .CVT 0 0x28 = false := by decide +kernel
theorem wit_register_counts : (∀ f ∈ Reg.KVP_LAB_MISS.fields, f.acc = .rc ∧ f.hi = 31 ∧ f.lo = 0) ∧ Reg.KVP_LAB_MISS.fields ≠ []
    ∧ (28 : Nat) < 32 := by decide
theorem wit_tamper : up.chip.start ≠ .off := by decide +kernel
theorem test_register_write : (nextOf (exec (.registerWrite (.host 0) ⟨0x300010, 4⟩ 0x28001) up)).fld .PWR_CTRL 0 17 13 = 20 := by decide +kernel

theorem wit_queue : ({ s0 with pending := [Instr.powerOn] } : State).pending = [Instr.powerOn] := by decide +kernel
theorem wit_memory : s0.MemWf ∧ ∃ t, step s0 = .next t := ⟨by unfold State.MemWf; decide +kernel, _, rfl⟩

end Sys2Proof.Tests
end

namespace Sys2Proof.Machine

/-! SUPPORT. The rows of a step's end: the ready point, the boundary of each mode, the pin `STEP_SYNC` and the held step
(R22, R24, R389, R390, R394). -/

namespace State

theorem stepReady_of_done {s : State} {p : Nat} (met : Metrics) (hrun : s.stepping p = true)
    (hreef : (s.part p).reefDone = true) (hnone : (s.part p).ready = none) (hpass : s.noUpass p = true) :
    s.stepReady p met = s.modPart p fun x => { x with
      ready := some ⟨s.fld .PLC_SYNC_CTRL p 31 30, s.fld .PLC_SYNC_CTRL p 11 0, met⟩, sync := s.rd .PLC_SYNC_CTRL p } := by
  simp [stepReady, hrun, hreef, hnone, hpass]

theorem stepBegin_of_complete {s : State} {p : Nat} (us : Nat) (hhold : (s.part p).inputHold = true)
    (hrun : s.stepping p = true) (hbuf : s.inputReady p (s.rd .PLC_STEP p) = true) :
    s.stepBegin p us = s.modPart p fun x => { x with inputHold := false, stallUs := us } := by
  simp [stepBegin, hhold, hrun, hbuf]

theorem boundaryIn_of_ready {s : State} {p mode : Nat} {r : Ready} (us : Nat) (hready : (s.part p).ready = some r)
    (hmode : r.mode = mode) : s.boundaryIn p mode us = s.takeBoundary p us := by
  simp [boundaryIn, hready, hmode]

theorem syncExpire_of_ready {s : State} {p : Nat} {r : Ready} (hready : (s.part p).ready = some r) (hmode : r.mode = 1) :
    s.syncExpire p = ((s.countSat .PLC_SYNC_EXPIRED_COUNT p 1).setFlag .PLC_STATUS p 28).takeBoundary p r.window := by
  simp [syncExpire, hready, hmode]

/-- An edge inside the window of a ready step is not late (R390). -/
theorem syncLate_of_within {s : State} {p us : Nat} (hwithin : ∀ r, (s.part p).ready = some r → us ≤ r.window) :
    s.syncLate p us = s := by
  unfold syncLate
  cases hready : (s.part p).ready with
  | none => rfl
  | some r => exact if_neg (Nat.not_lt.mpr (hwithin r hready))

/-- The mode an edge finds in a partition: that of the ready step, or else the one in force since the last ready point
(R389). -/
def edgeMode (s : State) (p : Nat) : Nat := ((s.part p).ready.map (·.mode)).getD (bits (s.part p).sync 31 30)

theorem edgeMode_of_ready {s : State} {p : Nat} {r : Ready} (h : (s.part p).ready = some r) : s.edgeMode p = r.mode := by
  simp [edgeMode, h]

theorem edgeMode_of_not_ready {s : State} {p : Nat} (h : (s.part p).ready = none) :
    s.edgeMode p = bits (s.part p).sync 31 30 := by
  simp [edgeMode, h]

/-- What a rising edge `us` after the ready point does in one partition: the expiry of a window that ended before it, then
in MODE 1 the boundary of a ready step or else a counted early edge (R390). -/
def edgeIn (s : State) (p us : Nat) : State :=
  if s.edgeMode p ≠ 1 then s.syncLate p us
  else if ((s.syncLate p us).part p).ready.isSome then (s.syncLate p us).takeBoundary p us
  else ((s.syncLate p us).countSat .PLC_SYNC_EARLY_COUNT p 1).setFlag .PLC_STATUS p 29

/-- Folds of steps that agree everywhere agree. Core Lean has no such rule, and the package does not import Mathlib. -/
theorem foldl_eq_of_step_eq {f g : State → Nat → State} (h : ∀ u p, f u p = g u p) (ps : List Nat) (s : State) :
    ps.foldl f s = ps.foldl g s :=
  congrArg (fun step => ps.foldl step s) (funext fun u => funext (h u))

/-- The pin sampled low only shows in `LEVEL` (R394). -/
theorem syncEdge_low (s : State) (waited : List Nat) : s.syncEdge waited false = s.setFld .PLC_SYNC_RAW 0 0 0 0 := rfl

/-- A rising edge counts in `EDGES`, shows in `LEVEL` and then meets each partition in turn (R390, R394). -/
theorem syncEdge_rising (s : State) (waited : List Nat) :
    s.syncEdge waited true = (List.range 8).foldl (fun u p => u.edgeIn p (waited.getD p 0))
      ((s.setFld .PLC_SYNC_RAW 0 31 16 (s.fld .PLC_SYNC_RAW 0 31 16 + 1)).setFld .PLC_SYNC_RAW 0 0 0 1) := by
  unfold syncEdge
  rw [if_neg (by decide)]
  refine foldl_eq_of_step_eq (fun u p => ?_) _ _
  unfold edgeIn
  cases hready : (u.part p).ready with
  | none => rw [edgeMode_of_not_ready hready]
  | some r => rw [edgeMode_of_ready hready]

end State

/-! What each row answers. -/

theorem exec_stepReady (p : PartId) (met : Metrics) (s : State) : exec (.stepReady p met) s = .next (s.stepReady p met) := rfl

theorem exec_stepBoundary (p : PartId) (s : State) : exec (.stepBoundary p) s = .next (s.boundaryIn p 0 0) := rfl

theorem exec_stepSyncWindowExpire (p : PartId) (s : State) : exec (.stepSyncWindowExpire p) s = .next (s.syncExpire p) := rfl

theorem exec_stepBarrierDone (p : PartId) (us : Nat) (s : State) :
    exec (.stepBarrierDone p us) s = .next (s.boundaryIn p 2 us) := rfl

theorem exec_stepSyncEdge (waited : List Nat) (level : Bool) (s : State) :
    exec (.stepSyncEdge ⟨waited, level⟩) s = .next (s.syncEdge waited level) := rfl

theorem exec_stepBegin (p : PartId) (us : Nat) (s : State) : exec (.stepBegin p us) s = .next (s.stepBegin p us) := rfl

/-- Settles O25, row by row from what each does in the state its condition names. -/
theorem stepRowsComplete : Obligations.StepRowsComplete := by
  unfold Obligations.StepRowsComplete
  refine ⟨?ready, ?boundary, ?low, ?rising, ?begins⟩
  case ready =>
    intro p met s hrun hreef hnone hpass
    rw [exec_stepReady, State.stepReady_of_done met hrun hreef hnone hpass]
  case boundary =>
    intro p r us s hready
    refine ⟨fun hmode => ?_, fun hmode => ?_, fun hmode => ?_⟩
    · rw [exec_stepBoundary, State.boundaryIn_of_ready 0 hready hmode]
    · rw [exec_stepSyncWindowExpire, State.syncExpire_of_ready hready hmode]
    · rw [exec_stepBarrierDone, State.boundaryIn_of_ready us hready hmode]
  case low =>
    intro waited s
    rw [exec_stepSyncEdge, State.syncEdge_low]
  case rising =>
    intro waited s
    refine ⟨?_, fun p us => State.syncLate_of_within⟩
    rw [exec_stepSyncEdge, State.syncEdge_rising]
    exact congrArg Host.Outcome.next (State.foldl_eq_of_step_eq (fun _ _ => rfl) _ _)
  case begins =>
    intro p us s hhold hrun hbuf
    rw [exec_stepBegin, State.stepBegin_of_complete us hhold hrun hbuf]

end Sys2Proof.Machine

namespace Sys2Proof.Machine

/-! SUPPORT. Reef's rows: posts that land, the windows of the Reef Table and the Norm Watch Table, the overflow verdict, and
the loss scale at the end of a step (R62 to R94, R187, R427). -/

/-! What each row answers. -/

theorem exec_reefPost (c : ClId) (s : State) : exec (.reefPost c) s = .next (s.reefPost c) := rfl

theorem exec_reefDataWrite (c : ClId) (req : Req) (v : Word) (s : State) :
    exec (.reefDataWrite c req v) s = .next (s.reefDataWrite c req v) := rfl

theorem exec_reefDataRead (c : ClId) (req : Req) (s : State) : exec (.reefDataRead c req) s = .next (s.reefDataRead c req) := rfl

theorem exec_nwDataWrite (req : Req) (v : Word) (s : State) : exec (.nwDataWrite req v) s = .next (s.nwDataWrite req v) := rfl

theorem exec_nwDataRead (req : Req) (s : State) : exec (.nwDataRead req) s = .next (s.nwDataRead req) := rfl

theorem exec_overflowVerdict (p : PartId) (ovf req nf : Bool) (found : StepFacts) (s : State) :
    exec (.overflowVerdict p ovf req nf found) s = .next (s.overflowVerdict p ovf req nf found) := rfl

theorem exec_reefStepBoundary (p : PartId) (others : List TidSum) (s : State) :
    exec (.reefStepBoundary p others) s = .next (s.reefStepBoundary p others) := rfl

/-! The numbers of Reef. -/

/-- Words 0 to 23 of an entry have no reserved bits (R62). -/
theorem and_reefMask (v : Word) {k : Nat} (hk : k ≤ 23) : v &&& State.reefMask k = v := by
  rw [State.reefMask, if_pos hk]
  exact BitVec.and_allOnes

/-- The larger of two magnitudes (R65). -/
theorem toNat_reefMax {a b : Word} (ha : a.toNat ≤ 0x7F800000) (hb : b.toNat ≤ 0x7F800000) :
    (reefMax a b).toNat = max a.toNat b.toNat := by
  simp only [reefMax, ha, hb, decide_true, Bool.not_true, Bool.false_eq_true, if_false]
  split <;> omega

/-- A 32-bit word holds a count that saturates at 32 bits. -/
theorem toNat_ofNat_satAdd (a b : Nat) : (BitVec.ofNat 32 (satAdd 32 a b)).toNat = min (a + b) (2 ^ 32 - 1) := by
  rw [satAdd, BitVec.toNat_ofNat, Nat.mod_eq_of_lt (by omega)]

theorem sat16_lt (a b : Nat) : sat16 a b < 65536 := by
  unfold sat16 satAdd
  omega

theorem bits_halves {a b : Nat} (ha : a < 65536) (hb : b < 65536) :
    bits (BitVec.ofNat 32 (a * 65536 + b)) 31 16 = a ∧ bits (BitVec.ofNat 32 (a * 65536 + b)) 15 0 = b := by
  rw [bits_ofNat _ _ _ (by decide), bits_ofNat _ _ _ (by decide), Nat.shiftRight_eq_div_pow]
  simp only [Nat.shiftRight_zero]
  omega

namespace State

/-! The words of the Reef Table (R62). -/

theorem reefW_setReefW (s : State) (c e k e' k' : Nat) (v : Word) :
    (s.setReefW c e k v).reefW c e' k' = if 32 * e' + k' = 32 * e + k then v &&& reefMask k else s.reefW c e' k' := by
  simp [reefW, setReefW, SMap.get_set]

/-- A word without reserved bits reads as written. -/
theorem reefW_setReefW_same (s : State) (c e : Nat) {k : Nat} (v : Word) (hk : k ≤ 23) :
    (s.setReefW c e k v).reefW c e k = v := by
  rw [reefW_setReefW, if_pos rfl, and_reefMask v hk]

theorem reefW_congr {s t : State} {c : Nat} (h : (t.cluster c).reef = (s.cluster c).reef) (e k : Nat) :
    t.reefW c e k = s.reefW c e k := by
  rw [reefW, h, reefW]

@[simp] theorem setReefW_regs (s : State) (c e k : Nat) (v : Word) : (s.setReefW c e k v).regs = s.regs := rfl

@[simp] theorem setReefW_mem (s : State) (c e k : Nat) (v : Word) : (s.setReefW c e k v).mem = s.mem := rfl

@[simp] theorem setReefW_posts (s : State) (c e k : Nat) (v : Word) :
    ((s.setReefW c e k v).cluster c).posts = (s.cluster c).posts := by
  simp [setReefW]

/-! A post that lands (R65, R66, R82). -/

/-- The first post has left its cluster's list, and has not landed yet. -/
def takePost (s : State) (c : Nat) (xs : List RPost) : State := s.modCluster c fun y => { y with posts := xs }

theorem reefPost_of_waiting {s : State} {c : Nat} {x : RPost} {xs : List RPost} (h : (s.cluster c).posts = x :: xs) :
    s.reefPost c = (s.takePost c xs).landPost c x := by
  simp only [reefPost, h, takePost]

theorem posts_takePost (s : State) (c : Nat) (xs : List RPost) : ((s.takePost c xs).cluster c).posts = xs := by
  simp [takePost]

theorem reefW_takePost (s : State) (c : Nat) (xs : List RPost) (e k : Nat) : (s.takePost c xs).reefW c e k = s.reefW c e k :=
  reefW_congr (by simp [takePost]) e k

/-- What a post brings to an entry's step fields but `OVF` (R65, R66). -/
def mergePost (s : State) (c : Nat) (x : RPost) : State :=
  ((((s.setReefW c x.entry 16 (reefMax (s.reefW c x.entry 16) x.max)).setReefW c x.entry 17
    (BitVec.ofNat 32 (satAdd 32 (s.reefW c x.entry 17).toNat x.sat))).setReefW c x.entry 18
    (BitVec.ofNat 32 (satAdd 32 (s.reefW c x.entry 18).toNat x.van))).setReefW c x.entry 19
    (BitVec.ofNat 32 (sat16 (bits (s.reefW c x.entry 19) 31 16) x.sat * 65536
      + sat16 (bits (s.reefW c x.entry 19) 15 0) x.van))).setReefF c x.entry 21 26 26 1

/-- The entry after a post: merged, and `OVF` set by a non-finite element (R82). -/
def mergePostOvf (s : State) (c : Nat) (x : RPost) : State :=
  if x.ovf then (s.mergePost c x).setReefF c x.entry 21 30 30 1 else s.mergePost c x

/-- Beside the entry, a post of an update pass is remembered and reported, which no table word, register or byte shows. -/
theorem landPost_keeps (s : State) (c : Nat) (x : RPost) :
    ((s.landPost c x).cluster c).reef = ((s.mergePostOvf c x).cluster c).reef
      ∧ ((s.landPost c x).cluster c).posts = (s.cluster c).posts
      ∧ (s.landPost c x).regs = s.regs ∧ (s.landPost c x).mem = s.mem := by
  unfold landPost mergePostOvf mergePost setReefF
  cases x.ovf with
  | false => simp
  | true => cases x.update <;> simp

/-- Words that a post leaves: those of other entries, and of its own all but 16 to 19 and 21 (R65). -/
theorem reefW_mergePostOvf_of_other (s : State) (c : Nat) (x : RPost) {e k : Nat} (hk : k < 32)
    (h : e ≠ x.entry ∨ k ∉ [16, 17, 18, 19, 21]) : (s.mergePostOvf c x).reefW c e k = s.reefW c e k := by
  have hne : ∀ k' ∈ [16, 17, 18, 19, 21], 32 * e + k ≠ 32 * x.entry + k' := by
    intro k' hk' heq
    simp only [List.mem_cons, List.not_mem_nil, or_false] at h hk'
    omega
  simp only [List.forall_mem_cons] at hne
  obtain ⟨h16, h17, h18, h19, h21, -⟩ := hne
  unfold mergePostOvf mergePost setReefF
  cases x.ovf <;> simp [reefW_setReefW, h16, h17, h18, h19, h21]

/-- Words 16 to 19 of the entry of a post (R65, R66). -/
theorem reefW_mergePostOvf (s : State) (c : Nat) (x : RPost) :
    (s.mergePostOvf c x).reefW c x.entry 16 = reefMax (s.reefW c x.entry 16) x.max
      ∧ (s.mergePostOvf c x).reefW c x.entry 17 = BitVec.ofNat 32 (satAdd 32 (s.reefW c x.entry 17).toNat x.sat)
      ∧ (s.mergePostOvf c x).reefW c x.entry 18 = BitVec.ofNat 32 (satAdd 32 (s.reefW c x.entry 18).toNat x.van)
      ∧ (s.mergePostOvf c x).reefW c x.entry 19 = BitVec.ofNat 32
        (sat16 (bits (s.reefW c x.entry 19) 31 16) x.sat * 65536 + sat16 (bits (s.reefW c x.entry 19) 15 0) x.van) := by
  unfold mergePostOvf mergePost setReefF
  cases x.ovf <;> simp [reefW_setReefW, and_reefMask]

/-- `POSTED` and `OVF` of the entry of a post (R65, R82). -/
theorem flags_mergePostOvf (s : State) (c : Nat) (x : RPost) :
    bit ((s.mergePostOvf c x).reefW c x.entry 21) 26 = true
      ∧ (x.ovf = true → bit ((s.mergePostOvf c x).reefW c x.entry 21) 30 = true) := by
  unfold mergePostOvf mergePost setReefF
  cases x.ovf <;> simp [reefW_setReefW_same, bit_setBits]

/-! The windows of the two tables (R63, R94, R187). -/

theorem reefDataWrite_of_stopped {s : State} {c : Nat} {req : Req} (v : Word) (hreach : s.reaches req .CVT c 0x28 = true)
    (hstop : s.running c = false) :
    s.reefDataWrite c req v = (s.setReefW c (bits (s.sel req .CVT_REEF_SEL c) 14 5)
      (bits (s.sel req .CVT_REEF_SEL c) 4 0) v).advance req .CVT_REEF_SEL c 15 4 0 32 1 := by
  simp [reefDataWrite, hreach, hstop]

theorem reefDataWrite_of_running {s : State} {c : Nat} {req : Req} (v : Word) (hreach : s.reaches req .CVT c 0x28 = true)
    (hrun : s.running c = true) : s.reefDataWrite c req v = s.setFlag .CVT_REEF_STATUS c 31 := by
  simp [reefDataWrite, hreach, hrun]

theorem reefDataRead_of_reaches {s : State} {c : Nat} {req : Req} (hreach : s.reaches req .CVT c 0x28 = true) :
    s.reefDataRead c req = (s.emit (.readData (s.reefW c (bits (s.sel req .CVT_REEF_SEL c) 14 5)
      (bits (s.sel req .CVT_REEF_SEL c) 4 0)))).advance req .CVT_REEF_SEL c 15 4 0 32 1 := by
  rw [reefDataRead, if_pos hreach, reefData]

theorem nwDataWrite_of_stopped {s : State} {req : Req} (v : Word) (hreach : s.reaches req .TTL 0 0x120 = true)
    (hstop : s.anyRunning = false) :
    s.nwDataWrite req v = (s.nwLoad (bits (s.sel req .TTL_NW_SEL 0) 14 5 % 512)
      (bits (s.sel req .TTL_NW_SEL 0) 4 0) v).advance req .TTL_NW_SEL 0 15 4 0 8 1 := by
  simp [nwDataWrite, hreach, hstop]

theorem nwDataWrite_of_running {s : State} {req : Req} (v : Word) (hreach : s.reaches req .TTL 0 0x120 = true)
    (hrun : s.anyRunning = true) : s.nwDataWrite req v = s.setFlag .TTL_NUM_STATUS 0 26 := by
  simp [nwDataWrite, hreach, hrun]

theorem nwDataRead_of_reaches {s : State} {req : Req} (hreach : s.reaches req .TTL 0 0x120 = true) :
    s.nwDataRead req = (s.emit (.readData (s.nwData req))).advance req .TTL_NW_SEL 0 15 4 0 8 1 := by
  rw [nwDataRead, if_pos hreach]

/-! The verdict and the end of the step (R68, R76, R427). -/

/-- What the verdict leaves of a partition's step: the verdict, the request and the non-finite mark of R427, and the risk
latch spent where it asked. -/
def verdictMarks (s : State) (p : Nat) (v req nf : Bool) : State :=
  s.modPart p fun x => { x with
    verdict := some v, reqOr := s.asksEpoch p || req, nfOr := x.nf || nf, nf := false
    armed := x.armed && !(s.snapIdle && s.riskAsks p) }

/-- Some entry of a partition's clusters stands with `OVF` 1 (R76 order 1). -/
def entryOvf (s : State) (p : Nat) : Bool :=
  (s.partClusters p).any fun c => (s.cluster c).reef.any fun e => e.1 % 32 == 21 && bit e.2 30

theorem overflowVerdict_of_landed {s : State} {p : Nat} {v : Bool} (ovf req nf : Bool) (found : StepFacts)
    (hrun : s.stepping p = true) (hnone : (s.part p).verdict = none) (hland : s.postsLanded p = true)
    (hv : v = (ovf || (s.part p).gradNf || s.entryOvf p)) :
    s.overflowVerdict p ovf req nf found =
      (if v then (if s.asksEpoch p then (s.verdictMarks p v req nf).clrFlag .RES_SNAP_CMD 0 0 else s.verdictMarks p v req nf)
        else (if s.asksEpoch p then (s.verdictMarks p v req nf).clrFlag .RES_SNAP_CMD 0 0
          else s.verdictMarks p v req nf).selectOutliers p found.stats).holdNorms p v found.obs := by
  subst hv
  unfold overflowVerdict
  rw [if_pos (by simp [hrun, hnone, hland])]
  rfl

theorem reefStepBoundary_of_verdict {s : State} {p : Nat} {v : Bool} (others : List TidSum)
    (hverdict : (s.part p).verdict = some v) (hdone : (s.part p).reefDone = false) (hland : s.postsLanded p = true)
    (hpass : s.noUpass p = true) :
    s.reefStepBoundary p others = (s.reefBoundary p v others).modPart p fun x =>
      { x with reefDone := true, skips := if v then x.skips + 1 else x.skips } := by
  simp [reefStepBoundary, hverdict, hdone, hland, hpass]

/-! What a step's end leaves of the loss scale (R76 to R80). -/

/-- Registers that Reef's orders move besides those of the loss scale: its status flags, and what a write to memory counts. -/
def reefMoves : List Reg := [.CVT_REEF_STATUS, .RES_TOUCH_COUNT, .RES_TOUCH_STALL, .KVP_STATUS]

/-- Of what the end of a step reads, `t` differs from `s` only in the loss scale of clusters in `C`: their `CVT_LOSS_SCALE`
and `CVT_SKIP_COUNT`, their `SKIP_RUN` and `SKIP_LIMIT_EVENT`. No partition has counted a skipped step. -/
structure OnlyScale (C : Nat → Prop) (s t : State) : Prop where
  rd : ∀ r i, r ∉ reefMoves → (r ∈ [.CVT_LOSS_SCALE, .CVT_SKIP_COUNT] → ¬ C i) → t.rd r i = s.rd r i
  skipRun : ∀ c, ¬ C c → t.fld .CVT_REEF_STATUS c 7 0 = s.fld .CVT_REEF_STATUS c 7 0
  skipEvent : ∀ c, ¬ C c → t.flag .CVT_REEF_STATUS c 27 = s.flag .CVT_REEF_STATUS c 27
  skips : ∀ p, (t.part p).skips = (s.part p).skips

namespace OnlyScale

variable {C : Nat → Prop}

theorem refl (s : State) : OnlyScale C s s := ⟨fun _ _ _ _ => rfl, fun _ _ => rfl, fun _ _ => rfl, fun _ => rfl⟩

theorem trans {s t u : State} (h : OnlyScale C s t) (g : OnlyScale C t u) : OnlyScale C s u where
  rd r i hr hi := (g.rd r i hr hi).trans (h.rd r i hr hi)
  skipRun c hc := (g.skipRun c hc).trans (h.skipRun c hc)
  skipEvent c hc := (g.skipEvent c hc).trans (h.skipEvent c hc)
  skips p := (g.skips p).trans (h.skips p)

theorem foldl {α : Type} {f : State → α → State} (xs : List α) (h : ∀ s, ∀ x ∈ xs, OnlyScale C s (f s x)) (s : State) :
    OnlyScale C s (xs.foldl f s) := by
  induction xs generalizing s with
  | nil => exact refl s
  | cons x xs ih =>
    exact (h s x List.mem_cons_self).trans (ih (fun t y hy => h t y (List.mem_cons_of_mem _ hy)) (f s x))

/-- A register of a cluster whose loss scale has not moved. -/
theorem rd_apart {s t : State} {c : Nat} (h : OnlyScale (· ≠ c) s t) {r : Reg} (hr : r ∉ reefMoves) : t.rd r c = s.rd r c :=
  h.rd r c hr fun _ hc => hc rfl

theorem fld_apart {s t : State} {c : Nat} (h : OnlyScale (· ≠ c) s t) {r : Reg} (hr : r ∉ reefMoves) (hi lo : Nat) :
    t.fld r c hi lo = s.fld r c hi lo := congrArg (bits · hi lo) (h.rd_apart hr)

theorem skipRun_apart {s t : State} {c : Nat} (h : OnlyScale (· ≠ c) s t) :
    t.fld .CVT_REEF_STATUS c 7 0 = s.fld .CVT_REEF_STATUS c 7 0 := h.skipRun c fun hc => hc rfl

theorem skipEvent_apart {s t : State} {c : Nat} (h : OnlyScale (· ≠ c) s t) :
    t.flag .CVT_REEF_STATUS c 27 = s.flag .CVT_REEF_STATUS c 27 := h.skipEvent c fun hc => hc rfl

/-- A register that is none of the loss scale's. -/
theorem rd_other {s t : State} (h : OnlyScale C s t) {r : Reg} (i : Nat) (hr : r ∉ reefMoves)
    (hscale : r ∉ [.CVT_LOSS_SCALE, .CVT_SKIP_COUNT]) : t.rd r i = s.rd r i :=
  h.rd r i hr fun hm => absurd hm hscale

theorem partClusters {s t : State} (h : OnlyScale C s t) (p : Nat) : t.partClusters p = s.partClusters p := by
  rw [State.partClusters, h.rd_other p (by decide) (by decide), State.partClusters]

theorem jobState {s t : State} (h : OnlyScale C s t) (p : Nat) : t.jobState p = s.jobState p :=
  congrArg (bits · 3 0) (h.rd_other p (by decide) (by decide))

/-- An update of other parts of the state. -/
theorem of_eq {s t : State} (hregs : t.regs = s.regs) (hparts : t.parts = s.parts) : OnlyScale C s t where
  rd r i _ _ := rd_congr hregs r i
  skipRun c _ := congrArg (bits · 7 0) (rd_congr hregs _ c)
  skipEvent c _ := congrArg (bit · 27) (rd_congr hregs _ c)
  skips p := by simp [part, hparts]

theorem setReefW (s : State) (c e k : Nat) (v : Word) : OnlyScale C s (s.setReefW c e k v) := of_eq rfl rfl

theorem setReefF (s : State) (c e k hi lo v : Nat) : OnlyScale C s (s.setReefF c e k hi lo v) := setReefW ..

theorem modCluster (s : State) (c : Nat) (f : Cluster → Cluster) : OnlyScale C s (s.modCluster c f) := of_eq rfl rfl

theorem post (s : State) (d : Nat) (code : TCode) (a b : Word) : OnlyScale C s (s.post d code a b) := of_eq rfl rfl

theorem modPart (s : State) (p : Nat) {f : Part → Part} (h : ∀ x, (f x).skips = x.skips) : OnlyScale C s (s.modPart p f) where
  rd _ _ _ _ := rfl
  skipRun _ _ := rfl
  skipEvent _ _ := rfl
  skips q := by
    rw [part_modPart]
    split
    · next hq => rw [h, hq]
    · rfl

/-- The flags above `SKIP_LIMIT_EVENT` report clamps and thresholds (R94). -/
theorem setFlag (s : State) (c : Nat) {b : Nat} (hb : 27 < b) : OnlyScale C s (s.setFlag .CVT_REEF_STATUS c b) where
  rd r i hr _ := by
    have hne : Reg.CVT_REEF_STATUS ≠ r := fun e => hr (e ▸ List.mem_cons_self)
    simp [hne]
  skipRun d _ := by
    rw [fld, rd_setFlag]
    split
    · next hd => rw [bits_setBit_disj _ _ _ _ (.inr (by omega)), fld, hd.2]
    · rfl
  skipEvent d _ := by
    rw [flag, rd_setFlag]
    split
    · next hd => rw [bit_setBit _ _ _ (by decide), if_neg (by omega), flag, hd.2]
    · rfl
  skips _ := rfl

/-- A write of the loss scale of a cluster in `C`. -/
theorem wr (s : State) {r : Reg} {c : Nat} (v : Word) (hc : C c)
    (hr : r ∈ [.CVT_LOSS_SCALE, .CVT_SKIP_COUNT, .CVT_REEF_STATUS]) :
    OnlyScale C s (s.wr r c v) where
  rd r' i hr' hi := by
    rw [rd_wr, if_neg]
    rintro ⟨rfl, rfl⟩
    simp only [List.mem_cons, List.not_mem_nil, or_false] at hr
    obtain rfl | rfl | rfl := hr
    · exact hi (by decide) hc
    · exact hi (by decide) hc
    · exact hr' (by decide)
  skipRun d hd := by
    have hne : c ≠ d := fun h => hd (h ▸ hc)
    simp [fld, hne]
  skipEvent d hd := by
    have hne : c ≠ d := fun h => hd (h ▸ hc)
    simp [flag, hne]
  skips _ := rfl

theorem store (s : State) (a : Nat) (bs : List Byte) : OnlyScale C s (s.store a bs) where
  rd r i hr _ := store_rd s a bs i fun h => hr (List.mem_cons_of_mem _ h)
  skipRun c _ := congrArg (bits · 7 0) (store_rd s a bs c (by decide))
  skipEvent c _ := congrArg (bit · 27) (store_rd s a bs c (by decide))
  skips p := by
    obtain ⟨-, -, hparts, -⟩ := store_keeps s a bs
    simp [part, hparts]

/-- A choice between two updates. -/
theorem ite {s t u : State} {P : Prop} [Decidable P] (ht : P → OnlyScale C s t) (hu : ¬ P → OnlyScale C s u) :
    OnlyScale C s (if P then t else u) := by
  split
  · next h => exact ht h
  · next h => exact hu h

theorem putBase (s : State) (c e : Nat) (b : Int) : OnlyScale C s (s.putBase c e b) :=
  ite (fun _ => setReefF ..) fun _ => ((setReefF ..).trans (setFlag _ c (by decide))).trans (post ..)

theorem followScale (s : State) (c e : Nat) (d : Int) : OnlyScale C s (s.followScale c e d) :=
  (putBase ..).trans (foldl _ (fun _ _ _ => setReefW ..) _)

theorem combineTids (s : State) (p : Nat) (others : List TidSum) : OnlyScale C s (s.combineTids p others) :=
  foldl _ (fun _ _ _ => (((setReefW ..).trans (setReefW ..)).trans (setReefF ..)).trans (setReefF ..)) _

/-- Order 5 of R76. -/
theorem entryBoundary (s : State) (p c e : Nat) : OnlyScale C s (s.entryBoundary p c e) := by
  unfold State.entryBoundary
  extract_lets w21 n stored moved pushed sat van old ovr based saturated vanished
  have hpush : OnlyScale C s pushed := ite (fun _ => ((setReefW ..).trans (setReefF ..)).trans (setReefF ..)) fun _ => refl _
  have hbase : OnlyScale C pushed based := by
    subst based
    split
    · exact refl _
    · exact putBase ..
    · exact putBase ..
    · exact putBase ..
  have hsat : OnlyScale C based saturated :=
    ite (fun _ => ((setFlag _ c (by decide)).trans (post ..)).trans (modPart _ p fun _ => rfl)) fun _ => refl _
  have hvan : OnlyScale C saturated vanished :=
    ite (fun _ => ((setFlag _ c (by decide)).trans (post ..)).trans (modPart _ p fun _ => rfl)) fun _ => refl _
  have hcalib := ite (C := C) (P := bit (vanished.reefW c e 21) 29 = true ∧ n ≤ bits (vanished.reefW c e 21) 19 15)
    (fun _ => setReefF vanished c e 21 29 29 0) fun _ => refl vanished
  exact (((hpush.trans hbase).trans hsat).trans hvan).trans hcalib

theorem clearStep (s : State) (c e : Nat) (keep : Bool) : OnlyScale C s (s.clearStep c e keep) :=
  ((setReefW ..).trans (setReefW ..)).trans (setReefW ..)

theorem clearStats (s : State) (c : Nat) (tensors : List (Word × Nat)) : OnlyScale C s (s.clearStats c tensors) := by
  refine foldl _ (fun s e _ => ?_) _
  split
  · exact refl _
  · exact store ..

/-- Order 7 of R76. -/
theorem clearSteps (s : State) (c : Nat) (tensors : List (Word × Nat)) : OnlyScale C s (s.clearSteps c tensors) := by
  unfold State.clearSteps
  have hsteps := foldl (C := C) (s.usedEntries c) (fun t e _ => clearStep t c e ((s.cluster c).ovfKeep.contains e)) s
  exact (hsteps.trans (clearStats ..)).trans (modCluster ..)

end OnlyScale

/-- Order 6 of R76 in a cluster after an overflow verdict, but for `EXP` (R78, R92). -/
def skipCounted (s : State) (c : Nat) : State :=
  let run := min 255 (s.fld .CVT_REEF_STATUS c 7 0 + 1)
  let lim := s.fld .CVT_REEF_CTRL c 31 24
  let t := ((s.setFld .CVT_LOSS_SCALE c 31 16 0).countSat .CVT_SKIP_COUNT c 1).setFld .CVT_REEF_STATUS c 7 0 run
  if decide (lim ≠ 0) && decide (run = lim) && decide (s.fld .CVT_REEF_STATUS c 7 0 ≠ run) then
    (t.setFlag .CVT_REEF_STATUS c 27).post (dieOfCl c) .skipRunLimit 0 (BitVec.ofNat 32 run)
  else t

/-- Order 6 of R76 in a cluster after a clean verdict, but for `EXP`: `CLEAN` is `n` (R79). -/
def cleanCounted (s : State) (c n : Nat) : State := (s.setFld .CVT_REEF_STATUS c 7 0 0).setFld .CVT_LOSS_SCALE c 31 16 n

/-- `EXP` of a cluster goes from `e` to `e'`, and the entries with `LS` 1 follow it (R80). -/
def expTo (s : State) (c e e' : Nat) : State :=
  let t := s.setFld .CVT_LOSS_SCALE c 7 0 e'
  if e' = e then t
  else ((t.reefEntries c).filter fun x => bit (t.reefW c x 21) 28).foldl (fun t x => t.followScale c x ((e' : Int) - e)) t

theorem lossScale_overflow (s : State) (c : Nat) :
    s.lossScale c true = (s.skipCounted c).expTo c (s.fld .CVT_LOSS_SCALE c 7 0)
      (if (s.skipCounted c).fld .CVT_LS_CTRL c 7 0 < s.fld .CVT_LOSS_SCALE c 7 0 then s.fld .CVT_LOSS_SCALE c 7 0 - 1
        else s.fld .CVT_LOSS_SCALE c 7 0) := rfl

theorem fld_cleared_ctrl (s : State) (c hi lo : Nat) :
    (s.setFld .CVT_REEF_STATUS c 7 0 0).fld .CVT_LS_CTRL c hi lo = s.fld .CVT_LS_CTRL c hi lo := by
  simp [fld]

/-- A clean step that ends an interval raises `EXP` and counts anew (R79). -/
theorem lossScale_grow {s : State} {c : Nat} (hon : s.fld .CVT_LS_CTRL c 31 16 ≠ 0)
    (hfull : s.fld .CVT_LS_CTRL c 31 16 ≤ satAdd 16 (s.fld .CVT_LOSS_SCALE c 31 16) 1) :
    s.lossScale c false = (s.cleanCounted c 0).expTo c (s.fld .CVT_LOSS_SCALE c 7 0)
      (if s.fld .CVT_LOSS_SCALE c 7 0 < s.fld .CVT_LS_CTRL c 15 8 then s.fld .CVT_LOSS_SCALE c 7 0 + 1
        else s.fld .CVT_LOSS_SCALE c 7 0) := by
  simp only [lossScale, Bool.false_eq_true, if_false, fld_cleared_ctrl, hon, hfull, ne_eq, not_false_eq_true, and_self, if_true]
  rfl

/-- Any other clean step only counts (R79). -/
theorem lossScale_count {s : State} {c : Nat} (h : s.fld .CVT_LS_CTRL c 31 16 = 0
    ∨ satAdd 16 (s.fld .CVT_LOSS_SCALE c 31 16) 1 < s.fld .CVT_LS_CTRL c 31 16) :
    s.lossScale c false = (s.cleanCounted c (satAdd 16 (s.fld .CVT_LOSS_SCALE c 31 16) 1)).expTo c
      (s.fld .CVT_LOSS_SCALE c 7 0) (s.fld .CVT_LOSS_SCALE c 7 0) := by
  have hnot : ¬ (s.fld .CVT_LS_CTRL c 31 16 ≠ 0
      ∧ s.fld .CVT_LS_CTRL c 31 16 ≤ satAdd 16 (s.fld .CVT_LOSS_SCALE c 31 16) 1) := by omega
  simp only [lossScale, expTo, Bool.false_eq_true, if_false, fld_cleared_ctrl, hnot, if_true]
  rfl

namespace OnlyScale

variable {C : Nat → Prop}

theorem skipCounted (s : State) {c : Nat} (hc : C c) : OnlyScale C s (s.skipCounted c) := by
  unfold State.skipCounted
  extract_lets run lim t
  have hcount : OnlyScale C s t :=
    ((wr _ _ hc (by decide)).trans (wr _ _ hc (by decide))).trans (wr _ _ hc (by decide))
  exact ite (fun _ => (hcount.trans (wr _ _ hc (by decide))).trans (post ..)) fun _ => hcount

theorem cleanCounted (s : State) {c : Nat} (n : Nat) (hc : C c) : OnlyScale C s (s.cleanCounted c n) :=
  (wr _ _ hc (by decide)).trans (wr _ _ hc (by decide))

/-- The entries that follow `EXP` leave the loss scale. -/
theorem setFld_expTo (s : State) (c e e' : Nat) : OnlyScale C (s.setFld .CVT_LOSS_SCALE c 7 0 e') (s.expTo c e e') :=
  ite (fun _ => refl _) fun _ => foldl _ (fun _ _ _ => followScale ..) _

theorem expTo (s : State) {c : Nat} (e e' : Nat) (hc : C c) : OnlyScale C s (s.expTo c e e') :=
  (wr s _ hc (by decide)).trans (setFld_expTo s c e e')

/-- Order 6 of R76 moves the loss scale of its own cluster. -/
theorem lossScale (s : State) {c : Nat} (v : Bool) (hc : C c) : OnlyScale C s (s.lossScale c v) := by
  cases v with
  | true => rw [lossScale_overflow]; exact (skipCounted s hc).trans (expTo _ _ _ hc)
  | false =>
    by_cases h : s.fld .CVT_LS_CTRL c 31 16 = 0 ∨ satAdd 16 (s.fld .CVT_LOSS_SCALE c 31 16) 1 < s.fld .CVT_LS_CTRL c 31 16
    · rw [lossScale_count h]; exact (cleanCounted s _ hc).trans (expTo _ _ _ hc)
    · rw [not_or, Nat.not_lt] at h
      rw [lossScale_grow h.1 h.2]; exact (cleanCounted s _ hc).trans (expTo _ _ _ hc)

end OnlyScale

/-! The loss scale of a cluster after order 6. -/

theorem fld_expTo_exp (s : State) (c e : Nat) {e' : Nat} (he : e' < 256) : (s.expTo c e e').fld .CVT_LOSS_SCALE c 7 0 = e' := by
  rw [(OnlyScale.setFld_expTo s c e e').fld_apart (by decide)]
  simp [fld, Nat.mod_eq_of_lt he]

theorem fld_expTo_clean (s : State) (c e e' : Nat) :
    (s.expTo c e e').fld .CVT_LOSS_SCALE c 31 16 = s.fld .CVT_LOSS_SCALE c 31 16 := by
  rw [(OnlyScale.setFld_expTo s c e e').fld_apart (by decide)]
  simp [fld, bits_setBits_disj]

theorem rd_expTo_skipCount (s : State) (c e e' : Nat) : (s.expTo c e e').rd .CVT_SKIP_COUNT c = s.rd .CVT_SKIP_COUNT c := by
  rw [(OnlyScale.setFld_expTo s c e e').rd_apart (by decide)]
  simp

theorem fld_expTo_skipRun (s : State) (c e e' : Nat) :
    (s.expTo c e e').fld .CVT_REEF_STATUS c 7 0 = s.fld .CVT_REEF_STATUS c 7 0 := by
  rw [(OnlyScale.setFld_expTo s c e e').skipRun_apart]
  simp [fld]

theorem flag_expTo_skipEvent (s : State) (c e e' : Nat) :
    (s.expTo c e e').flag .CVT_REEF_STATUS c 27 = s.flag .CVT_REEF_STATUS c 27 := by
  rw [(OnlyScale.setFld_expTo s c e e').skipEvent_apart]
  simp [flag]

theorem fld_skipCounted_ctrl (s : State) (c hi lo : Nat) :
    (s.skipCounted c).fld .CVT_LS_CTRL c hi lo = s.fld .CVT_LS_CTRL c hi lo := by
  unfold skipCounted
  dsimp only
  split <;> simp [fld]

theorem fld_skipCounted_clean (s : State) (c : Nat) : (s.skipCounted c).fld .CVT_LOSS_SCALE c 31 16 = 0 := by
  unfold skipCounted
  dsimp only
  split <;> simp [fld]

theorem rd_skipCounted_skipCount (s : State) (c : Nat) :
    (s.skipCounted c).rd .CVT_SKIP_COUNT c = BitVec.ofNat 32 (satAdd 32 (s.rd .CVT_SKIP_COUNT c).toNat 1) := by
  unfold skipCounted
  dsimp only
  split <;> simp

theorem fld_skipCounted_skipRun (s : State) (c : Nat) :
    (s.skipCounted c).fld .CVT_REEF_STATUS c 7 0 = min 255 (s.fld .CVT_REEF_STATUS c 7 0 + 1) := by
  have hrun : min 255 (s.fld .CVT_REEF_STATUS c 7 0 + 1) < 256 := by omega
  unfold skipCounted
  dsimp only
  generalize min 255 (s.fld .CVT_REEF_STATUS c 7 0 + 1) = run at hrun ⊢
  split <;> simp [fld, bits_setBit_disj, Nat.mod_eq_of_lt hrun]

/-- A skip that brings `SKIP_RUN` to a `SKIP_LIMIT` other than 0 sets `SKIP_LIMIT_EVENT` (R92). -/
theorem flag_skipCounted_event {s : State} {c : Nat} (hon : s.fld .CVT_REEF_CTRL c 31 24 ≠ 0)
    (hreach : s.fld .CVT_REEF_STATUS c 7 0 + 1 = s.fld .CVT_REEF_CTRL c 31 24) :
    (s.skipCounted c).flag .CVT_REEF_STATUS c 27 = true := by
  have hlim : s.fld .CVT_REEF_CTRL c 31 24 < 256 := bits_lt ..
  have hhit : min 255 (s.fld .CVT_REEF_STATUS c 7 0 + 1) = s.fld .CVT_REEF_CTRL c 31 24
      ∧ s.fld .CVT_REEF_STATUS c 7 0 ≠ min 255 (s.fld .CVT_REEF_STATUS c 7 0 + 1) := by omega
  unfold skipCounted
  rw [if_pos (by simp only [Bool.and_eq_true, decide_eq_true_eq]; exact ⟨⟨hon, hhit.1⟩, hhit.2⟩)]
  simp [flag]

theorem fld_cleanCounted_skipRun (s : State) (c n : Nat) : (s.cleanCounted c n).fld .CVT_REEF_STATUS c 7 0 = 0 := by
  simp [cleanCounted, fld]

theorem fld_cleanCounted_clean (s : State) (c : Nat) {n : Nat} (hn : n < 65536) :
    (s.cleanCounted c n).fld .CVT_LOSS_SCALE c 31 16 = n := by
  simp [cleanCounted, fld, Nat.mod_eq_of_lt hn]

/-- What an overflow verdict makes of a cluster's loss scale: `s` before order 6, `t` after it (R78, R92). -/
structure ScaleLowered (c : Nat) (s t : State) : Prop where
  exp : t.fld .CVT_LOSS_SCALE c 7 0 = if s.fld .CVT_LS_CTRL c 7 0 < s.fld .CVT_LOSS_SCALE c 7 0
    then s.fld .CVT_LOSS_SCALE c 7 0 - 1 else s.fld .CVT_LOSS_SCALE c 7 0
  clean : t.fld .CVT_LOSS_SCALE c 31 16 = 0
  skipCount : (t.rd .CVT_SKIP_COUNT c).toNat = min ((s.rd .CVT_SKIP_COUNT c).toNat + 1) (2 ^ 32 - 1)
  skipRun : t.fld .CVT_REEF_STATUS c 7 0 = min 255 (s.fld .CVT_REEF_STATUS c 7 0 + 1)
  skipEvent : s.fld .CVT_REEF_CTRL c 31 24 ≠ 0 → s.fld .CVT_REEF_STATUS c 7 0 + 1 = s.fld .CVT_REEF_CTRL c 31 24 →
    t.flag .CVT_REEF_STATUS c 27 = true

theorem scaleLowered_lossScale (s : State) (c : Nat) : ScaleLowered c s (s.lossScale c true) := by
  have hexp : s.fld .CVT_LOSS_SCALE c 7 0 < 256 := bits_lt ..
  rw [lossScale_overflow, fld_skipCounted_ctrl]
  constructor
  case exp => exact fld_expTo_exp _ _ _ (by split <;> omega)
  case clean => rw [fld_expTo_clean, fld_skipCounted_clean]
  case skipCount => rw [rd_expTo_skipCount, rd_skipCounted_skipCount, toNat_ofNat_satAdd]
  case skipRun => rw [fld_expTo_skipRun, fld_skipCounted_skipRun]
  case skipEvent => exact fun hon hreach => (flag_expTo_skipEvent ..).trans (flag_skipCounted_event hon hreach)

/-- What a clean verdict makes of a cluster's loss scale: `s` before order 6, `t` after it (R79). -/
structure ScaleGrown (c : Nat) (s t : State) : Prop where
  skipRun : t.fld .CVT_REEF_STATUS c 7 0 = 0
  grow : s.fld .CVT_LS_CTRL c 31 16 ≠ 0 → s.fld .CVT_LS_CTRL c 31 16 ≤ satAdd 16 (s.fld .CVT_LOSS_SCALE c 31 16) 1 →
    t.fld .CVT_LOSS_SCALE c 31 16 = 0 ∧ t.fld .CVT_LOSS_SCALE c 7 0
      = if s.fld .CVT_LOSS_SCALE c 7 0 < s.fld .CVT_LS_CTRL c 15 8 then s.fld .CVT_LOSS_SCALE c 7 0 + 1
        else s.fld .CVT_LOSS_SCALE c 7 0
  count : s.fld .CVT_LS_CTRL c 31 16 = 0 ∨ satAdd 16 (s.fld .CVT_LOSS_SCALE c 31 16) 1 < s.fld .CVT_LS_CTRL c 31 16 →
    t.fld .CVT_LOSS_SCALE c 31 16 = satAdd 16 (s.fld .CVT_LOSS_SCALE c 31 16) 1
      ∧ t.fld .CVT_LOSS_SCALE c 7 0 = s.fld .CVT_LOSS_SCALE c 7 0

theorem scaleGrown_lossScale (s : State) (c : Nat) : ScaleGrown c s (s.lossScale c false) := by
  have hexp : s.fld .CVT_LOSS_SCALE c 7 0 < 256 := bits_lt ..
  have hmax : s.fld .CVT_LS_CTRL c 15 8 < 256 := bits_lt ..
  have hsat : satAdd 16 (s.fld .CVT_LOSS_SCALE c 31 16) 1 < 65536 := sat16_lt ..
  by_cases h : s.fld .CVT_LS_CTRL c 31 16 = 0 ∨ satAdd 16 (s.fld .CVT_LOSS_SCALE c 31 16) 1 < s.fld .CVT_LS_CTRL c 31 16
  · rw [lossScale_count h]
    constructor
    case skipRun => rw [fld_expTo_skipRun, fld_cleanCounted_skipRun]
    case grow => exact fun hon hfull => absurd h (by omega)
    case count => exact fun _ => ⟨by rw [fld_expTo_clean, fld_cleanCounted_clean s c hsat], fld_expTo_exp _ _ _ hexp⟩
  · rw [lossScale_grow (by omega) (by omega)]
    constructor
    case skipRun => rw [fld_expTo_skipRun, fld_cleanCounted_skipRun]
    case grow =>
      exact fun _ _ => ⟨by rw [fld_expTo_clean, fld_cleanCounted_clean s c (by decide)],
        fld_expTo_exp _ _ _ (by split <;> omega)⟩
    case count => exact fun hcount => absurd hcount h

/-! Orders 4 to 7 in a partition (R76). -/

/-- Orders 4 and 5 of R76. -/
def entriesBounded (s : State) (p : Nat) (others : List TidSum) : State :=
  ((s.combineTids p others).jobEntries p).foldl (fun t x => t.entryBoundary p x.1 x.2) (s.combineTids p others)

theorem OnlyScale.entriesBounded {C : Nat → Prop} (s : State) (p : Nat) (others : List TidSum) :
    OnlyScale C s (s.entriesBounded p others) :=
  (OnlyScale.combineTids s p others).trans (.foldl _ (fun t x _ => .entryBoundary t p x.1 x.2) _)

/-- Order 6 over clusters that are all different: each meets its own loss scale as it was. -/
theorem foldl_lossScale_apart (v : Bool) {c : Nat} {cs : List Nat} (hcs : cs.Nodup) (hc : c ∈ cs) (s : State) :
    ∃ u, OnlyScale (· ≠ c) s u ∧ OnlyScale (· ≠ c) (u.lossScale c v) (cs.foldl (fun t d => t.lossScale d v) s) := by
  obtain ⟨xs, ys, rfl⟩ := List.append_of_mem hc
  obtain ⟨-, hys, hne⟩ := List.nodup_append.mp hcs
  rw [List.foldl_append, List.foldl_cons]
  refine ⟨_, .foldl xs (fun t d hd => .lossScale t v ?_) s, .foldl ys (fun t d hd => .lossScale t v ?_) _⟩
  · exact hne d hd c List.mem_cons_self
  · rintro rfl
    exact (List.nodup_cons.mp hys).1 hd

theorem nodup_partClusters (s : State) (p : Nat) : (s.partClusters p).Nodup := List.nodup_range.filter _

/-- What orders 4 and 5 leave of the loss scale, order 6 changes, and order 7 leaves that. -/
theorem reefBoundary_apart {s : State} {p c : Nat} (v : Bool) (others : List TidSum) (hc : c ∈ s.partClusters p) :
    ∃ u, OnlyScale (· ≠ c) s u ∧ OnlyScale (· ≠ c) (u.lossScale c v) (s.reefBoundary p v others) := by
  unfold reefBoundary
  extract_lets tensors combined bounded scaled
  have hbounded : OnlyScale (· ≠ c) s bounded := .entriesBounded s p others
  rw [← hbounded.partClusters p] at hc
  obtain ⟨u, hu, hscaled⟩ := foldl_lossScale_apart v (bounded.nodup_partClusters p) hc bounded
  exact ⟨u, hbounded.trans hu, hscaled.trans (.foldl _ (fun t d _ => .clearSteps t d tensors) _)⟩

/-- The orders leave everything else that the end of a step reads. -/
theorem onlyScale_reefBoundary (s : State) (p : Nat) (v : Bool) (others : List TidSum) :
    OnlyScale (fun _ => True) s (s.reefBoundary p v others) := by
  unfold reefBoundary
  extract_lets tensors combined bounded scaled
  have hbounded : OnlyScale (fun _ => True) s bounded := .entriesBounded s p others
  have hscaled : OnlyScale (fun _ => True) bounded scaled := .foldl _ (fun t d _ => .lossScale t v trivial) _
  exact (hbounded.trans hscaled).trans (.foldl _ (fun t d _ => .clearSteps t d tensors) _)

end State

/-- Settles O21, window by window from what each does in the state its condition names. -/
theorem tableWindowsFollowTheContext : Obligations.TableWindowsFollowTheContext := by
  unfold Obligations.TableWindowsFollowTheContext
  refine ⟨?reefWrite, ?reefRefused, ?reefRead, ?normWrite, ?normRefused, ?normRead⟩
  case reefWrite =>
    intro c req v s hreach hstop
    rw [exec_reefDataWrite, State.reefDataWrite_of_stopped v hreach hstop]
  case reefRefused =>
    intro c req v s hreach hrun
    rw [exec_reefDataWrite, State.reefDataWrite_of_running v hreach hrun]
  case reefRead =>
    intro c req s hreach
    rw [exec_reefDataRead, State.reefDataRead_of_reaches hreach]
  case normWrite =>
    intro req v s hreach hstop
    rw [exec_nwDataWrite, State.nwDataWrite_of_stopped v hreach hstop]
  case normRefused =>
    intro req v s hreach hrun
    rw [exec_nwDataWrite, State.nwDataWrite_of_running v hreach hrun]
  case normRead =>
    intro req s hreach
    rw [exec_nwDataRead, State.nwDataRead_of_reaches hreach]

/-- Settles O24: the verdict is formed from the three sources, and Reef's orders follow it once. -/
theorem reefAndVerdictRowsComplete : Obligations.ReefAndVerdictRowsComplete := by
  unfold Obligations.ReefAndVerdictRowsComplete
  refine ⟨?verdict, ?boundary⟩
  case verdict =>
    intro p ovf req nf stats obs s hrun hnone hland v hv t ht u hu
    subst hu ht
    exact congrArg Host.Outcome.next (State.overflowVerdict_of_landed ovf req nf ⟨stats, obs⟩ hrun hnone hland hv)
  case boundary =>
    intro p others v s hverdict hdone hland hpass
    rw [exec_reefStepBoundary, State.reefStepBoundary_of_verdict others hverdict hdone hland hpass]

/-- Settles O20, from what the post leaves of its entry's words. -/
theorem reefPostMergesOnePost : Obligations.ReefPostMergesOnePost := by
  unfold Obligations.ReefPostMergesOnePost
  intro c x xs s hposts
  have hold := s.reefW_takePost c xs
  obtain ⟨hreef, hrest, hregs, hmem⟩ := (s.takePost c xs).landPost_keeps c x
  have hword := State.reefW_congr hreef
  obtain ⟨h16, h17, h18, h19⟩ := (s.takePost c xs).reefW_mergePostOvf c x
  obtain ⟨hsat, hvan⟩ := bits_halves (a := sat16 (bits (s.reefW c x.entry 19) 31 16) x.sat)
    (b := sat16 (bits (s.reefW c x.entry 19) 15 0) x.van) (sat16_lt ..) (sat16_lt ..)
  refine ⟨_, by rw [exec_reefPost, State.reefPost_of_waiting hposts], by rw [hrest, State.posts_takePost], ?_⟩
  simp only [hword, h16, h17, h18, h19, hold, toNat_ofNat_satAdd, hsat, hvan]
  refine ⟨toNat_reefMax, trivial, trivial, rfl, rfl, ?_⟩
  obtain ⟨hposted, hovf⟩ := (s.takePost c xs).flags_mergePostOvf c x
  refine ⟨hposted, hovf, fun e k hk hother => ?_, hregs, hmem⟩
  rw [State.reefW_mergePostOvf_of_other _ c x hk hother, hold]

/-- Settles O23: the orders leave the step and the job as they were but for the skip, and each cluster meets its own loss
scale as it was. -/
theorem overflowStepsLowerTheLossScale : Obligations.OverflowStepsLowerTheLossScale := by
  unfold Obligations.OverflowStepsLowerTheLossScale
  intro p others s hverdict hdone hland hpass
  have hall := s.onlyScale_reefBoundary p true others
  refine ⟨_, by rw [exec_reefStepBoundary, State.reefStepBoundary_of_verdict others hverdict hdone hland hpass], ?_, ?_, ?_⟩
  · simp [hall.skips]
  · exact hall.jobState p
  · rintro c hc e run lim rfl rfl rfl
    obtain ⟨u, hu, ht⟩ := State.reefBoundary_apart true others hc
    obtain ⟨hexp, hclean, hcount, hrun, hevent⟩ := u.scaleLowered_lossScale c
    simp only [hu.fld_apart (r := .CVT_LOSS_SCALE) (by decide), hu.fld_apart (r := .CVT_LS_CTRL) (by decide),
      hu.fld_apart (r := .CVT_REEF_CTRL) (by decide), hu.rd_apart (r := .CVT_SKIP_COUNT) (by decide), hu.skipRun_apart]
      at hexp hcount hrun hevent
    simp only [State.fld_modPart, State.rd_modPart, State.flag_modPart, ht.fld_apart (r := .CVT_LOSS_SCALE) (by decide),
      ht.rd_apart (r := .CVT_SKIP_COUNT) (by decide), ht.skipRun_apart, ht.skipEvent_apart]
    exact ⟨hexp, hclean, hcount, hrun, hevent⟩

/-- Settles O22: each cluster of the partition meets its own loss scale as it was. -/
theorem cleanStepsGrowTheLossScale : Obligations.CleanStepsGrowTheLossScale := by
  unfold Obligations.CleanStepsGrowTheLossScale
  intro p others s hverdict hdone hland hpass
  refine ⟨_, by rw [exec_reefStepBoundary, State.reefStepBoundary_of_verdict others hverdict hdone hland hpass], ?_⟩
  rintro c hc n iv e rfl rfl rfl
  obtain ⟨u, hu, ht⟩ := State.reefBoundary_apart false others hc
  obtain ⟨hrun, hgrow, hcount⟩ := u.scaleGrown_lossScale c
  simp only [hu.fld_apart (r := .CVT_LOSS_SCALE) (by decide), hu.fld_apart (r := .CVT_LS_CTRL) (by decide)] at hgrow hcount
  simp only [State.fld_modPart, ht.fld_apart (r := .CVT_LOSS_SCALE) (by decide), ht.skipRun_apart]
  exact ⟨hrun, hgrow, hcount⟩

end Sys2Proof.Machine

namespace Sys2Proof.Machine

/-! SUPPORT. Tiles in memory: which bytes an element takes, what writing one leaves of the others and of the bytes outside its
tile, and what runs over a tile's elements write (R40 to R42, R203, R293). -/

/-! Repetition. -/

theorem forN_succ {σ : Type} (n : Nat) (f : σ → Nat → σ) (s : σ) : forN (n + 1) f s = f (forN n f s) n := by
  simp [forN, List.range_succ]

/-- What every round keeps, the whole repetition keeps. -/
theorem forN_keeps {σ : Type} {P : σ → Prop} {n : Nat} {f : σ → Nat → σ} (keep : ∀ s k, k < n → P s → P (f s k)) {s : σ}
    (hs : P s) : P (forN n f s) := by
  induction n with
  | zero => exact hs
  | succ n ih =>
    rw [forN_succ]
    exact keep _ n (Nat.lt_succ_self n) (ih fun s k hk => keep s k (Nat.lt_succ_of_lt hk))

/-- What round `i` brings about and every other round keeps holds at the end. -/
theorem forN_brings {σ : Type} {P : σ → Prop} {n i : Nat} {f : σ → Nat → σ} (hi : i < n) (bring : ∀ s, P (f s i))
    (keep : ∀ s k, k < n → k ≠ i → P s → P (f s k)) (s : σ) : P (forN n f s) := by
  induction n with
  | zero => exact absurd hi (Nat.not_lt_zero i)
  | succ n ih =>
    rw [forN_succ]
    by_cases h : i = n
    · exact h ▸ bring _
    · exact keep _ n (Nat.lt_succ_self n) (Ne.symm h) (ih (by omega) fun s k hk => keep s k (Nat.lt_succ_of_lt hk))

theorem forTile_keeps {σ : Type} {P : σ → Prop} {rows cols : Nat} {f : σ → Nat → Nat → σ}
    (keep : ∀ s i j, i < rows → j < cols → P s → P (f s i j)) {s : σ} (hs : P s) : P (forTile rows cols f s) :=
  forN_keeps (fun _ i hi h => forN_keeps (fun s j hj => keep s i j hi hj) h) hs

/-- What the visit of one element brings about and every other visit keeps holds at the end. -/
theorem forTile_brings {σ : Type} {P : σ → Prop} {rows cols i j : Nat} {f : σ → Nat → Nat → σ} (hi : i < rows) (hj : j < cols)
    (bring : ∀ s, P (f s i j))
    (keep : ∀ s i' j', i' < rows → j' < cols → (i', j') ≠ (i, j) → P s → P (f s i' j')) (s : σ) :
    P (forTile rows cols f s) := by
  refine forN_brings (f := fun s i => forN cols (fun s j => f s i j) s) hi (fun s => ?_) (fun s i' hi' hne h => ?_) s
  · exact forN_brings (f := fun s j => f s i j) hj bring (fun s j' hj' hne => keep s i j' hi hj' fun h => hne (Prod.mk.inj h).2) s
  · exact forN_keeps (fun s j' hj' => keep s i' j' hi' hj' fun h => hne (Prod.mk.inj h).1) h

/-! Numbers as bytes. -/

@[simp] theorem length_natLe (n x : Nat) : (natLe n x).length = n := by
  induction n generalizing x with
  | zero => rfl
  | succ n ih => simp [natLe, ih]

theorem leNat_natLe (n x : Nat) : leNat (natLe n x) = x % 2 ^ (8 * n) := by
  induction n generalizing x with
  | zero => simp [natLe, leNat, Nat.mod_one]
  | succ n ih =>
    have hsplit : 2 ^ (8 * (n + 1)) = 256 * 2 ^ (8 * n) := by rw [Nat.mul_add, Nat.pow_add, Nat.mul_comm]
    rw [natLe, leNat, ih, BitVec.toNat_ofNat, hsplit, Nat.mod_mul]

theorem length_wordBytes (ws : List Word) : (ws.flatMap fun w => natLe 4 w.toNat).length = 4 * ws.length := by
  induction ws with
  | nil => rfl
  | cons w ws ih => rw [List.flatMap_cons, List.length_append, ih, length_natLe, List.length_cons]; omega

theorem div_lt_ceilDiv {a b n : Nat} (hn : 0 < n) (h : a < b) : a / n < ceilDiv b n := by
  rw [ceilDiv, Nat.div_lt_iff_lt_mul hn]
  have := Nat.div_add_mod (b + n - 1) n
  have := Nat.mod_lt (b + n - 1) hn
  rw [Nat.mul_comm]
  omega

namespace Tile

/-! The bytes of an element. -/

/-- Elements of 4 bits, two in a byte (R40). -/
def Nibble (d : Desc) : Prop := isPair d = false ∧ elemBits (fmt d) = 4

/-- Bytes of an element's code; two elements of 4 bits share one (R40, R203). -/
def codeBytes (d : Desc) : Nat := if isPair d then 4 else (elemBits (fmt d) + 4) / 8

/-- Place of the first byte of element `o` in its storage line. -/
def firstByte (d : Desc) (o : Nat) : Nat := if isPair d then 8 * o else elemBits (fmt d) * o / 8

/-- Device physical address of byte `k` of storage line `l`. -/
def physByte (core : Nat) (d : Desc) (l k : Nat) : Nat := phys core (space d) (byteAddr d l k)

theorem elemBits_cases (f : Nat) : elemBits f = 4 ∨ elemBits f = 8 ∨ elemBits f = 16 ∨ elemBits f = 32 := by
  unfold elemBits
  split <;> simp

theorem phys_eq_add (core sp a : Nat) : phys core sp a = phys core sp 0 + a := by
  unfold phys
  split <;> omega

theorem isBlock_false_of_isPair {d : Desc} (h : isPair d = true) : isBlock d = false := by
  simp only [isPair, isBlock, decide_eq_true_eq, decide_eq_false_iff_not] at *
  omega

theorem empty_false {d : Desc} {i j : Nat} (hi : i < rows d) (hj : j < cols d) : empty d = false := by
  simp only [empty, Bool.or_eq_false_iff, decide_eq_false_iff_not]
  omega

/-- Bytes next to each other in a line are next to each other in memory, but at the end of a block's 256 bytes (R293). -/
theorem physByte_add (core : Nat) (d : Desc) (l o k : Nat) (h : isBlock d = true → o % 256 + k < 256) :
    physByte core d l (o + k) = physByte core d l o + k := by
  have hb : byteAddr d l (o + k) = byteAddr d l o + k := by
    unfold byteAddr
    split
    · rename_i hd
      have := h hd
      omega
    · omega
  rw [physByte, physByte, hb, phys_eq_add, phys_eq_add _ _ (byteAddr d l o)]
  omega

theorem len_le_groups (d : Desc) : len d ≤ groups d * gs d := by
  have hpos : 0 < gs d := by unfold gs; exact Nat.mul_pos (by decide) (Nat.two_pow_pos _)
  unfold groups ceilDiv
  have := Nat.div_add_mod (len d + gs d - 1) (gs d)
  have := Nat.mod_lt (len d + gs d - 1) hpos
  rw [Nat.mul_comm]
  omega

theorem groups_mul_gs (d : Desc) : groups d * gs d = 32 * (groups d * 2 ^ gsize d) := by
  rw [gs, Nat.mul_left_comm]

/-- Elements of 4 bits are of a grouped format (R29). -/
theorem grouped_of_nibble {d : Desc} (h : elemBits (fmt d) = 4) : grouped d = true := by
  unfold elemBits at h
  split at h <;> simp_all [grouped, isGrouped]

/-- An element's bytes lie in its line. -/
theorem firstByte_add_codeBytes_le {d : Desc} {o : Nat} (ho : o < len d) : firstByte d o + codeBytes d ≤ lineBytes d := by
  have hlen := len_le_groups d
  have h32 := groups_mul_gs d
  unfold firstByte codeBytes lineBytes
  split
  · omega
  · obtain h | h | h | h := elemBits_cases (fmt d)
    · rw [h, if_pos (grouped_of_nibble h)]
      omega
    all_goals rw [h]; split <;> omega

/-- An element's bytes lie within one run of 256 (R293). -/
theorem firstByte_mod (d : Desc) (o : Nat) : firstByte d o % 256 + codeBytes d ≤ 256 := by
  unfold firstByte codeBytes
  split
  · omega
  · obtain h | h | h | h := elemBits_cases (fmt d) <;> rw [h] <;> omega

/-- The line and the position of an element are within the tile (R203). -/
theorem linePos_lt {d : Desc} {i j : Nat} (hi : i < rows d) (hj : j < cols d) :
    (linePos d i j).1 < lines d ∧ (linePos d i j).2 < len d := by
  unfold linePos lines len
  split <;> exact ⟨‹_›, ‹_›⟩

theorem linePos_inj {d : Desc} {i j i' j' : Nat} (h : linePos d i j = linePos d i' j') : (i, j) = (i', j') := by
  unfold linePos at h
  split at h <;> simp_all

/-! Where the bytes of a tile lie. -/

/-- The range of the element data that holds byte `k` of line `l` (R204). -/
def rangeAt (d : Desc) (l k : Nat) : Nat × Nat :=
  if isBlock d then (addr d + l / 16 * pitch d + k / 256 * 4096, 4096) else (addr d + l * pitch d, lineBytes d)

theorem rangeAt_mem {d : Desc} {l k : Nat} (he : empty d = false) (hl : l < lines d) (hk : k < lineBytes d) :
    rangeAt d l k ∈ dataRanges d := by
  unfold rangeAt dataRanges
  rw [if_neg (by simp [he])]
  split
  · exact List.mem_flatMap.2 ⟨l / 16, List.mem_range.2 (div_lt_ceilDiv (by decide) hl),
      List.mem_map.2 ⟨k / 256, List.mem_range.2 (div_lt_ceilDiv (by decide) hk), rfl⟩⟩
  · exact List.mem_map.2 ⟨l, List.mem_range.2 hl, rfl⟩

theorem byteAddr_in_rangeAt {d : Desc} {l k : Nat} (hk : k < lineBytes d) :
    (rangeAt d l k).1 ≤ byteAddr d l k ∧ byteAddr d l k < (rangeAt d l k).1 + (rangeAt d l k).2 := by
  unfold rangeAt byteAddr
  split <;> dsimp only <;> omega

/-- A byte of the device that lies in none of a tile's ranges. -/
def Outside (core : Nat) (d : Desc) (a : Nat) : Prop := ∀ r ∈ physRanges core d, a < r.1 ∨ r.1 + r.2 ≤ a

theorem ne_physByte_of_outside {core : Nat} {d : Desc} {a l k : Nat} (h : Outside core d a) (he : empty d = false)
    (hl : l < lines d) (hk : k < lineBytes d) : a ≠ physByte core d l k := by
  have hr : rangeAt d l k ∈ ranges d := by
    rw [ranges, if_neg (by simp [he])]
    exact List.mem_append_left _ (rangeAt_mem he hl hk)
  have ho := h _ (List.mem_map.2 ⟨_, hr, rfl⟩)
  have hb := byteAddr_in_rangeAt (d := d) (l := l) hk
  dsimp only at ho
  rw [phys_eq_add core _ (rangeAt d l k).1] at ho
  rw [physByte, phys_eq_add]
  omega

/-- No two ranges of a tile's element data meet: its lines do not overlap. -/
def LinesApart (d : Desc) : Prop := (dataRanges d).Pairwise fun a b => a.1 + a.2 ≤ b.1 ∨ b.1 + b.2 ≤ a.1

theorem pairwise_range_iff {R : Nat → Nat → Prop} {n : Nat} :
    (List.range n).Pairwise R ↔ ∀ i j, i < j → j < n → R i j := by
  rw [List.pairwise_iff_getElem]
  simp only [List.length_range, List.getElem_range]
  exact ⟨fun h i j hij hj => h i j (by omega) hj hij, fun h i j _ hj hij => h i j hij hj⟩

/-- Lines that lie in different ranges have no byte in common. -/
theorem byteAddr_ne_of_lt {d : Desc} (h : LinesApart d) (he : empty d = false) {l l' k k' : Nat} (hl : l' < lines d)
    (hk : k < lineBytes d) (hk' : k' < lineBytes d) (hlt : if isBlock d then l / 16 < l' / 16 else l < l') :
    byteAddr d l k ≠ byteAddr d l' k' := by
  have hb := byteAddr_in_rangeAt (d := d) (l := l) hk
  have hb' := byteAddr_in_rangeAt (d := d) (l := l') hk'
  unfold LinesApart dataRanges at h
  rw [if_neg (by simp [he])] at h
  unfold rangeAt at hb hb'
  split at h
  · rename_i hd
    rw [if_pos hd] at hb hb' hlt
    rw [List.pairwise_flatMap] at h
    have := pairwise_range_iff.1 h.2 _ _ hlt (div_lt_ceilDiv (by decide) hl) _
      (List.mem_map.2 ⟨k / 256, List.mem_range.2 (div_lt_ceilDiv (by decide) hk), rfl⟩) _
      (List.mem_map.2 ⟨k' / 256, List.mem_range.2 (div_lt_ceilDiv (by decide) hk'), rfl⟩)
    dsimp only at this hb hb'
    omega
  · rename_i hd
    rw [if_neg hd] at hb hb' hlt
    rw [List.pairwise_map] at h
    have := pairwise_range_iff.1 h _ _ hlt hl
    dsimp only at this hb hb'
    omega

/-- In a tile whose lines do not overlap, a byte of the device is one byte of one line. -/
theorem physByte_inj {core : Nat} {d : Desc} (h : LinesApart d) (he : empty d = false) {l l' k k' : Nat} (hl : l < lines d)
    (hl' : l' < lines d) (hk : k < lineBytes d) (hk' : k' < lineBytes d) (e : physByte core d l k = physByte core d l' k') :
    l = l' ∧ k = k' := by
  have e : byteAddr d l k = byteAddr d l' k' := by
    rw [physByte, physByte, phys_eq_add, phys_eq_add _ _ (byteAddr d l' k')] at e
    omega
  have hlt : ¬ (if isBlock d then l / 16 < l' / 16 else l < l') := fun c => byteAddr_ne_of_lt h he hl' hk hk' c e
  have hgt : ¬ (if isBlock d then l' / 16 < l / 16 else l' < l) := fun c => byteAddr_ne_of_lt h he hl hk' hk c e.symm
  by_cases hd : isBlock d = true
  · simp only [hd, if_true] at hlt hgt
    have hp : l / 16 = l' / 16 := by omega
    simp only [byteAddr, hd, if_true, hp] at e
    omega
  · simp only [hd] at hlt hgt
    have hp : l = l' := by simp at hlt hgt; omega
    subst hp
    simp only [byteAddr, hd] at e
    simp at e
    exact ⟨rfl, e⟩

/-! Reading and writing one element. -/

theorem codeAt_of_nibble {d : Desc} (h : Nibble d) (m : Memory) (core l o : Nat) :
    codeAt m core d l o = bits (m.rd (physByte core d l (firstByte d o))) (4 * (o % 2) + 3) (4 * (o % 2)) := by
  have hb : 4 * o / 8 = o / 2 := by omega
  have hw : 4 * (o % 2) + 3 + 1 - 4 * (o % 2) = 4 := by omega
  simp [codeAt, h.1, h.2, firstByte, physByte, bits, hb, hw]

theorem putCodeAt_of_nibble {d : Desc} (h : Nibble d) (m : Memory) (core l o c : Nat) :
    putCodeAt m core d l o c = m.wr (physByte core d l (firstByte d o))
      (setBits (m.rd (physByte core d l (firstByte d o))) (4 * (o % 2) + 3) (4 * (o % 2)) c) := by
  have hb : 4 * o / 8 = o / 2 := by omega
  simp [putCodeAt, h.1, h.2, firstByte, physByte, hb]

/-- Elements of whole bytes: pairs, and formats of 8, 16 and 32 bits (R29, R203). -/
theorem bytes_cases {d : Desc} (h : ¬ Nibble d) :
    isPair d = true ∨ isPair d = false ∧ (elemBits (fmt d) = 8 ∨ elemBits (fmt d) = 16 ∨ elemBits (fmt d) = 32) := by
  cases hp : isPair d with
  | true => exact .inl rfl
  | false => exact .inr ⟨rfl, (elemBits_cases (fmt d)).resolve_left fun hb => h ⟨hp, hb⟩⟩

theorem firstByte_of_bytes {d : Desc} (h : ¬ Nibble d) (hp : isPair d = false) (o : Nat) :
    firstByte d o = elemBits (fmt d) / 8 * o := by
  obtain hpair | ⟨-, hb | hb | hb⟩ := bytes_cases h
  · simp [hp] at hpair
  all_goals simp only [firstByte, hp, hb, Bool.false_eq_true, if_false]; omega

theorem codeAt_of_bytes {d : Desc} (h : ¬ Nibble d) (m : Memory) (core l o : Nat) :
    codeAt m core d l o = leNat (m.rdN (physByte core d l (firstByte d o)) (codeBytes d)) := by
  obtain hp | ⟨hp, hb | hb | hb⟩ := bytes_cases h
  · simp [codeAt, firstByte, codeBytes, physByte, hp]
  all_goals rw [firstByte_of_bytes h hp]; simp [codeAt, codeBytes, physByte, hp, hb, Memory.rdN, leNat]

theorem putCodeAt_of_bytes {d : Desc} (h : ¬ Nibble d) (m : Memory) (core l o c : Nat) :
    putCodeAt m core d l o c = m.wrN (physByte core d l (firstByte d o)) (natLe (codeBytes d) c) := by
  obtain hp | ⟨hp, hb | hb | hb⟩ := bytes_cases h
  · simp [putCodeAt, firstByte, codeBytes, physByte, hp]
  all_goals rw [firstByte_of_bytes h hp]; simp [putCodeAt, codeBytes, physByte, hp, hb, Memory.wrN, natLe]

/-- Bits of an element's code. -/
def codeBits (d : Desc) : Nat := if isPair d then 32 else elemBits (fmt d)

theorem codeBits_of_bytes {d : Desc} (h : ¬ Nibble d) : codeBits d = 8 * codeBytes d := by
  obtain hp | ⟨hp, hb | hb | hb⟩ := bytes_cases h <;> simp [codeBits, codeBytes, *]

theorem codeBits_of_nibble {d : Desc} (h : Nibble d) : codeBits d = 4 := by simp [codeBits, h.1, h.2]

/-- An element reads as the code written to it. -/
theorem codeAt_putCodeAt (m : Memory) (core : Nat) (d : Desc) (l o c : Nat) :
    codeAt (putCodeAt m core d l o c) core d l o = c % 2 ^ codeBits d := by
  by_cases h : Nibble d
  · have hw : 4 * (o % 2) + 3 + 1 - 4 * (o % 2) = 4 := by omega
    rw [codeAt_of_nibble h, putCodeAt_of_nibble h, Memory.rd_wr, if_pos rfl, bits_setBits _ _ _ _ (by omega) (by omega), hw,
      codeBits_of_nibble h]
  · have hread := Memory.rdN_wrN m (physByte core d l (firstByte d o)) (natLe (codeBytes d) c)
    rw [length_natLe] at hread
    rw [codeAt_of_bytes h, putCodeAt_of_bytes h, hread, leNat_natLe, codeBits_of_bytes h]

/-- Address of byte `k` of an element. -/
theorem physByte_firstByte_add (core : Nat) (d : Desc) (l o : Nat) {k : Nat} (hk : k < codeBytes d) :
    physByte core d l (firstByte d o) + k = physByte core d l (firstByte d o + k) := by
  have := firstByte_mod d o
  exact (physByte_add core d l _ k fun _ => by omega).symm

theorem codeBytes_pos (d : Desc) : 0 < codeBytes d := by
  unfold codeBytes
  split
  · decide
  · obtain h | h | h | h := elemBits_cases (fmt d) <;> rw [h] <;> decide

/-- Elements of whole bytes share none within a line. -/
theorem firstByte_apart {d : Desc} (h : ¬ Nibble d) {o o' k k' : Nat} (hk : k < codeBytes d) (hk' : k' < codeBytes d)
    (e : firstByte d o + k = firstByte d o' + k') : o = o' := by
  obtain hp | ⟨hp, hb | hb | hb⟩ := bytes_cases h <;> simp only [firstByte, codeBytes, hp, if_true] at hk hk' e
  · omega
  all_goals simp [hb] at hk hk' e; omega

/-- Every byte that a write of an element changes is one of the element's. -/
theorem rd_putCodeAt_of_ne {core : Nat} {d : Desc} {l o b : Nat} (m : Memory) (c : Nat)
    (h : ∀ k, k < codeBytes d → b ≠ physByte core d l (firstByte d o + k)) : (putCodeAt m core d l o c).rd b = m.rd b := by
  by_cases hn : Nibble d
  · rw [putCodeAt_of_nibble hn, Memory.rd_wr]
    exact if_neg (h 0 (codeBytes_pos d))
  · rw [putCodeAt_of_bytes hn, Memory.rd_wrN_out]
    rw [length_natLe]
    refine Decidable.byContradiction fun hb => h (b - physByte core d l (firstByte d o)) (by omega) ?_
    rw [← physByte_firstByte_add core d l o (by omega)]
    omega

/-- In a tile whose lines do not overlap, writing one element leaves the code of every other. -/
theorem codeAt_putCodeAt_of_ne {core : Nat} {d : Desc} (h : LinesApart d) (he : empty d = false) {l o l' o' : Nat} (m : Memory)
    (c : Nat) (hl : l < lines d) (ho : o < len d) (hl' : l' < lines d) (ho' : o' < len d) (hne : (l', o') ≠ (l, o)) :
    codeAt (putCodeAt m core d l' o' c) core d l o = codeAt m core d l o := by
  have hend := firstByte_add_codeBytes_le ho
  have hend' := firstByte_add_codeBytes_le ho'
  have hsame : ∀ k k', k < codeBytes d → k' < codeBytes d →
      physByte core d l (firstByte d o + k) = physByte core d l' (firstByte d o' + k') →
      l = l' ∧ firstByte d o + k = firstByte d o' + k' := fun k k' hk hk' =>
    physByte_inj h he hl hl' (by omega) (by omega)
  by_cases hn : Nibble d
  · rw [codeAt_of_nibble hn, codeAt_of_nibble hn, putCodeAt_of_nibble hn, Memory.rd_wr]
    split
    · rename_i e
      obtain ⟨rfl, hf⟩ := hsame 0 0 (codeBytes_pos d) (codeBytes_pos d) e
      have hoo : o' ≠ o := fun e => hne (by rw [e])
      simp only [firstByte, hn.1, hn.2, Bool.false_eq_true, if_false] at hf
      rw [bits_setBits_disj _ _ _ _ _ _ (by omega) (by omega), ← e]
    · rfl
  · rw [codeAt_of_bytes hn, codeAt_of_bytes hn, Memory.rdN_eq, Memory.rdN_eq]
    refine congrArg leNat (List.map_congr_left fun k hk => rd_putCodeAt_of_ne m c fun k' hk' e => ?_)
    have hk := List.mem_range.1 hk
    rw [physByte_firstByte_add core d l o hk] at e
    obtain ⟨rfl, hf⟩ := hsame k k' hk hk' e
    exact hne (by rw [firstByte_apart hn hk hk' hf])

/-! Runs over a tile. -/

/-- A run that writes a code at every element of a tile whose lines do not overlap leaves each where it was written. -/
theorem code_forTile {σ : Type} {mem : σ → Memory} {core : Nat} {d : Desc} {f : σ → Nat → Nat → σ} {v : Nat → Nat → Nat}
    (hf : ∀ s i j, mem (f s i j) = putCode (mem s) core d i j (v i j)) (h : LinesApart d) {i j : Nat} (hi : i < rows d)
    (hj : j < cols d) (s : σ) : code (mem (forTile (rows d) (cols d) f s)) core d i j = v i j % 2 ^ codeBits d := by
  refine forTile_brings (P := fun s => code (mem s) core d i j = v i j % 2 ^ codeBits d) hi hj (fun s => ?_)
    (fun s i' j' hi' hj' hne hs => ?_) s
  · rw [hf]
    exact codeAt_putCodeAt ..
  · rw [hf, ← hs]
    obtain ⟨hl, ho⟩ := linePos_lt hi hj
    obtain ⟨hl', ho'⟩ := linePos_lt hi' hj'
    exact codeAt_putCodeAt_of_ne h (empty_false hi hj) _ _ hl ho hl' ho' fun e => hne (linePos_inj e)

theorem rd_putCodeAt_outside {core : Nat} {d : Desc} {a l o : Nat} (h : Outside core d a) (he : empty d = false) (hl : l < lines d)
    (ho : o < len d) (m : Memory) (c : Nat) : (putCodeAt m core d l o c).rd a = m.rd a := by
  have hend := firstByte_add_codeBytes_le ho
  exact rd_putCodeAt_of_ne m c fun k hk => ne_physByte_of_outside h he hl (by omega)

/-- A write of an element of a tile leaves every byte outside the tile. -/
theorem rd_putCode_outside {core : Nat} {d : Desc} {a i j : Nat} (h : Outside core d a) (hi : i < rows d) (hj : j < cols d)
    (m : Memory) (c : Nat) : (putCode m core d i j c).rd a = m.rd a :=
  rd_putCodeAt_outside h (empty_false hi hj) (linePos_lt hi hj).1 (linePos_lt hi hj).2 m c

theorem putPair_eq (m : Memory) (core : Nat) (d : Desc) (i j : Nat) (v : Pair) :
    putPair m core d i j v = m.wrN (physByte core d (linePos d i j).1 (8 * (linePos d i j).2))
      (natLe 4 v.1.toNat ++ natLe 4 v.2.toNat) := rfl

/-- So does a write of a compensated pair to a PAIR tile (R203). -/
theorem rd_putPair_outside {core : Nat} {d : Desc} {a i j : Nat} (h : Outside core d a) (hp : isPair d = true) (hi : i < rows d)
    (hj : j < cols d) (m : Memory) (v : Pair) : (putPair m core d i j v).rd a = m.rd a := by
  obtain ⟨hl, ho⟩ := linePos_lt hi hj
  rw [putPair_eq, Memory.rd_wrN_out]
  rw [List.length_append, length_natLe, length_natLe]
  generalize linePos d i j = x at hl ho ⊢
  refine Decidable.byContradiction fun hb => ?_
  refine ne_physByte_of_outside h (empty_false hi hj) hl (k := 8 * x.2 + (a - physByte core d x.1 (8 * x.2))) ?_ ?_
  · simp only [lineBytes, hp, if_true]
    omega
  · rw [physByte_add _ _ _ _ _ fun hd => absurd hd (by simp [isBlock_false_of_isPair hp])]
    omega

end Tile

/-! What the runs of the Vector Engine write (R144 to R154, R162, R163). -/

/-- Every element of an elementwise floating-point run. -/
theorem code_runFloat {x : VArgs} (h : Tile.LinesApart x.dd) {i j : Nat} (hi : i < Tile.rows x.dd) (hj : j < Tile.cols x.dd)
    (m : Memory) (core : Nat) (ftz : Bool) :
    Tile.code (runFloat m core ftz x).mem core x.dd i j = (floatElem m core ftz x i j).1 % 2 ^ Tile.codeBits x.dd :=
  Tile.code_forTile (mem := VRun.mem) (v := fun i j => (floatElem m core ftz x i j).1) (fun _ _ _ => rfl) h hi hj _

/-- What a U32 operation gives for the operands of an element (R144, R209). -/
def intElem (m : Memory) (core : Nat) (x : VArgs) (i j : Nat) : Nat :=
  (intOp x.op x.cond (BitVec.ofNat 32 (Tile.code m core x.da i j))
    (BitVec.ofNat 32 (bCode m core x.bmode x.db x.imm i j).2)).toNat

/-- Every element of an elementwise U32 run. -/
theorem code_runInt {x : VArgs} (h : Tile.LinesApart x.dd) {i j : Nat} (hi : i < Tile.rows x.dd) (hj : j < Tile.cols x.dd)
    (m : Memory) (core : Nat) :
    Tile.code (runInt m core x).mem core x.dd i j = intElem m core x i j % 2 ^ Tile.codeBits x.dd :=
  Tile.code_forTile (mem := VRun.mem) (v := intElem m core x) (fun _ _ _ => rfl) h hi hj _

/-! What the runs of the arrays and the Vector Engine leave of the bytes outside their destinations. -/

theorem rd_forN {σ : Type} (mem : σ → Memory) {n a : Nat} {f : σ → Nat → σ}
    (hf : ∀ s k, k < n → (mem (f s k)).rd a = (mem s).rd a) (s : σ) : (mem (forN n f s)).rd a = (mem s).rd a :=
  forN_keeps (P := fun t => (mem t).rd a = (mem s).rd a) (fun t k hk h => (hf t k hk).trans h) rfl

theorem rd_forTile {σ : Type} (mem : σ → Memory) {rows cols a : Nat} {f : σ → Nat → Nat → σ}
    (hf : ∀ s i j, i < rows → j < cols → (mem (f s i j)).rd a = (mem s).rd a) (s : σ) :
    (mem (forTile rows cols f s)).rd a = (mem s).rd a :=
  forTile_keeps (P := fun t => (mem t).rd a = (mem s).rd a) (fun t i j hi hj h => (hf t i j hi hj).trans h) rfl

section

open Tile (Outside rd_putCode_outside rd_putPair_outside)

variable {core a : Nat} (m : Memory)

theorem rd_putEntries {d : Desc} (h : Outside core d a) {rows : Nat} (hr : rows ≤ Tile.rows d) (f : Nat → Nat → Word) :
    (putEntries m core d rows f).1.rd a = m.rd a :=
  rd_forTile Prod.fst (fun _ _ _ hi hj => rd_putCode_outside h (Nat.lt_of_lt_of_le hi hr) hj _ _) _

theorem rd_runArray {d : Desc} (h : Outside core d a) (p : Nat) (faults : List ArrayFault)
    (found : List ArrayErr → ArrayErr → Option Nat) (f : List ArrayErr → Nat → Nat → Word) :
    (runArray m core d p faults found f).mem.rd a = m.rd a :=
  rd_putEntries m h (Nat.min_le_left ..) _

theorem rd_runFloat {x : VArgs} (h : Outside core x.dd a) (ftz : Bool) : (runFloat m core ftz x).mem.rd a = m.rd a :=
  rd_forTile VRun.mem (fun _ _ _ hi hj => rd_putCode_outside h hi hj _ _) ⟨m, 0, false, 0⟩

theorem rd_runInt {x : VArgs} (h : Outside core x.dd a) : (runInt m core x).mem.rd a = m.rd a :=
  rd_forTile VRun.mem (fun _ _ _ hi hj => rd_putCode_outside h hi hj _ _) ⟨m, 0, false, 0⟩

theorem rd_runSel {x : VArgs} (h : Outside core x.dd a) : (runSel m core x).mem.rd a = m.rd a := by
  refine rd_forTile VRun.mem (fun s i j hi hj => ?_) ⟨m, 0, false, 0⟩
  dsimp only
  split
  · exact rd_putPair_outside h ‹_› hi hj _ _
  · exact rd_putCode_outside h hi hj _ _

theorem rd_runComb {x : VArgs} (h : Outside core x.dd a) (hp : Tile.isPair x.dd = true) :
    (runComb m core x).mem.rd a = m.rd a :=
  rd_forTile VRun.mem (fun _ _ _ hi hj => rd_putPair_outside h hp hi hj _ _) ⟨m, 0, false, 0⟩

/-- A reduction of each row fits a destination of as many rows and one column (R153, R154). -/
theorem rd_runRsum {x : VArgs} (h : Outside core x.dd a) (hr : Tile.rows x.dd = Tile.rows x.da) (hc : Tile.cols x.dd = 1) :
    (runRsum m core x).mem.rd a = m.rd a := by
  refine rd_forN VRun.mem (fun s i hi => ?_) ⟨m, 0, false, 0⟩
  have hi : i < Tile.rows x.dd := Nat.lt_of_lt_of_eq hi hr.symm
  have hj : 0 < Tile.cols x.dd := Nat.lt_of_lt_of_eq Nat.one_pos hc.symm
  dsimp only
  split
  · exact rd_putPair_outside h ‹_› hi hj _ _
  · exact rd_putCode_outside h hi hj _ _

theorem rd_runRmax {x : VArgs} (h : Outside core x.dd a) (hr : Tile.rows x.dd = Tile.rows x.da) (hc : Tile.cols x.dd = 1)
    (ftz : Bool) : (runRmax m core ftz x).mem.rd a = m.rd a :=
  rd_forN VRun.mem (fun _ _ hi => rd_putCode_outside h (Nat.lt_of_lt_of_eq hi hr.symm) (Nat.lt_of_lt_of_eq Nat.one_pos hc.symm)
    _ _) ⟨m, 0, false, 0⟩

/-- Two tiles of one shape. -/
structure SameShape (d e : Desc) : Prop where
  rows : Tile.rows e = Tile.rows d
  cols : Tile.cols e = Tile.cols d

theorem SameShape.row {d e : Desc} (h : SameShape d e) {i : Nat} (hi : i < Tile.rows d) : i < Tile.rows e :=
  Nat.lt_of_lt_of_eq hi h.rows.symm

theorem SameShape.col {d e : Desc} (h : SameShape d e) {j : Nat} (hj : j < Tile.cols d) : j < Tile.cols e :=
  Nat.lt_of_lt_of_eq hj h.cols.symm

theorem rd_runAdam {dw dm dv : Desc} (hw : Outside core dw a) (hm : Outside core dm a) (hv : Outside core dv a)
    (sm : SameShape dw dm) (sv : SameShape dw dv) (ftz : Bool) (da dp : Desc) :
    (runAdam m core ftz dw dm dv da dp).mem.rd a = m.rd a := by
  refine rd_forTile VRun.mem (fun s i j hi hj => ?_) ⟨m, 0, false, 0⟩
  dsimp only
  rw [rd_putCode_outside hv (sv.row hi) (sv.col hj), rd_putCode_outside hm (sm.row hi) (sm.col hj), rd_putCode_outside hw hi hj]

theorem rd_runMom {dw dm : Desc} (hw : Outside core dw a) (hm : Outside core dm a) (sm : SameShape dw dm) (ftz : Bool)
    (da dp : Desc) : (runMom m core ftz dw dm da dp).mem.rd a = m.rd a := by
  refine rd_forTile VRun.mem (fun s i j hi hj => ?_) ⟨m, 0, false, 0⟩
  dsimp only
  rw [rd_putCode_outside hm (sm.row hi) (sm.col hj), rd_putCode_outside hw hi hj]

/-- The words of a parameter block that OPT_STEP writes are among its 16 (R212). -/
theorem rd_runOptStep {dp : Desc} (h : Outside core dp a) (hr : Tile.rows dp = 1) (hc : Tile.cols dp = 16) (ftz : Bool)
    (dl : Desc) (exp : Nat) : (runOptStep m core ftz dp dl exp).mem.rd a = m.rd a := by
  have hput : ∀ (m : Memory) (k c : Nat), k < 16 → (Tile.putCode m core dp 0 k c).rd a = m.rd a := fun m k c hk =>
    rd_putCode_outside h (Nat.lt_of_lt_of_eq Nat.one_pos hr.symm) (Nat.lt_of_lt_of_eq hk hc.symm) m c
  simp only [runOptStep, List.foldl_cons, List.foldl_nil]
  iterate 7 rw [hput _ _ _ (by decide)]

end

end Sys2Proof.Machine

namespace Sys2Proof.Machine

/-! SUPPORT. A byte of memory that no write is aimed at, through the one path of every write: the Table Regions kept, the pages
copied at first touch, and the words of Replay Logs (R315, R432, R440, R442). -/

namespace SMap

theorem get_append_of_left_lacks {α : Type} {d : α} {x y : SMap α} {k : Nat} (h : ∀ e ∈ x, e.1 ≠ k) :
    get d (x ++ y) k = get d y k := by
  induction x with
  | nil => rfl
  | cons e x ih =>
    rw [List.cons_append, get, if_neg (h e List.mem_cons_self)]
    exact ih fun e he => h e (List.mem_cons_of_mem _ he)

theorem get_append_of_right_lacks {α : Type} {d : α} {x y : SMap α} {k : Nat} (h : ∀ e ∈ y, e.1 ≠ k) :
    get d (x ++ y) k = get d x k := by
  induction x with
  | nil =>
    have := get_append_of_left_lacks (d := d) (y := []) h
    rwa [List.append_nil] at this
  | cons e x ih => rw [List.cons_append, get, get, ih]

end SMap

namespace Memory

/-- Three pieces of a memory that lie one after the other: below `lo`, from `lo` to below `hi`, and from `hi` on. -/
theorem rd_three {x y z : Memory} {lo hi : Nat} (hx : ∀ e ∈ x, e.1 < lo) (hy : ∀ e ∈ y, lo ≤ e.1 ∧ e.1 < hi)
    (hz : ∀ e ∈ z, hi ≤ e.1) (hle : lo ≤ hi) (b : Nat) :
    Memory.rd (x ++ y ++ z) b = if b < lo then Memory.rd x b else if b < hi then Memory.rd y b else Memory.rd z b := by
  have lacks : ∀ {m : Memory} {P : Nat → Prop}, (∀ e ∈ m, P e.1) → ¬ P b → ∀ e ∈ m, e.1 ≠ b := fun h hb e he heb =>
    hb (heb ▸ h e he)
  unfold Memory.rd
  split
  · rw [SMap.get_append_of_right_lacks (lacks hz (by omega)),
      SMap.get_append_of_right_lacks (lacks (P := fun k => lo ≤ k ∧ k < hi) hy (by omega))]
  · split
    · rw [SMap.get_append_of_right_lacks (lacks hz (by omega)),
        SMap.get_append_of_left_lacks (lacks (P := (· < lo)) hx (by omega))]
    · rw [SMap.get_append_of_left_lacks]
      intro e he
      rcases List.mem_append.1 he with he | he
      · exact lacks (P := (· < lo)) hx (by omega) e he
      · exact lacks (P := fun k => lo ≤ k ∧ k < hi) hy (by omega) e he

theorem rd_below (m : Memory) {n b : Nat} (h : b < n) : Memory.rd (m.filter fun x => decide (x.1 < n)) b = m.rd b := by
  rw [rd_filter m fun k => decide (k < n), if_pos (by simpa using h)]

theorem rd_from (m : Memory) {n b : Nat} (h : n ≤ b) : Memory.rd (m.filter fun x => decide (n ≤ x.1)) b = m.rd b := by
  rw [rd_filter m fun k => decide (n ≤ k), if_pos (by simpa using h)]

/-- A byte outside the place a range is copied to. -/
theorem rd_copyInto_out (m old : Memory) {src dst n b : Nat} (h : b < dst ∨ dst + n ≤ b) :
    (m.copyInto old src dst n).rd b = m.rd b := by
  unfold copyInto
  rw [rd_three (lo := dst) (hi := dst + n)]
  · split
    · exact rd_below m ‹_›
    · rw [if_neg (by omega), rd_from m (by omega)]
  · intro e he; simpa using (List.mem_filter.1 he).2
  · intro e he
    obtain ⟨x, hx, rfl⟩ := List.mem_map.1 he
    have := (List.mem_filter.1 hx).2
    simp at this
    dsimp only
    omega
  · intro e he; simpa using (List.mem_filter.1 he).2
  · omega

end Memory

namespace State

/-- A splice takes each byte from one of the two memories. -/
theorem rd_spliceRegion {lo hi : Nat} (h : lo ≤ hi) (old new : Memory) (b : Nat) :
    (spliceRegion lo hi old new).rd b = if lo ≤ b ∧ b < hi then old.rd b else new.rd b := by
  unfold spliceRegion
  rw [Memory.rd_three (lo := lo) (hi := hi) _ _ _ h]
  · by_cases hlo : b < lo
    · rw [if_pos hlo, if_neg (by omega), Memory.rd_below _ hlo]
    · rw [if_neg hlo]
      by_cases hhi : b < hi
      · rw [if_pos hhi, if_pos (by omega), Memory.rd_filter old fun k => decide (lo ≤ k) && decide (k < hi),
          if_pos (by simp; omega)]
      · rw [if_neg hhi, if_neg (by omega), Memory.rd_from _ (by omega)]
  · intro e he; simpa using (List.mem_filter.1 he).2
  · intro e he; simpa using (List.mem_filter.1 he).2
  · intro e he; simpa using (List.mem_filter.1 he).2

theorem rd_guardTables (s : State) {old : Memory} {a : Nat} (cs : List Nat) {m : Memory} (h : m.rd a = old.rd a) :
    (s.guardTables old m cs).rd a = old.rd a := by
  induction cs generalizing m with
  | nil => exact h
  | cons c cs ih =>
    unfold guardTables
    split
    · exact ih h
    · rename_i lo hi hr
      refine ih ?_
      rw [rd_spliceRegion (tableRegion_le hr), h, ite_self]

/-- The guard of the Table Regions brings back old bytes: one that a write leaves stays. -/
theorem rd_keepTables (s : State) {old m : Memory} {a : Nat} (rs : List (Nat × Nat)) (h : m.rd a = old.rd a) :
    (s.keepTables old m rs).2.1.rd a = old.rd a := by
  unfold keepTables
  dsimp only
  split
  · exact h
  · exact rd_guardTables s _ h

/-- A byte in no Snapshot Slot page of a protected page. -/
def OffSlots (s : State) (a : Nat) : Prop := ∀ pg ∈ s.snap.prot, a < s.slotPage pg ∨ s.slotPage pg + pageBytes ≤ a

theorem rd_copies (s : State) {a : Nat} (hit : List Nat) (hs : ∀ pg ∈ hit, a < s.slotPage pg ∨ s.slotPage pg + pageBytes ≤ a)
    (m : Memory) : (hit.foldl (fun m pg => m.copyInto s.mem (pageBytes * pg) (s.slotPage pg) pageBytes) m).rd a = m.rd a := by
  induction hit generalizing m with
  | nil => rfl
  | cons pg hit ih =>
    rw [List.foldl_cons, ih fun p hp => hs p (List.mem_cons_of_mem _ hp), Memory.rd_copyInto_out _ _ (hs pg List.mem_cons_self)]

theorem rd_firstTouch {s : State} {a : Nat} (hs : s.OffSlots a) (m : Memory) (rs : List (Nat × Nat)) :
    (s.firstTouch m rs).2.1.rd a = m.rd a := by
  unfold firstTouch
  dsimp only
  split
  · rfl
  · exact rd_keepTables s _ (rd_copies s _ (fun pg hpg => hs pg (List.mem_filter.1 hpg).1) m)

/-- A byte in no entry of a Replay Log. -/
def OffLogs (s : State) (a : Nat) : Prop := ∀ c e seq, a < s.logAddr c e seq ∨ s.logAddr c e seq + 64 ≤ a

theorem rd_noReplayWords {a : Nat} (ws : List (Nat × Word)) (h : ∀ x ∈ ws, a < x.1 ∨ x.1 + 4 ≤ a) (m : Memory) :
    (ws.foldl (fun m x => m.wr32 x.1 x.2) m).rd a = m.rd a := by
  induction ws generalizing m with
  | nil => rfl
  | cons w ws ih =>
    rw [List.foldl_cons, ih fun x hx => h x (List.mem_cons_of_mem _ hx), Memory.wr32, Memory.rd_wrN_out]
    rw [length_natLe]
    exact h w List.mem_cons_self

/-- The words 6 that a write marks lie in entries of Replay Logs (R440, R442). -/
theorem noReplayWords_off {s : State} {a : Nat} (h : s.OffLogs a) (bs : List Nat) :
    ∀ x ∈ s.noReplayWords bs, a < x.1 ∨ x.1 + 4 ≤ a := by
  intro x hx
  unfold noReplayWords at hx
  obtain ⟨c, -, hx⟩ := List.mem_flatMap.1 hx
  obtain ⟨q, -, hx⟩ := List.mem_flatMap.1 hx
  obtain ⟨e, -, rfl⟩ := List.mem_map.1 hx
  have := h c.1 q.1 e.seq
  dsimp only
  omega

/-! What a command leaves beside a byte's own value: everything that places the Replay Logs, the Event Rings and the Snapshot
Slot, and every part of the state but the cores, the registers and the partitions. -/

/-- Registers that place the Replay Logs and the Event Rings, and the device's own ID. -/
def placeRegs : List Reg := [.RES_LOG_CTRL, .CHN_EVR_BASE, .FAB_DEVID]

/-- From `s` to `t` the byte of memory at `a` reads as before, and so does what the frame of a tensor row is stated about. -/
structure Leaves (a : Nat) (s t : State) : Prop where
  byte : t.mem.rd a = s.mem.rd a
  hostMem : t.hostMem = s.hostMem
  fab : t.fab = s.fab
  hif : t.hif = s.hif
  chip : t.chip = s.chip
  pending : t.pending = s.pending
  rd : ∀ r ∈ placeRegs, ∀ i, t.rd r i = s.rd r i
  desc : ∀ k i, t.desc k i = s.desc k i
  prot : ∀ pg ∈ t.snap.prot, pg ∈ s.snap.prot
  slotPage : ∀ pg, t.slotPage pg = s.slotPage pg

/-- Where cluster `c`'s Event Ring begins (R275). -/
def ringBase (s : State) (c : Nat) : Nat := cmemBase c + s.fld .CHN_EVR_BASE c 23 5 * 32

/-- A byte beside everything that a tensor row of cluster `c` writes on its own: Replay Logs, the Event Ring, the Snapshot Slot. -/
structure Beside (c a : Nat) (s : State) : Prop where
  logs : s.OffLogs a
  slots : s.OffSlots a
  ring : a < s.ringBase c ∨ s.ringBase c + 2 ^ 21 ≤ a

namespace Leaves

variable {a : Nat} {s t u : State}

theorem refl (s : State) : Leaves a s s :=
  ⟨rfl, rfl, rfl, rfl, rfl, rfl, fun _ _ _ => rfl, fun _ _ => rfl, fun _ h => h, fun _ => rfl⟩

theorem trans (h : Leaves a s t) (g : Leaves a t u) : Leaves a s u where
  byte := g.byte.trans h.byte
  hostMem := g.hostMem.trans h.hostMem
  fab := g.fab.trans h.fab
  hif := g.hif.trans h.hif
  chip := g.chip.trans h.chip
  pending := g.pending.trans h.pending
  rd r hr i := (g.rd r hr i).trans (h.rd r hr i)
  desc k i := (g.desc k i).trans (h.desc k i)
  prot pg hpg := h.prot pg (g.prot pg hpg)
  slotPage pg := (g.slotPage pg).trans (h.slotPage pg)

theorem fld (h : Leaves a s t) {r : Reg} (hr : r ∈ placeRegs) (i hi lo : Nat) : t.fld r i hi lo = s.fld r i hi lo :=
  congrArg (bits · hi lo) (h.rd r hr i)

theorem logAddr (h : Leaves a s t) (c e seq : Nat) : t.logAddr c e seq = s.logAddr c e seq := by
  have hr := h.fld (r := .RES_LOG_CTRL) (by decide)
  simp only [State.logAddr, logBase, hr]

theorem beside (h : Leaves a s t) {c : Nat} (hb : Beside c a s) : Beside c a t where
  logs c e seq := by rw [h.logAddr]; exact hb.logs c e seq
  slots pg hpg := by rw [h.slotPage]; exact hb.slots pg (h.prot pg hpg)
  ring := by
    rw [ringBase, h.fld (by decide)]
    exact hb.ring

/-! One fact per update. -/

theorem foldl {α : Type} {f : State → α → State} (xs : List α) (h : ∀ s, ∀ x ∈ xs, Leaves a s (f s x)) (s : State) :
    Leaves a s (xs.foldl f s) := by
  induction xs generalizing s with
  | nil => exact refl s
  | cons x xs ih =>
    exact (h s x List.mem_cons_self).trans (ih (fun t y hy => h t y (List.mem_cons_of_mem _ hy)) (f s x))

theorem ite {p : Prop} [Decidable p] (ht : p → Leaves a s t) (hu : ¬ p → Leaves a s u) : Leaves a s (if p then t else u) := by
  split
  · exact ht ‹_›
  · exact hu ‹_›

/-- Parts of the state that the frame is not about. -/
theorem of_eq (h : t = { s with
      clusters := t.clusters, dies := t.dies, recov := t.recov, logOrder := t.logOrder, fresh := t.fresh }) : Leaves a s t := by
  rw [h]
  exact ⟨rfl, rfl, rfl, rfl, rfl, rfl, fun _ _ _ => rfl, fun _ _ => rfl, fun _ h => h, fun _ => rfl⟩

theorem wr (s : State) {r : Reg} (i : Nat) (v : Word) (h : r ∉ placeRegs) : Leaves a s (s.wr r i v) where
  byte := rfl
  hostMem := rfl
  fab := rfl
  hif := rfl
  chip := rfl
  pending := rfl
  rd r' hr j := by rw [rd_wr, if_neg fun e : r = r' ∧ i = j => h (e.1 ▸ hr)]
  desc _ _ := rfl
  prot _ h := h
  slotPage _ := rfl

theorem setFld (s : State) {r : Reg} (i hi lo v : Nat) (h : r ∉ placeRegs) : Leaves a s (s.setFld r i hi lo v) := wr s i _ h

theorem setFlag (s : State) {r : Reg} (i b : Nat) (h : r ∉ placeRegs) : Leaves a s (s.setFlag r i b) := wr s i _ h

theorem countSat (s : State) {r : Reg} (i n : Nat) (h : r ∉ placeRegs) : Leaves a s (s.countSat r i n) := wr s i _ h

theorem countWrap (s : State) {r : Reg} (i n : Nat) (h : r ∉ placeRegs) : Leaves a s (s.countWrap r i n) := wr s i _ h

/-- A core changes, but for its Descriptor Table. -/
theorem modCore (s : State) (i : Nat) {f : Core → Core} (h : (f (s.core i)).desc = (s.core i).desc) :
    Leaves a s (s.modCore i f) where
  byte := rfl
  hostMem := rfl
  fab := rfl
  hif := rfl
  chip := rfl
  pending := rfl
  rd _ _ _ := rfl
  desc k j := by
    rw [State.desc, core_modCore]
    split
    · subst k; rw [h, State.desc]
    · rfl
  prot _ h := h
  slotPage _ := rfl

theorem modQ (s : State) (k e : Nat) (f : EngQ → EngQ) : Leaves a s (s.modQ k e f) := by
  unfold State.modQ setQ
  exact modCore s k rfl

theorem modTok (s : State) (k e id : Nat) (f : Tok → Tok) : Leaves a s (s.modTok k e id f) := modCore s k rfl

/-- A partition changes, but for its plan and its state pages. -/
theorem modPart (s : State) (p : Nat) {f : Part → Part} (hplan : (f (s.part p)).plan = (s.part p).plan)
    (hpages : (f (s.part p)).pages = (s.part p).pages) : Leaves a s (s.modPart p f) where
  byte := rfl
  hostMem := rfl
  fab := rfl
  hif := rfl
  chip := rfl
  pending := rfl
  rd _ _ _ := rfl
  desc _ _ := rfl
  prot _ h := h
  slotPage pg := by
    have hpart : ((s.modPart p f).part s.snap.part).plan = (s.part s.snap.part).plan
        ∧ ((s.modPart p f).part s.snap.part).pages = (s.part s.snap.part).pages := by
      rw [part_modPart]
      split
      · rw [‹s.snap.part = p›]; exact ⟨hplan, hpages⟩
      · exact ⟨rfl, rfl⟩
    unfold State.slotPage
    simp only [modPart_snap, hpart] <;> rfl

/-! The path of every write to memory. -/

theorem keepTables (s : State) (old m : Memory) (rs : List (Nat × Nat)) : Leaves a s (s.keepTables old m rs).1 :=
  foldl _ (fun t c _ => setFlag t c _ (by decide)) s

theorem firstTouch (s : State) (m : Memory) (rs : List (Nat × Nat)) : Leaves a s (s.firstTouch m rs).1 := by
  unfold State.firstTouch
  extract_lets hit ts g
  split
  · exact refl s
  · have hg : Leaves a s g.1 := keepTables s _ _ _
    refine (trans ?_ (countSat _ 0 _ (by decide))).trans (countSat _ 0 _ (by decide))
    exact hg.trans ⟨rfl, rfl, rfl, rfl, rfl, rfl, fun _ _ _ => rfl, fun _ _ => rfl, fun _ h => (List.mem_filter.1 h).1,
      fun _ => rfl⟩

theorem applyMem {c : Nat} (hb : Beside c a s) {m : Memory} (h : m.rd a = s.mem.rd a) (rs : List (Nat × Nat)) :
    Leaves a s (s.applyMem m rs) := by
  have hf : Leaves a s (s.firstTouch m rs).1 := firstTouch s m rs
  refine hf.trans { hostMem := rfl, fab := rfl, hif := rfl, chip := rfl, pending := rfl, rd := fun _ _ _ => rfl, desc := ?_
                    prot := fun _ h => h, slotPage := fun _ => rfl, byte := ?_ }
  · exact (rd_noReplayWords _ (noReplayWords_off (hf.beside hb).logs _) _).trans
      ((rd_firstTouch hb.slots m rs).trans (h.trans hf.byte.symm))
  · intro k i
    unfold State.applyMem State.desc State.core
    dsimp only
    rw [SMap.get_mapVals Core.reset (fun _ c => coreWrite _ c) (fun _ => coreWrite_reset _), (coreWrite_keeps _ _).1]

theorem commitMem {c : Nat} (hb : Beside c a s) {m : Memory} (h : m.rd a = s.mem.rd a) (rs : List (Nat × Nat)) :
    Leaves a s (s.commitMem m rs).1 := by
  have hk : Leaves a s (s.keepTables s.mem m rs).1 := keepTables s _ _ _
  exact hk.trans (applyMem (hk.beside hb) ((rd_keepTables s rs h).trans hk.byte.symm) rs)

theorem store {c : Nat} (hb : Beside c a s) {x : Nat} {bs : List Byte} (h : a < x ∨ x + bs.length ≤ a) :
    Leaves a s (s.store x bs) :=
  commitMem hb (Memory.rd_wrN_out _ _ h) _

end Leaves

/-! What a tensor row does on its own, beside its engine's work. -/

/-- From `s` to `t` a byte beside what a row of cluster `c` writes on its own is left, with all that its frame is about. -/
def Stays (c a : Nat) (s t : State) : Prop := Beside c a s → Leaves a s t

theorem Leaves.stays {a : Nat} {s t : State} (h : Leaves a s t) (c : Nat) : Stays c a s t := fun _ => h

namespace Stays

variable {c a : Nat} {s t u : State}

theorem refl (s : State) : Stays c a s s := fun _ => .refl s

theorem trans (h : Stays c a s t) (g : Stays c a t u) : Stays c a s u := fun hb => (h hb).trans (g ((h hb).beside hb))

theorem ite {p : Prop} [Decidable p] (ht : p → Stays c a s t) (hu : ¬ p → Stays c a s u) :
    Stays c a s (if p then t else u) := by
  split
  · exact ht ‹_›
  · exact hu ‹_›

/-- An event record goes to the cluster's Event Ring (R275). -/
theorem putEvent (s : State) {ws : List Word} (h : ws.length = 8) : Stays c a s (s.putEvent c ws) := by
  intro hb
  have hhead : s.fld .CHN_EVR_HEAD c 15 0 < 2 ^ 16 := bits_lt ..
  have hring := hb.ring
  unfold ringBase at hring
  unfold State.putEvent
  extract_lets log2n head off next
  refine .ite (fun _ => ?_) fun _ => ?_
  · exact (Leaves.countSat _ _ _ (by decide)).trans (.setFlag _ _ _ (by decide))
  · refine ((Leaves.store hb ?_).trans (.setFld _ _ _ _ _ (by decide))).trans (.of_eq rfl)
    rw [length_wordBytes, h]
    omega

/-- An entry's image goes to its place in the Replay Log (R440). -/
theorem logImage (s : State) (k e : Nat) (x : LogEntry) : Stays c a s (s.logImage k e x) := fun hb =>
  .store hb (by rw [length_wordBytes]; exact hb.logs k e x.seq)

theorem logEnter (s : State) (k e : Nat) (w : TWord) (x y : Word) : Stays c a s (s.logEnter k e w x y) := by
  unfold State.logEnter
  extract_lets entry dropped
  have hdrop : Leaves a s dropped := .ite (fun _ => (Leaves.modQ ..).trans (.setFlag _ _ _ (by decide))) fun _ => .refl s
  exact ((hdrop.trans (.modQ ..)).stays c).trans (logImage _ _ _ _)

theorem logDone (s : State) (k e seq : Nat) (w : TWord) (st : Status) : Stays c a s (s.logDone k e seq w st) := by
  unfold State.logDone
  extract_lets order marked imaged
  have hmark : Leaves a s marked := (Leaves.of_eq rfl).trans (.modQ ..)
  have himage : Stays c a marked imaged := by
    unfold imaged
    split
    · exact logImage _ _ _ _
    · exact refl _
  exact ((hmark.stays c).trans himage).trans ((Leaves.modQ ..).stays c)

end Stays

end State
end Sys2Proof.Machine

namespace Sys2Proof.Machine

/-! SUPPORT. The life of a tensor instruction, step by step: what each leaves (R169, R197 to R200, R224 to R237, R296, R440). -/

/-- A read through the Data Cache leaves the Descriptor Table. -/
theorem Core.desc_readBlock (alloc : Bool) (c : Core) (b : Nat) : (c.readBlock alloc b).desc = c.desc := by
  unfold Core.readBlock
  split
  · rfl
  · cases alloc <;> rfl

namespace State

namespace Leaves

variable {a : Nat} {s t u : State}

theorem logMod (s : State) (k e seq : Nat) (f : LogEntry → LogEntry) : Leaves a s (s.logMod k e seq f) := modQ ..

theorem holdCore (s : State) (k cause e : Nat) (st : Status) : Leaves a s (s.holdCore k cause e st) := by
  unfold State.holdCore
  refine modCore s k ?_
  split <;> rfl

theorem postTok (s : State) (k e id : Nat) (src : Word) : Leaves a s (s.postTok k e id src).1 := by
  unfold State.postTok
  extract_lets t
  split
  · exact (modTok ..).trans (setFlag _ _ _ (by decide))
  · dsimp only
    exact modTok ..

theorem consumeTok (s : State) (k e id : Nat) : Leaves a s (s.consumeTok k e id) := by
  unfold State.consumeTok
  extract_lets t ws
  have ht : Leaves a s t := modTok ..
  split
  · exact ht
  · exact ht.trans (modCore t k rfl)

theorem waitStall (s : State) (k e n : Nat) : Leaves a s (s.waitStall k e n) :=
  .ite (fun _ => countSat _ _ _ (by decide)) fun _ => refl s

theorem takeHead (s : State) (k e : Nat) (w : TWord) : Leaves a s (s.takeHead k e w) := by
  unfold State.takeHead
  extract_lets consumed freed taken
  have hconsumed : Leaves a s consumed := foldl _ (fun t id _ => consumeTok t k e id) s
  have hfreed : Leaves a consumed freed := .ite (fun _ => modCore consumed k rfl) fun _ => refl _
  have htaken : Leaves a s taken := (hconsumed.trans hfreed).trans (modQ ..)
  split
  · exact htaken.trans (.ite (fun _ => modTok ..) fun _ => refl _)
  · exact htaken

theorem markUpdate (s : State) (k e : Nat) (w : TWord) : Leaves a s (s.markUpdate k e w) := by
  unfold State.markUpdate
  extract_lets p
  exact .ite (fun _ => modPart s p rfl rfl) fun _ => refl s

theorem shadowRewritten (s : State) (k : Nat) (os : List Nat) : Leaves a s (s.shadowRewritten k os) := by
  unfold State.shadowRewritten
  split
  · exact refl s
  · exact .ite (fun _ => (modCore s k rfl).trans (countSat _ _ _ (by decide))) fun _ => refl s

theorem tagStall (s : State) (k e : Nat) (w : TWord) (bs : List Nat) (n : Nat) : Leaves a s (s.tagStall k e w bs n) :=
  .ite (fun _ => countSat _ _ _ (by decide)) fun _ => refl s

theorem cacheReads (s : State) (k e : Nat) (bs : List Nat) : Leaves a s (s.cacheReads k e bs) := by
  unfold State.cacheReads
  refine .ite (fun _ => refl s) fun _ => modCore s k ?_
  generalize s.core k = c
  induction ownHbm k bs generalizing c with
  | nil => rfl
  | cons b bs ih => rw [List.foldl_cons, ih, Core.desc_readBlock]

end Leaves

namespace Stays

variable {c a : Nat} {s t u : State}

theorem finish (s : State) (k e : Nat) (w : TWord) (seq : Nat) (stream : Bool) (met : List Status) (hc : clOfCore k = c) :
    Stays c a s (s.finish k e w seq stream met) := by
  subst hc
  unfold State.finish
  extract_lets met
  refine .ite (fun _ => putEvent _ rfl) fun _ => ?_
  split
  rename_i r met hr
  have hpost : Leaves a s r := by
    split at hr
    · cases hr; exact .refl s
    · cases hr; exact .postTok ..
  extract_lets st recorded logged
  have hrecorded : Stays (clOfCore k) a r recorded := .ite (fun _ => refl r) fun _ => putEvent _ rfl
  have hlogged : Stays (clOfCore k) a s logged := ((hpost.stays _).trans hrecorded).trans (logDone _ _ _ _ _ _)
  exact hlogged.trans (.ite (fun _ => (Leaves.holdCore ..).stays _) fun _ => refl _)

end Stays

/-! The work of the rows of queue control, the arrays and the Vector Engine. -/

/-- Row `op` of queue control, of an array or of the Vector Engine does the work `body` (R206). -/
inductive NearRow : Nat → Body → Prop where
  | nop : NearRow 0x00 bodyNone
  | flag {op : Nat} (add : Bool) (h : op = 0x02 ∨ op = 0x03) : NearRow op (bodyFlag add)
  | upass (op : Nat) (opens : Bool) : NearRow op (bodyUpass opens)
  | fmm : NearRow 0x10 bodyFmm
  | bmm : NearRow 0x20 bodyBmm
  | float {op : Nat} (h : TW.isElementwise op = true) : NearRow op bodyFloat
  | int {op : Nat} (h : TW.isElementwise op = true) : NearRow op bodyInt
  | sel : NearRow 0x37 bodySel
  | comb : NearRow 0x50 bodyComb
  | rsum : NearRow 0x51 bodyRsum
  | rmax : NearRow 0x52 bodyRmax
  | vmode : NearRow 0x68 bodyVmode
  | adam : NearRow 0x6A bodyAdam
  | mom : NearRow 0x6B bodyMom
  | optStep : NearRow 0x6C bodyOptStep

theorem nearRow_of_tensorRow {i : Instr} {core eng op : Nat} {env : Env} {body : Body}
    (h : tensorRow i = some (core, eng, op, env, body)) (he : eng ≤ 2) : NearRow op body := by
  cases i <;> simp only [tensorRow, Option.some.injEq, Prod.mk.injEq, reduceCtorEq] at h
  all_goals obtain ⟨-, heng, rfl, -, rfl⟩ := h
  case nop => exact .nop
  case setf => exact .flag false (.inl rfl)
  case addf => exact .flag true (.inr rfl)
  case upassOpen | upassClose => exact .upass ..
  case fmm => exact .fmm
  case bmm => exact .bmm
  case add | sub | mul | minF | maxF | cmp | fma | absF | neg | cvt | exp | exp2 | log | log2 | rcp | rsqrt | sqrt | div | tanh |
      sin | cos => exact .float rfl
  case iadd | isub | imin | imax | icmp | andU | orU | xorU | shl | shr => exact .int rfl
  case sel => exact .sel
  case comb => exact .comb
  case rsum => exact .rsum
  case rmax => exact .rmax
  case vmode => exact .vmode
  case optAdam => exact .adam
  case optMom => exact .mom
  case optStep => exact .optStep
  all_goals omega

/-- A byte outside every tile that an instruction writes through. -/
def OffOuts (s : State) (k : Nat) (w : TWord) (a : Nat) : Prop := ∀ i ∈ TW.outs w, Tile.Outside k (s.desc k i) a

theorem Leaves.offOuts {a k : Nat} {w : TWord} {s t : State} (h : Leaves a s t) (ho : s.OffOuts k w a) : t.OffOuts k w a := by
  intro i hi
  rw [h.desc]
  exact ho i hi

theorem outs_of_elementwise {w : TWord} (h : TW.isElementwise (TW.opcode w) = true) : TW.outs w = [bits w 84 77] := by
  have hrange : 0x30 ≤ TW.opcode w ∧ TW.opcode w ≤ 0x61 := by simpa [TW.isElementwise] using h
  simp only [TW.outs, h, if_true]
  rw [if_neg (by omega), if_neg (by omega)]

theorem outside_vargs {s : State} {k a : Nat} {w : TWord} (h : TW.isElementwise (TW.opcode w) = true) (ho : s.OffOuts k w a) :
    Tile.Outside k (vargs s k w).dd a := ho _ (by rw [outs_of_elementwise h]; exact List.mem_cons_self)

namespace Leaves

variable {a : Nat} {s t u : State}

theorem setFlagVal (s : State) (c : Nat) (dieFlag : Bool) (f : Nat) (v : Word) : Leaves a s (s.setFlagVal c dieFlag f v) := by
  unfold State.setFlagVal
  exact .ite (fun _ => of_eq rfl) fun _ => of_eq rfl

theorem updateFlag (s : State) (c : Nat) (dieFlag : Bool) (f : Nat) (add : Bool) (v : Word) :
    Leaves a s (s.updateFlag c dieFlag f add v) := setFlagVal ..

theorem remoteUpdate (s : State) (die f dev sdie : Nat) (add : Bool) (v : Word) :
    Leaves a s (s.remoteUpdate die f dev sdie add v).1 := by
  unfold State.remoteUpdate
  split
  · dsimp only
    exact updateFlag ..
  · exact foldl _ (fun t c _ => setFlag t c _ (by decide)) s

/-- SETF and ADDF of a flag of this device send nothing (R246). -/
theorem bodyFlag (s : State) (add : Bool) {k e : Nat} {w : TWord} {env : Env} (h : s.flagScope k w ≤ 2) :
    Leaves a s (Machine.bodyFlag add s k e w env).st := by
  unfold Machine.bodyFlag
  extract_lets f v c
  generalize s.flagScope k w = scope at h ⊢
  match scope with
  | 0 => exact updateFlag s c false f add v
  | 1 => exact updateFlag s c true f add v
  | 2 => exact remoteUpdate s (bits w 54 53) f s.devId (dieOfCore k) add v

theorem flagIf (s : State) (b : Bool) {r : Reg} (i k : Nat) (h : r ∉ placeRegs) : Leaves a s (s.flagIf b r i k) :=
  .ite (fun _ => setFlag s i k h) fun _ => refl s

theorem gradNonfinite (s : State) (c : Nat) (b : Bool) : Leaves a s (s.gradNonfinite c b) :=
  .ite (fun _ => modPart s _ rfl rfl) fun _ => refl s

theorem drainClusters (s : State) (m : Word) : Leaves a s (s.drainClusters m) := by
  unfold State.drainClusters
  extract_lets recov t
  have ht : Leaves a s t := of_eq rfl
  exact ht.trans (foldl _ (fun u p _ => .ite (fun _ => modPart u p rfl rfl) fun _ => refl u) t)

theorem persistentCheck (s : State) (c : Nat) : Leaves a s (s.persistentCheck c) := by
  unfold State.persistentCheck
  extract_lets now near recov t
  have ht : Leaves a s t := of_eq rfl
  exact ht.trans (.ite (fun _ => drainClusters ..) fun _ => refl t)

theorem post (s : State) (d : Nat) (code : TCode) (x v : Word) : Leaves a s (s.post d code x v) := of_eq rfl

theorem postChecks (s : State) (k e : Nat) (r : ArrayRun) : Leaves a s (s.postChecks k e r) := by
  unfold State.postChecks
  extract_lets d n t
  have ht : Leaves a s t := foldl _ (fun u _ _ => post u ..) s
  exact ht.trans (.ite (fun _ => (post t ..).trans (persistentCheck ..)) fun _ => refl t)

theorem shadowCapture (s : State) (k idx : Nat) (hasI : Bool) (dy dw : Desc) (wtrans : Bool) :
    Leaves a s (s.shadowCapture k idx hasI dy dw wtrans) := by
  unfold State.shadowCapture
  split
  · exact refl s
  · dsimp only
    split
    · exact refl s
    · exact .ite (fun _ => modCore s k rfl) fun _ => refl s

end Leaves

namespace Stays

variable {c a : Nat} {s t u : State}

/-- Rows of Y are committed once the entry names what it reads (R109, R442). -/
theorem drainArray (s : State) (k e : Nat) (w : TWord) (y : Desc) {r : ArrayRun} (h : r.mem.rd a = s.mem.rd a) :
    Stays c a s (s.drainArray k e w y r) := by
  unfold State.drainArray
  extract_lets t
  have ht : Leaves a s t := .logMod ..
  exact (ht.stays c).trans fun hb => .commitMem hb (h.trans ht.byte.symm) _

/-- A run of the Vector Engine leaves what its memory leaves. -/
theorem vecDone (s : State) (k : Nat) (w : TWord) {r : VRun} (h : r.mem.rd a = s.mem.rd a) :
    Stays c a s (Machine.vecDone s k w r).st := by
  unfold Machine.vecDone
  extract_lets outs written flushes nodes flushed flagged
  have hwritten : Stays c a s written := fun hb => .commitMem hb h _
  have hcounts : Leaves a written nodes := (Leaves.countSat _ _ _ (by decide)).trans (.countWrap _ _ _ (by decide))
  have hflushed : Leaves a nodes flushed := .ite (fun _ => .setFlag _ _ _ (by decide)) fun _ => .refl _
  have hflagged : Leaves a flushed flagged := .ite (fun _ => .setFlag _ _ _ (by decide)) fun _ => .refl _
  exact hwritten.trans (((hcounts.trans hflushed).trans hflagged).stays c)

theorem bodyFmm (s : State) (k e : Nat) {w : TWord} (env : Env) (hop : TW.opcode w = 0x10) (ho : s.OffOuts k w a) :
    Stays c a s (Machine.bodyFmm s k e w env).st := by
  have hy : Tile.Outside k (s.desc k (dfield w 44)) a := ho _ (by rw [TW.outs, hop]; exact List.mem_cons_self)
  unfold Machine.bodyFmm
  extract_lets d x wt y cluster entry cols live out map band di p m r drained checks passes stalls failed flagged
    stopped posted captured run
  have hdrained : Stays c a s drained := (drainArray s k e w y (rd_runArray m hy ..)).trans ((Leaves.modCore _ _ rfl).stays c)
  have hcounts : Leaves a drained stalls := ((Leaves.countSat _ _ _ (by decide)).trans (.countWrap _ _ _ (by decide))).trans
    (.countSat _ _ _ (by decide))
  have hflags : Leaves a stalls stopped := ((Leaves.flagIf _ _ _ _ (by decide)).trans (.flagIf _ _ _ _ (by decide))).trans
    ((Leaves.flagIf _ _ _ _ (by decide)).trans (.flagIf _ _ _ _ (by decide)))
  have hposted : Leaves a stopped posted := .postChecks ..
  have hcaptured : Leaves a posted captured := .ite (fun _ => .refl _) fun _ => .shadowCapture ..
  exact hdrained.trans (((hcounts.trans hflags).trans (hposted.trans hcaptured)).stays c)

theorem bodyBmm (s : State) (k e : Nat) {w : TWord} (env : Env) (hop : TW.opcode w = 0x20) (ho : s.OffOuts k w a) :
    Stays c a s (Machine.bodyBmm s k e w env).st := by
  have hy : Tile.Outside k (s.desc k (dfield w 60)) a := ho _ (by rw [TW.outs, hop]; exact List.mem_cons_self)
  unfold Machine.bodyBmm
  extract_lets d x b y ta tb di p m r fstream drained checks passes fpasses stalls failed flagged stopped posted captured run
  have hdrained : Stays c a s drained := (drainArray s k e w y (rd_runArray m hy ..)).trans ((Leaves.modCore _ _ rfl).stays c)
  have hpasses : Leaves a drained passes := (Leaves.countSat _ _ _ (by decide)).trans (.countWrap _ _ _ (by decide))
  have hfpasses : Leaves a passes fpasses := .ite (fun _ => .countWrap _ _ _ (by decide)) fun _ => .refl _
  have hfailed : Leaves a fpasses failed := (Leaves.countSat _ _ _ (by decide)).trans (.flagIf _ _ _ _ (by decide))
  have hflagged : Leaves a failed flagged := (Leaves.flagIf _ _ _ _ (by decide)).trans (.gradNonfinite ..)
  have hstopped : Leaves a flagged stopped := (Leaves.flagIf _ _ _ _ (by decide)).trans (.flagIf _ _ _ _ (by decide))
  have hposted : Leaves a stopped posted := .postChecks ..
  have hcaptured : Leaves a posted captured := .ite (fun _ => .refl _) fun _ => .shadowCapture ..
  have hcounts : Leaves a drained failed := (hpasses.trans hfpasses).trans hfailed
  exact hdrained.trans (((hcounts.trans (hflagged.trans hstopped)).trans (hposted.trans hcaptured)).stays c)

end Stays

/-! What the checks of R223 say of the shapes of destinations. -/

/-- The destinations of an instruction have the shapes that its operation fills (R151, R153, R154, R211, R212). -/
structure DestFits (s : State) (k : Nat) (w : TWord) : Prop where
  pair : TW.opcode w = 0x50 → Tile.isPair (s.desc k (bits w 84 77)) = true
  rowwise : TW.opcode w = 0x51 ∨ TW.opcode w = 0x52 →
    Tile.rows (s.desc k (bits w 84 77)) = Tile.rows (s.desc k (bits w 76 69)) ∧ Tile.cols (s.desc k (bits w 84 77)) = 1
  moment : TW.opcode w = 0x6A ∨ TW.opcode w = 0x6B → SameShape (s.desc k (bits w 84 77)) (s.desc k (bits w 76 69))
  second : TW.opcode w = 0x6A → SameShape (s.desc k (bits w 84 77)) (s.desc k (bits w 68 61))
  params : TW.opcode w = 0x6C → Tile.rows (s.desc k (bits w 84 77)) = 1 ∧ Tile.cols (s.desc k (bits w 84 77)) = 16

theorem Leaves.destFits {a k : Nat} {w : TWord} {s t : State} (h : Leaves a s t) (hf : s.DestFits k w) : t.DestFits k w := by
  constructor <;> simp only [h.desc]
  · exact hf.pair
  · exact hf.rowwise
  · exact hf.moment
  · exact hf.second
  · exact hf.params

theorem ite_some_eq_none {p : Prop} [Decidable p] {x : Status} {o : Option Status} :
    (if p then some x else o) = none ↔ ¬ p ∧ o = none := by
  split <;> simp [*]

theorem opcodeChecks_of_accepted {s : State} {k e : Nat} {w : TWord} {ext : List Byte} (h : s.refusal k e w ext = none) :
    s.opcodeChecks k e w ext = true := by
  simp only [refusal, ite_some_eq_none, Bool.not_eq_true, Bool.not_eq_false'] at h
  obtain ⟨-, -, -, -, -, h5, -⟩ := h
  simp only [order5Ok, Bool.and_eq_true] at h5
  exact h5.2

theorem shapeIs_iff {d : Desc} {r c : Nat} : shapeIs d r c = true ↔ Tile.rows d = r ∧ Tile.cols d = c := by
  simp [shapeIs]

theorem vecOk_of_checks {s : State} {k e : Nat} {w : TWord} {ext : List Byte} (h : s.opcodeChecks k e w ext = true)
    (hop : TW.isElementwise (TW.opcode w) = true) : s.vecOk k w = true := by
  have hrange : 0x30 ≤ TW.opcode w ∧ TW.opcode w ≤ 0x61 := by simpa [TW.isElementwise] using hop
  unfold opcodeChecks at h
  rwa [if_neg (by omega), if_neg (by omega), if_pos hop] at h

theorem optOk_of_checks {s : State} {k e : Nat} {w : TWord} {ext : List Byte} (h : s.opcodeChecks k e w ext = true)
    (hop : 0x6A ≤ TW.opcode w ∧ TW.opcode w ≤ 0x6C) : s.optOk k w = true := by
  have helem : TW.isElementwise (TW.opcode w) = false := by simp [TW.isElementwise]; omega
  unfold opcodeChecks at h
  rwa [if_neg (by omega), if_neg (by omega), helem, if_neg (by decide), if_pos hop] at h

theorem isPair_of_vecKind {d : Desc} (h : vecKind d = 2) : Tile.isPair d = true := by
  unfold vecKind at h
  refine Decidable.byContradiction fun hp => ?_
  rw [if_neg hp] at h
  repeat' split at h
  all_goals omega

theorem isPair_of_vecOk {s : State} {k : Nat} {w : TWord} (h : s.vecOk k w = true) (hop : TW.opcode w = 0x50) :
    Tile.isPair (s.desc k (bits w 84 77)) = true := by
  unfold vecOk at h
  simp only [hop, Nat.reduceLeDiff, Nat.reduceEqDiff, if_false, if_true, Bool.and_eq_true, beq_iff_eq] at h
  obtain ⟨⟨⟨-, ⟨hdest, -⟩, -⟩, -⟩, -⟩ := h
  exact isPair_of_vecKind hdest

theorem shape_of_vecOk {s : State} {k : Nat} {w : TWord} (h : s.vecOk k w = true)
    (hop : TW.opcode w = 0x51 ∨ TW.opcode w = 0x52) :
    Tile.rows (s.desc k (bits w 84 77)) = Tile.rows (s.desc k (bits w 76 69)) ∧ Tile.cols (s.desc k (bits w 84 77)) = 1 := by
  unfold vecOk at h
  simp only [Bool.and_eq_true, if_pos hop, shapeIs_iff] at h
  obtain ⟨⟨-, hshape⟩, -⟩ := h
  exact hshape

/-- The tiles of the first and the second moment are of the weights' shape (R211). -/
theorem sameShape_of_optOk {s : State} {k : Nat} {w : TWord} (h : s.optOk k w = true) (hop : TW.opcode w ≠ 0x6C) :
    SameShape (s.desc k (bits w 84 77)) (s.desc k (bits w 76 69))
      ∧ (TW.opcode w = 0x6A → SameShape (s.desc k (bits w 84 77)) (s.desc k (bits w 68 61))) := by
  unfold optOk at h
  rw [if_neg hop] at h
  simp only [Bool.and_eq_true, shapeIs_iff, Bool.or_eq_true, bne_iff_ne, ne_eq] at h
  obtain ⟨⟨⟨⟨⟨-, -, hm⟩, -⟩, hv⟩, -⟩, -⟩ := h
  exact ⟨⟨hm.1, hm.2⟩, fun hadam => (hv.resolve_left fun hne => hne hadam).2.casesOn fun hr hc => ⟨hr, hc⟩⟩

theorem params_of_optOk {s : State} {k : Nat} {w : TWord} (h : s.optOk k w = true) (hop : TW.opcode w = 0x6C) :
    Tile.rows (s.desc k (bits w 84 77)) = 1 ∧ Tile.cols (s.desc k (bits w 84 77)) = 16 := by
  unfold optOk at h
  rw [if_pos hop] at h
  simp only [Bool.and_eq_true, shapeIs_iff] at h
  obtain ⟨⟨⟨⟨⟨⟨-, hshape⟩, -⟩, -⟩, -⟩, -⟩, -⟩ := h
  exact hshape

/-- The checks at issue hold destinations to their operation's shape. -/
theorem destFits_of_accepted {s : State} {k e : Nat} {w : TWord} {ext : List Byte} (h : s.refusal k e w ext = none) :
    s.DestFits k w := by
  have hc := opcodeChecks_of_accepted h
  constructor
  case pair => exact fun hop => isPair_of_vecOk (vecOk_of_checks hc (by rw [hop]; rfl)) hop
  case rowwise =>
    exact fun hop => shape_of_vecOk (vecOk_of_checks hc (by rcases hop with hop | hop <;> rw [hop] <;> rfl)) hop
  case moment => exact fun hop => (sameShape_of_optOk (optOk_of_checks hc (by omega)) (by omega)).1
  case second => exact fun hop => (sameShape_of_optOk (optOk_of_checks hc (by omega)) (by omega)).2 hop
  case params => exact fun hop => params_of_optOk (optOk_of_checks hc (by omega)) hop

theorem Leaves.flagScope {a : Nat} {s t : State} (h : Leaves a s t) (k : Nat) (w : TWord) : t.flagScope k w = s.flagScope k w := by
  have hid : t.devId = s.devId := h.fld (by decide) 0 17 0
  unfold State.flagScope
  rw [hid]

/-- What the work of a row needs of the state it begins in: its destinations leave the byte at `a` and have the shapes that the
operation fills, and a SETF or an ADDF is of a flag of this device. -/
structure Aimed (a k op : Nat) (w : TWord) (s : State) : Prop where
  opcode : TW.opcode w = op
  outs : s.OffOuts k w a
  fits : s.DestFits k w
  scope : op = 0x02 ∨ op = 0x03 → s.flagScope k w ≤ 2

theorem Leaves.aimed {a k op : Nat} {w : TWord} {s t : State} (h : Leaves a s t) (ha : Aimed a k op w s) : Aimed a k op w t where
  opcode := ha.opcode
  outs := h.offOuts ha.outs
  fits := h.destFits ha.fits
  scope hop := by rw [h.flagScope]; exact ha.scope hop

namespace Stays

variable {c a : Nat} {s t u : State}

/-- The work of a row of queue control, of an array or of the Vector Engine leaves every byte outside its destinations. -/
theorem nearRow {op : Nat} {body : Body} (hrow : NearRow op body) (s : State) {k : Nat} (e : Nat) {w : TWord} (env : Env)
    (ha : Aimed a k op w s) : Stays c a s (body s k e w env).st := by
  obtain ⟨hop, ho, hf, hscope⟩ := ha
  have hdest (helem : TW.isElementwise op = true) : Tile.Outside k (vargs s k w).dd a :=
    outside_vargs (by rw [hop]; exact helem) ho
  cases hrow with
  | nop => exact refl s
  | flag add h => exact (Leaves.bodyFlag s add (hscope h)).stays c
  | upass _ opens => exact (Leaves.modQ s k e fun q => { q with upass := opens }).stays c
  | fmm => exact bodyFmm s k e env hop ho
  | bmm => exact bodyBmm s k e env hop ho
  | float helem => exact vecDone s k w (rd_runFloat s.mem (hdest helem) _)
  | int helem => exact vecDone s k w (rd_runInt s.mem (hdest helem))
  | sel => exact vecDone s k w (rd_runSel s.mem (hdest rfl))
  | comb =>
    have hgrad := Leaves.gradNonfinite (a := a) s (clOfCore k) ((runComb s.mem k (vargs s k w)).nonfinite && s.streamBit k w)
    exact (hgrad.stays c).trans (vecDone _ k w ((rd_runComb s.mem (hdest rfl) (hf.pair hop)).trans hgrad.byte.symm))
  | rsum =>
    obtain ⟨hr, hc⟩ := hf.rowwise (.inl hop)
    exact vecDone s k w (rd_runRsum s.mem (hdest rfl) hr hc)
  | rmax =>
    obtain ⟨hr, hc⟩ := hf.rowwise (.inr hop)
    exact vecDone s k w (rd_runRmax s.mem (hdest rfl) hr hc _)
  | vmode => exact (Leaves.setFld _ _ _ _ _ (by decide)).stays c
  | adam =>
    have houts : TW.outs w = [bits w 84 77, bits w 76 69, bits w 68 61] := by rw [TW.outs, hop]; rfl
    unfold OffOuts at ho
    simp only [houts, List.forall_mem_cons] at ho
    obtain ⟨hw, hm, hv, -⟩ := ho
    exact vecDone s k w (rd_runAdam s.mem hw hm hv (hf.moment (.inl hop)) (hf.second hop) ..)
  | mom =>
    have houts : TW.outs w = [bits w 84 77, bits w 76 69] := by rw [TW.outs, hop]; rfl
    unfold OffOuts at ho
    simp only [houts, List.forall_mem_cons] at ho
    obtain ⟨hw, hm, -⟩ := ho
    exact vecDone s k w (rd_runMom s.mem hw hm (hf.moment (.inr hop)) ..)
  | optStep =>
    obtain ⟨hr, hc⟩ := hf.params hop
    exact vecDone s k w (rd_runOptStep s.mem (ho _ (by rw [TW.outs, hop]; exact List.mem_cons_self)) hr hc ..)

end Stays

end State

end Sys2Proof.Machine

namespace Sys2Proof.Machine

/-! SUPPORT. A tensor instruction from issue to completion leaves what its destinations do not hold (R198, R200, R222 to R227). -/

namespace State

namespace Stays

variable {c a : Nat} {s t u : State}

/-- With nothing detected, an instruction's work is its engine's, after its reads (R222, R296). -/
theorem work {op k : Nat} {w : TWord} {body : Body} {env : Env} (hrow : NearRow op body) (s : State) (e : Nat)
    (ha : Aimed a k op w s) (hhits : env.hits = []) : Stays c a s (s.work k e w env body).st := by
  unfold State.work
  split
  · exact refl s
  · rw [hhits, ite_self]
    extract_lets hits answered met rewritten reads run
    have hread : Leaves a s ((rewritten.tagStall k e w reads env.hold).cacheReads k e reads) :=
      ((Leaves.shadowRewritten ..).trans (.tagStall ..)).trans (.cacheReads ..)
    exact (hread.stays c).trans (nearRow hrow _ e env (hread.aimed ha))

theorem carry {op k : Nat} {w : TWord} {body : Body} {env : Env} (hrow : NearRow op body) (s : State) (e seq : Nat)
    (extra : List Status) (ha : Aimed a k op w s) (hhits : env.hits = []) :
    Stays (clOfCore k) a s (s.carry k e w seq env extra body) := by
  unfold State.carry
  extract_lets stream descs ftz run met t idle
  have ht : Stays (clOfCore k) a s t := (work hrow s e ha hhits).trans ((Leaves.logMod ..).stays _)
  exact ht.trans (.ite (fun _ => finish _ _ _ _ _ _ _ rfl) fun _ => (Leaves.modQ ..).stays _)

/-- An instruction that passes its checks issues, works and completes, or stays in flight. -/
theorem issue {op k e : Nat} {w : TWord} {body : Body} {env : Env} (hrow : NearRow op body) (s : State) (ho : s.OffOuts k w a)
    (hop : TW.opcode w = op) (hscope : op = 0x02 ∨ op = 0x03 → s.flagScope k w ≤ 2) (hclean : s.Clean k e w env) :
    Stays (clOfCore k) a s (s.issue k e w env body) := by
  obtain ⟨hpass, -, hhits, -⟩ := hclean
  have htaken : Leaves a s (s.taken k e w env) := (Leaves.waitStall ..).trans (.takeHead ..)
  have hfits := destFits_of_accepted hpass
  have haimed : Aimed a k op w (s.taken k e w env) :=
    ⟨hop, htaken.offOuts ho, hfits, fun h => by rw [htaken.flagScope]; exact hscope h⟩
  have hissued (x y : Word) :
      Stays (clOfCore k) a (s.taken k e w env) (((s.taken k e w env).markUpdate k e w).logEnter k e w x y) :=
    ((Leaves.markUpdate ..).stays _).trans (logEnter _ _ _ _ _ _)
  unfold State.issue
  extract_lets x y stale t
  have hpass : t.refusal k e w env.ext = none := hpass
  rw [hpass]
  exact (htaken.stays _).trans fun hb =>
    (hissued x y).trans (carry hrow _ e _ _ ((hissued x y hb).aimed haimed) hhits) hb

end Stays

/-- The head that is ready issues. -/
theorem runHead_of_headReady {s : State} {k e op : Nat} {w : TWord} (env : Env) (body : Body) (h : s.HeadReady k e op w) :
    s.runHead k e op env body = s.issue k e w env body := by
  obtain ⟨hhead, hop, hmay, hwait, htags⟩ := h
  simp [runHead, hhead, hop, hmay, hwait, htags]

/-- A row of queue control, of an array or of the Vector Engine whose head issues with nothing amiss. -/
theorem Stays.runHead {a op k e : Nat} {w : TWord} {body : Body} {env : Env} {s : State} (hrow : NearRow op body)
    (ho : s.OffOuts k w a) (hready : s.HeadReady k e op w) (hscope : op = 0x02 ∨ op = 0x03 → s.flagScope k w ≤ 2)
    (hclean : s.Clean k e w env) : Stays (clOfCore k) a s (s.runHead k e op env body) := by
  rw [runHead_of_headReady env body hready]
  obtain ⟨-, hop, -⟩ := hready
  exact issue hrow s ho hop hscope hclean

end State

/-- Settles O13: an elementwise run writes its destination element by element, each apart from the others; and a row that issues
with nothing amiss writes through its destinations, its log entry, its event record and the copies of a first touch alone. -/
theorem resultsStandWhereTheyAreStoredAndNowhereElse : Obligations.ResultsStandWhereTheyAreStoredAndNowhereElse := by
  unfold Obligations.ResultsStandWhereTheyAreStoredAndNowhereElse
  refine ⟨?elementwise, ?rows⟩
  case elementwise =>
    rintro m core ftz x i j width hlines hi hj rfl
    exact ⟨code_runFloat hlines hi hj m core ftz, code_runInt hlines hi hj m core⟩
  case rows =>
    rintro i core eng op env body w s a ring hrow heng hscope hready hclean houts hlogs rfl hring hslots
    have hoff : s.OffOuts core w a := fun k hk r hr =>
      houts r (List.mem_flatMap.2 ⟨s.desc core k, List.mem_map.2 ⟨k, hk, rfl⟩, hr⟩)
    have hleaves := State.Stays.runHead (State.nearRow_of_tensorRow hrow heng) hoff hready hscope hclean ⟨hlogs, hslots, hring⟩
    exact ⟨_, exec_tensorRow s hrow, hleaves.byte, hleaves.hostMem, hleaves.fab, hleaves.hif, hleaves.chip, hleaves.pending⟩

end Sys2Proof.Machine

namespace Sys2Proof.Machine

/-! SUPPORT. Numeric assurance: the words of the Norm Watch Table, what holding and processing an observation does, case by case
of R188, and the judgement of a shadow sample (R181 to R183, R187 to R189). -/

/-! What each row answers. -/

theorem exec_normWatchObservation (p : PartId) (e : Fin 512) (n2 : Word) (s : State) :
    exec (.normWatchObservation p e n2) s = .next (s.normWatchObservation p e n2) := rfl

theorem exec_shadowSampleJudge (core : CoreId) (s : State) :
    exec (.shadowSampleJudge core) s = .next (s.shadowSampleJudge core) := rfl

namespace State

/-! The words of the Norm Watch Table (R187). -/

theorem nwW_setNwW_of_other (s : State) (e : Nat) {j k : Nat} (v : Word) (h : k ≠ j) : (s.setNwW e j v).nwW e k = s.nwW e k :=
  SMap.get_set_ne s.nw v (by omega)

@[simp] theorem setNwW_nwSeen (s : State) (e k : Nat) (v : Word) : (s.setNwW e k v).nwSeen = s.nwSeen := rfl

/-! The queue of observations (R189). -/

/-- With two steps held, the observations of a third that are not withheld only set `NW_DROPPED` (R189). -/
theorem holdNorms_of_two_held {s : State} (p : Nat) {overflow : Bool} {obs : List (Fin 512 × Word)} (hheld : 2 ≤ s.nwQ.length)
    (hkept : obs.filter (fun x => !(overflow && bit (s.nwW x.1 1) 30)) ≠ []) :
    s.holdNorms p overflow obs = s.setFlag .TTL_NUM_STATUS 0 27 := by
  unfold nwW at hkept
  rw [holdNorms, if_neg hkept, if_pos hheld]

/-- The `i`th step of the queue, of partition `p`, has `os` left to process, and leaves the queue with its last observation. -/
def withNormsLeft (s : State) (i p : Nat) (os : List (Nat × Word)) : State :=
  { s with nwQ := if os = [] then s.nwQ.eraseIdx i else s.nwQ.set i ⟨p, true, os⟩ }

@[simp] theorem withNormsLeft_nwW (s : State) (i p : Nat) (os : List (Nat × Word)) (e k : Nat) :
    (s.withNormsLeft i p os).nwW e k = s.nwW e k := rfl

@[simp] theorem withNormsLeft_nwSeen (s : State) (i p : Nat) (os : List (Nat × Word)) :
    (s.withNormsLeft i p os).nwSeen = s.nwSeen := rfl

@[simp] theorem withNormsLeft_fresh (s : State) (i p : Nat) (os : List (Nat × Word)) :
    (s.withNormsLeft i p os).fresh = s.fresh := rfl

/-- The next observation of the oldest step whose boundary has been taken leaves the queue and is processed (R189). -/
theorem normWatchObservation_of_next {s : State} {i p e : Nat} {n2 : Word} {os : List (Nat × Word)}
    (hdue : s.nwQ.findIdx? (·.due) = some i) (hstep : s.nwQ[i]? = some ⟨p, true, (e, n2) :: os⟩) :
    s.normWatchObservation p e n2 = (s.withNormsLeft i p os).observe e n2 := by
  simp [normWatchObservation, hdue, hstep, withNormsLeft]

/-! One observation (R188). -/

theorem observe_of_invalid {s : State} {e : Nat} (n2 : Word) (hvalid : bit (s.nwW e 1) 31 = false) : s.observe e n2 = s := by
  simp [observe, hvalid]

theorem observe_of_zero {s : State} {e : Nat} {n2 : Word} (hvalid : bit (s.nwW e 1) 31 = true)
    (hzero : (dec32 n2).isZero = true) : s.observe e n2 = ({ s with fresh := s.fresh + 2 } : State).normEvent e true false
      (Config.freeWord s.fresh) (Config.freeWord (s.fresh + 1) ||| 0x80000000#32) := by
  simp [observe, hvalid, hzero, drawWord]

/-- The first observation since the entry's load sets `MEAN` and `VAR` and counts `WARM` down. -/
theorem observe_of_first {s t : State} {e : Nat} {n2 x : Word} (hvalid : bit (s.nwW e 1) 31 = true)
    (hnonzero : (dec32 n2).isZero = false) (hfirst : s.nwSeen.contains e = false) (hx : x = mul32 0x3F000000#32 (log2_32 n2))
    (ht : t = ({ s.setNwW e 4 x with nwSeen := s.nwSeen ++ [e] } : State).setNwStat e x 0) :
    s.observe e n2 = if bits (s.nwW e 1) 23 16 = 0
      then ({ t with fresh := t.fresh + 1 } : State).setNwF e 23 16 (bits (Config.freeWord s.fresh) 7 0)
      else t.setNwF e 23 16 (bits (s.nwW e 1) 23 16 - 1) := by
  subst hx ht
  simp only [observe, hvalid, hnonzero, setNwW_nwSeen, hfirst, Bool.not_true, Bool.not_false, Bool.false_eq_true, if_true, if_false]
  rfl

/-- An observation after an entry's first, with x, a, d and z as R188 forms them from `MEAN` and `VAR`. -/
structure Observes (s : State) (e : Nat) (n2 x a d z : Word) : Prop where
  valid : bit (s.nwW e 1) 31 = true
  nonzero : (dec32 n2).isZero = false
  seen : e ∈ s.nwSeen
  x_eq : x = mul32 0x3F000000#32 (log2_32 n2)
  a_eq : a = enc32 (.fin false 1 (-((bits (s.nwW e 1) 29 27 : Int) + 1)))
  d_eq : d = sub32 x (s.nwW e 2)
  z_eq : z = div32 (abs32 d) (max32 (sqrt32 (s.nwW e 3)) 0x3D800000#32)

namespace Observes

variable {s : State} {e : Nat} {n2 x a d z : Word}

/-- In warm-up an observation is absorbed. -/
theorem observe_of_warming (h : s.Observes e n2 x a d z) (hwarm : bits (s.nwW e 1) 23 16 ≠ 0) :
    s.observe e n2 = ((s.setNwW e 4 x).setNwF e 23 16 (bits (s.nwW e 1) 23 16 - 1)).absorb e a d := by
  obtain ⟨hvalid, hnonzero, hseen, rfl, rfl, rfl, rfl⟩ := h
  simp [observe, hvalid, hnonzero, hseen, hwarm, nwW_setNwW_of_other]

/-- z at `Z_ALARM` is an alarm, not absorbed; the fourth in a row sets a new level. -/
theorem observe_of_alarm (h : s.Observes e n2 x a d z) (hwarm : bits (s.nwW e 1) 23 16 = 0)
    (halarm : (sixteenth (bits (s.nwW e 1) 7 0)).le (dec32 z) = true) {t : State}
    (ht : t = (s.setNwW e 4 x).normEvent e true true x (if bit d 31 then neg32 z else z)) :
    s.observe e n2 = if bits (s.nwW e 1) 26 24 + 1 < 4 then t.setNwF e 26 24 (bits (s.nwW e 1) 26 24 + 1)
      else ((t.setNwF e 26 24 0).setNwStat e x 0).setNwF e 23 16 16 := by
  obtain ⟨hvalid, hnonzero, hseen, rfl, rfl, rfl, rfl⟩ := h
  simp [observe, hvalid, hnonzero, hseen, hwarm, nwW_setNwW_of_other, halarm, ht]

/-- z below `Z_ALARM` is absorbed, after the warning of one at `Z_WARN`. -/
theorem observe_of_below_alarm (h : s.Observes e n2 x a d z) (hwarm : bits (s.nwW e 1) 23 16 = 0)
    (halarm : (sixteenth (bits (s.nwW e 1) 7 0)).le (dec32 z) = false) :
    s.observe e n2 = (if (sixteenth (bits (s.nwW e 1) 15 8)).le (dec32 z)
      then (s.setNwW e 4 x).normEvent e false true x (if bit d 31 then neg32 z else z) else s.setNwW e 4 x).absorb e a d := by
  obtain ⟨hvalid, hnonzero, hseen, rfl, rfl, rfl, rfl⟩ := h
  simp [observe, hvalid, hnonzero, hseen, hwarm, nwW_setNwW_of_other, halarm]

end Observes

/-! The judgement of a shadow sample (R181 to R183). -/

/-- The core's Shadow Buffer holds the complete sample `sh` of `n` channels; its reference strip, numerator, denominator and mark
of a non-finite value are those that the Vector Engine forms. -/
structure Judges (s : State) (core : Nat) (sh : Shadow) (n : Nat) (r : List (List Word)) (num den : Word) (bad : Bool) : Prop where
  holds : (s.core core).shadow = some sh
  complete : sh.n = some n
  strip_eq : r = (sh.x.take sh.y.length).map (s.stripRow core sh n)
  num_eq : num = (rsumPair (((sh.y.zip r).flatMap fun p => (p.1.zip p.2).map fun q => sub32 q.1 q.2).map fun x => mul32 x x)).1
  den_eq : den = (rsumPair (r.flatMap fun l => l.map fun x => mul32 x x)).1
  bad_eq : bad = (sh.x.any (fun l => l.any (codeNonfinite 3)) || sh.y.any (fun l => l.any isNonfinite32)
    || r.any (fun l => l.any isNonfinite32) || isNonfinite32 num || isNonfinite32 den)

/-- The alarm level of the format's pair (R182, R184). -/
def alarmLevel (sh : Shadow) : Nat := if sh.gradient then bits sh.thr 31 24 else bits sh.thr 15 8

/-- The warn level of the format's pair (R182, R184). -/
def warnLevel (sh : Shadow) : Nat := if sh.gradient then bits sh.thr 23 16 else bits sh.thr 7 0

/-- A sample that is judged leaves the Shadow Buffer. -/
def shadowTaken (s : State) (core : Nat) : State := s.modCore core fun c => { c with shadow := none }

/-- A complete sample leaves the Shadow Buffer; it counts as lost, or its judgement counts and posts by the levels. -/
theorem Judges.shadowSampleJudge {s : State} {core n : Nat} {sh : Shadow} {r : List (List Word)} {num den : Word} {bad : Bool}
    (h : s.Judges core sh n r num den bad) : s.shadowSampleJudge core =
      if bad then (s.shadowTaken core).countSat .TTL_SHADOW_LOST 0 1
      else if levelReached (alarmLevel sh) num den then
        ((((s.shadowTaken core).countWrap .TTL_SHADOW_DONE 0 1).setFlag .TTL_NUM_STATUS 0 30).countSat
          .TTL_SHADOW_ALARM_COUNT 0 1).postMore (dieOfCore core) .shadowAlarm sh.tid (div32 num den) [BitVec.ofNat 32 core]
      else if levelReached (warnLevel sh) num den then
        ((((s.shadowTaken core).countWrap .TTL_SHADOW_DONE 0 1).setFlag .TTL_NUM_STATUS 0 31).countSat
          .TTL_SHADOW_WARN_COUNT 0 1).postMore (dieOfCore core) .shadowWarn sh.tid (div32 num den) [BitVec.ofNat 32 core]
      else (s.shadowTaken core).countWrap .TTL_SHADOW_DONE 0 1 := by
  obtain ⟨hshadow, hn, rfl, rfl, rfl, rfl⟩ := h
  simp only [State.shadowSampleJudge, hshadow, hn]
  rfl

end State

/-- Settles O27: the queue gives up its next observation, which R188 processes case by case, and a complete sample is judged. -/
theorem numericAssuranceRowsComplete : Obligations.NumericAssuranceRowsComplete := by
  unfold Obligations.NumericAssuranceRowsComplete
  refine ⟨?third, ?valid, ?invalid, ?judge⟩
  case third =>
    intro p overflow obs s hheld hkept
    exact State.holdNorms_of_two_held p hheld hkept
  case valid =>
    intro i p e n2 os s u hdue hstep hvalid hu
    obtain rfl : u = s.withNormsLeft i p os := hu
    rw [exec_normWatchObservation, State.normWatchObservation_of_next hdue hstep]
    simp only [← s.withNormsLeft_nwW i p os, ← s.withNormsLeft_nwSeen i p os, ← s.withNormsLeft_fresh i p os] at hvalid ⊢
    refine ⟨fun hzero => ?zero, fun hnonzero hnew x t hx ht => ?first, ?later⟩
    case zero => rw [State.observe_of_zero hvalid hzero]
    case first => exact congrArg Host.Outcome.next (State.observe_of_first hvalid hnonzero hnew hx ht)
    case later =>
      rintro hnonzero hold x a d sigma z w run t hx ha hd rfl hz rfl rfl rfl
      have h : (s.withNormsLeft i p os).Observes e n2 x a d z := ⟨hvalid, hnonzero, List.contains_iff_mem.1 hold, hx, ha, hd, hz⟩
      refine ⟨fun hwarm => ?warming, fun hwarm halarm v hv => ?alarming,
        fun hwarm halarm => ⟨fun hwarn => ?warning, fun hwarn => ?quiet⟩⟩
      case warming => rw [h.observe_of_warming hwarm]
      case alarming => rw [h.observe_of_alarm hwarm halarm hv]
      case warning => rw [h.observe_of_below_alarm hwarm halarm, if_pos hwarn]
      case quiet => rw [h.observe_of_below_alarm hwarm halarm, hwarn, if_neg Bool.false_ne_true]
  case invalid =>
    intro i p e n2 os s hdue hstep hinvalid
    rw [← s.withNormsLeft_nwW i p os] at hinvalid
    rw [exec_normWatchObservation, State.normWatchObservation_of_next hdue hstep, State.observe_of_invalid n2 hinvalid,
      State.withNormsLeft]
  case judge =>
    rintro core sh n s hshadow hn r num den bad u hr hnum hden hbad rfl
    have h : s.Judges core sh n r num den bad := ⟨hshadow, hn, hr, hnum, hden, hbad⟩
    rw [exec_shadowSampleJudge, h.shadowSampleJudge]
    simp only [State.alarmLevel, State.warnLevel, State.shadowTaken]
    refine ⟨fun hlost => ?lost, fun hfin halarm => ?alarm, fun hfin halarm hwarn => ?warn, fun hfin halarm hwarn => ?quiet⟩
    case lost => simp only [hlost, if_true]
    case alarm => simp only [hfin, halarm, if_true, Bool.false_eq_true, if_false]
    case warn => simp only [hfin, halarm, hwarn, if_true, Bool.false_eq_true, if_false]
    case quiet => simp only [hfin, halarm, hwarn, Bool.false_eq_true, if_false]

end Sys2Proof.Machine

namespace Sys2Proof.Machine

/-! SUPPORT. The issue of a tensor instruction: the head that issues, the head that a check refuses, and the core that a
context-level fault holds (R198, R223, R224, R460). -/

namespace State

variable {s : State} {k e : Nat} {w : TWord}

/-- A core that a context-level fault holds issues nothing (R224, R460). -/
theorem mayIssue_of_held (e : Nat) (w : TWord) (h : (s.core k).hold.isSome = true) : s.mayIssue k e w = false := by
  simp [mayIssue, Option.isNone_eq_false_iff.2 h]

theorem runHead_of_held (e op : Nat) (env : Env) (body : Body) (h : (s.core k).hold.isSome = true) :
    s.runHead k e op env body = s := by
  unfold runHead
  split
  · rfl
  · rw [mayIssue_of_held e _ h]; rfl

theorem issue_of_refused {env : Env} {st : Status} (body : Body)
    (h : (s.taken k e w env).refusal k e w env.ext = some st) : s.issue k e w env body = (s.taken k e w env).refuse k e w st := by
  unfold taken at h ⊢
  simp only [issue, h]

theorem issue_of_passed {env : Env} (body : Body) (h : (s.taken k e w env).refusal k e w env.ext = none) :
    s.issue k e w env body = (s.issued k e w env).carry k e w (s.issueSeq k e w env) env (staleMet (s.q k e).restale w) body := by
  unfold issueSeq issued
  unfold taken at h ⊢
  simp only [issue, h]

/-! What leaving the queue and being refused leave of a core's hold. -/

theorem hold_consumeTok (s : State) (k e id i : Nat) : ((s.consumeTok k e id).core i).hold = (s.core i).hold := by
  unfold consumeTok
  extract_lets t ws
  have ht : (t.core i).hold = (s.core i).hold := hold_modTok ..
  split
  · exact ht
  · rw [core_modCore]
    split <;> simp_all

theorem hold_consumeToks (ids : List Nat) (s : State) (k e i : Nat) :
    ((ids.foldl (fun t id => t.consumeTok k e id) s).core i).hold = (s.core i).hold := by
  induction ids generalizing s with
  | nil => rfl
  | cons id ids ih => rw [List.foldl_cons, ih, hold_consumeTok]

theorem hold_takeHead (s : State) (k e : Nat) (w : TWord) (i : Nat) : ((s.takeHead k e w).core i).hold = (s.core i).hold := by
  unfold takeHead
  extract_lets consumed freed left
  have hleft : (left.core i).hold = (s.core i).hold := by
    have hfreed : (freed.core i).hold = (consumed.core i).hold := by
      unfold freed
      split
      · rw [core_modCore]; split <;> simp_all
      · rfl
    rw [hold_modQ, hfreed, hold_consumeToks]
  split
  · split
    · rw [hold_modTok, hleft]
    · exact hleft
  · exact hleft

theorem hold_taken (s : State) (k e : Nat) (w : TWord) (env : Env) (i : Nat) :
    ((s.taken k e w env).core i).hold = (s.core i).hold := by
  rw [taken, hold_takeHead, waitStall]
  split <;> rfl

theorem hold_refusedStream (s : State) (k : Nat) (w : TWord) (i : Nat) :
    ((s.refusedStream k w).1.core i).hold = (s.core i).hold := by
  unfold refusedStream
  split <;> rfl

theorem hold_dropPend (s : State) (k : Nat) (w : TWord) (i : Nat) : ((s.dropPend k w).core i).hold = (s.core i).hold := by
  unfold dropPend
  split
  · exact hold_modTok ..
  · rfl

/-- A context-level fault of a core that none held (R458). -/
theorem hold_holdCore_of_none {k : Nat} (cause e : Nat) (st : Status) (h : (s.core k).hold = none) :
    ((s.holdCore k cause e st).core k).hold = some ⟨cause, e, st⟩ := by
  simp [holdCore, h]

/-- A refusal holds the core (R224). -/
theorem hold_refuse_of_none (w : TWord) {st : Status} (h : (s.core k).hold = none) :
    ((s.refuse k e w st).core k).hold = some ⟨0x08, e, st⟩ :=
  hold_holdCore_of_none _ _ _ (by rw [putEvent_hold, hold_dropPend, hold_refusedStream, h])

end State

/-- Settles O4: a head that is ready and passes its checks is carried out once it stands in its log. -/
theorem tensorRowsIssueTheirHead : Obligations.TensorRowsIssueTheirHead := by
  unfold Obligations.TensorRowsIssueTheirHead
  intro i core eng op env body w s hrow hready hpass
  rw [exec_tensorRow s hrow, State.runHead_of_headReady env body hready, State.issue_of_passed body hpass]

/-- Settles O6: the checks come before the Replay Log and before any work. -/
theorem refusedHeadHoldsItsCore : Obligations.RefusedHeadHoldsItsCore := by
  unfold Obligations.RefusedHeadHoldsItsCore
  intro i core eng op env body w s st hrow hready hfail
  refine ⟨?_, fun hfree => State.hold_refuse_of_none w (by rw [State.hold_taken, hfree])⟩
  rw [exec_tensorRow s hrow, State.runHead_of_headReady env body hready, State.issue_of_refused body hfail]

/-- Settles O7: a core under a hold may issue nothing. -/
theorem heldCoreIssuesNothing : Obligations.HeldCoreIssuesNothing := by
  unfold Obligations.HeldCoreIssuesNothing
  intro i core eng op env body s hrow hheld
  rw [exec_tensorRow s hrow, State.runHead_of_held eng op env body hheld]

end Sys2Proof.Machine

namespace Sys2Proof.Machine

/-! SUPPORT. TDISP and TDISPM: which instruction words are theirs, what their cycles leave, and the queues that a dispatched word
enters (R195, R232, R260, R261, R265, R268). -/

namespace State

variable {s : State} {c : Nat}

/-! The instruction words of the two rows (R257, R260). -/

theorem fields_of_chnKind {w len : Nat} (hfetch : s.chnFetch c = .ok (w, len)) :
    (s.chnKind c = .tdisp → Rv.opOf w = 0x0B ∧ Rv.f3Of w = 0) ∧ (s.chnKind c = .tdispm → Rv.opOf w = 0x0B ∧ Rv.f3Of w = 1) := by
  unfold chnKind
  rw [hfetch]
  dsimp only
  constructor
  all_goals
    intro hkind
    repeat' split at hkind
    all_goals cases hkind
    exact ⟨‹_›, ‹_›⟩

theorem Fetches.kind {k : ChnKind} {w len : Nat} (h : s.Fetches c k w len) : s.chnKind c = k := by
  have hready := h.1
  simp only [chnReady, Bool.and_eq_true, beq_iff_eq] at hready
  exact hready.2

theorem execRv_custom {w : Nat} (s : State) (c : Nat) (pc : DWord) (len : Nat) (hop : Rv.opOf w = 0x0B) :
    s.execRv c w pc len = s.execCustom c w pc len := by
  simp only [execRv, hop]

/-- TDISP dispatches the pair of its source registers (R260). -/
theorem execCustom_tdisp {w : Nat} (s : State) (c : Nat) (pc : DWord) (len : Nat) (hf3 : Rv.f3Of w = 0) (hf7 : Rv.f7Of w = 0)
    (hrd : Rv.rdOf w = 0) : s.execCustom c w pc len = s.execDispatch c
      (BitVec.ofNat 128 (((s.chn c).reg (Rv.rs1Of w)).toNat + ((s.chn c).reg (Rv.rs2Of w)).toNat * 2 ^ 64)) pc len := by
  simp [execCustom, hf3, hf7, hrd]

/-- Sixteen aligned bytes of Data Memory raise no exception (R260). -/
theorem dmTrap_of_aligned {a : Nat} (halign : a % 16 = 0) (hlo : 0x100000 ≤ a) (hhi : a + 16 ≤ 0x140000) : dmTrap a 16 = none := by
  simp [dmTrap, Rv.addrTrap, halign, hlo, hhi]

/-- TDISPM dispatches sixteen bytes of Data Memory (R260). -/
theorem execCustom_tdispm {w a : Nat} (s : State) (c : Nat) (pc : DWord) (len : Nat) (hf3 : Rv.f3Of w = 1) (hrd : Rv.rdOf w = 0)
    (ha : ((s.chn c).reg (Rv.rs1Of w) + Rv.immI w).toNat = a) (htrap : dmTrap a 16 = none) :
    s.execCustom c w pc len
      = s.execDispatch c (BitVec.ofNat 128 (leNat ((s.chn c).dm.rdN (a - 0x100000) 16))) pc len := by
  simp [execCustom, hf3, hrd, ha, htrap]

/-! The cycles that pass before an instruction executes change only the Chanter's clocks and its WFI (R259). -/

theorem chnClock_keeps (s : State) (c n m : Nat) :
    ((s.chnClock c n m).chn c).x = (s.chn c).x ∧ ((s.chnClock c n m).chn c).dm = (s.chn c).dm
      ∧ ((s.chnClock c n m).chn c).armed = (s.chn c).armed ∧ ((s.chnClock c n m).chn c).tdispcnt = (s.chn c).tdispcnt := by
  simp [chnClock, chnTick]

theorem reg_chnClock (s : State) (c n m r : Nat) : ((s.chnClock c n m).chn c).reg r = (s.chn c).reg r := by
  rw [Chanter.reg, (chnClock_keeps s c n m).1, Chanter.reg]

theorem q_chnClock (s : State) (c n m k e : Nat) : (s.chnClock c n m).q k e = s.q k e := rfl

theorem hasRoom_chnClock (s : State) (c n m : Nat) (x : TWord) : (s.chnClock c n m).hasRoom c x = s.hasRoom c x := rfl

theorem disabledOf_chnClock (s : State) (c n m mask : Nat) : (s.chnClock c n m).disabledOf c mask = s.disabledOf c mask := rfl

/-! A dispatch (R195, R232, R261, R268). -/

theorem execDispatch_of_room {x : TWord} (pc : DWord) (len : Nat) (hon : s.disabledOf c (TW.coreMask x) = 0)
    (hroom : s.hasRoom c x = true) : s.execDispatch c x pc len
      = .next (s.dispatch c x (pc + BitVec.ofNat 64 len)).1 (s.dispatch c x (pc + BitVec.ofNat 64 len)).2 := by
  simp [execDispatch, hon, hroom]

/-- A word enters the queue of its engine in one core, at the end. -/
theorem items_enqueue (s : State) (core : Nat) (x : TWord) (k e : Nat) :
    ((s.enqueue core x).q k e).items = (s.q k e).items ++ if k = core ∧ e = routeOf x then [x] else [] := by
  have hentered : ((s.modQ core (routeOf x) fun q => { q with items := q.items ++ [x] }).q k e).items
      = (s.q k e).items ++ if k = core ∧ e = routeOf x then [x] else [] := by
    rw [q_modQ]
    split
    · rename_i h; rw [h.1, h.2]
    · rw [List.append_nil]
  unfold enqueue
  split
  · exact hentered
  · rw [q_modTok, hentered]

/-- A word enters the queues of its engine in some different cores of a cluster. -/
theorem items_enqueues (c : Nat) (x : TWord) (k e : Nat) {is : List Nat} (his : is.Nodup) (s : State) :
    ((is.foldl (fun t i => t.enqueue (8 * c + i) x) s).q k e).items
      = (s.q k e).items ++ if (∃ i ∈ is, k = 8 * c + i) ∧ e = routeOf x then [x] else [] := by
  induction is generalizing s with
  | nil => simp
  | cons i is ih =>
    obtain ⟨hnew, his⟩ := List.nodup_cons.1 his
    rw [List.foldl_cons, ih his, items_enqueue, List.append_assoc]
    congr 1
    by_cases hk : k = 8 * c + i
    · have hrest : ¬ ∃ j ∈ is, k = 8 * c + j := fun ⟨j, hj, hkj⟩ => hnew ((by omega : j = i) ▸ hj)
      rw [if_neg (c := _ ∧ _) fun h => hrest h.1, List.append_nil]
      simp [hk]
    · simp [hk]

/-- The cores that a word selects in a cluster. -/
theorem exists_selected_iff (c k : Nat) (x : TWord) : (∃ i ∈ selected x, k = 8 * c + i) ↔ k / 8 = c ∧ k % 8 ∈ selected x := by
  constructor
  · rintro ⟨i, hi, rfl⟩
    have hlt : i < 8 := List.mem_range.1 (List.mem_filter.1 hi).1
    rw [show (8 * c + i) % 8 = i by omega]
    exact ⟨by omega, hi⟩
  · rintro ⟨rfl, hk⟩
    exact ⟨_, hk, by omega⟩

/-- Entering queues changes the cores alone. -/
theorem enqueue_keeps (s : State) (core : Nat) (x : TWord) :
    (s.enqueue core x).mem = s.mem ∧ (s.enqueue core x).clusters = s.clusters := by
  unfold enqueue
  split <;> exact ⟨rfl, rfl⟩

theorem enqueues_keep (c : Nat) (x : TWord) (is : List Nat) (s : State) :
    (is.foldl (fun t i => t.enqueue (8 * c + i) x) s).mem = s.mem
      ∧ (is.foldl (fun t i => t.enqueue (8 * c + i) x) s).clusters = s.clusters := by
  induction is generalizing s with
  | nil => exact ⟨rfl, rfl⟩
  | cons i is ih =>
    obtain ⟨hmem, hclusters⟩ := enqueue_keeps s (8 * c + i) x
    obtain ⟨hm, hc⟩ := ih (s.enqueue (8 * c + i) x)
    exact ⟨hm.trans hmem, hc.trans hclusters⟩

/-- The word has entered its queues, and has been counted (R195, R276). -/
def dispatched (s : State) (c : Nat) (x : TWord) : State :=
  ((selected x).foldl (fun t i => t.enqueue (8 * c + i) x) s).modChn c fun h => { h with tdispcnt := h.tdispcnt + 1 }

theorem items_dispatched (s : State) (c : Nat) (x : TWord) (k e : Nat) :
    ((s.dispatched c x).q k e).items
      = (s.q k e).items ++ if k / 8 = c ∧ k % 8 ∈ selected x ∧ e = routeOf x then [x] else [] := by
  have h := items_enqueues c x k e (is := selected x) (List.nodup_range.filter _) s
  simp only [exists_selected_iff, and_assoc] at h
  exact h

theorem dispatched_keeps (s : State) (c : Nat) (x : TWord) :
    (s.dispatched c x).mem = s.mem ∧ ((s.dispatched c x).chn c).armed = (s.chn c).armed
      ∧ ((s.dispatched c x).chn c).tdispcnt = (s.chn c).tdispcnt + 1 := by
  obtain ⟨hmem, hclusters⟩ := enqueues_keep c x (selected x) s
  have hchn : ((selected x).foldl (fun t i => t.enqueue (8 * c + i) x) s).chn c = s.chn c := by
    rw [chn, cluster, hclusters, chn, cluster]
  simp [dispatched, hchn, hmem]

/-- A dispatch takes an armed switch where the word has `LAST` (R268). -/
theorem dispatch_eq (s : State) (c : Nat) (x : TWord) (next : DWord) : s.dispatch c x next =
    if TW.last x && (s.chn c).armed then
      (((s.dispatched c x).modChn c fun h => { h with active := !h.active, armed := false, mip := setBit h.mip 18 }).setFlag
        .CHN_STATUS c 25, BitVec.ofNat 64 ((s.dispatched c x).fld .CHN_SLOT_CTRL c 16 2 * 4))
    else (s.dispatched c x, next) := by
  rw [← (dispatched_keeps s c x).2.1]
  rfl

/-- What every dispatch does: the word stands at the end of its queues and counts; the pc goes on but where a switch is taken. -/
theorem dispatch_enters (s : State) (c : Nat) (x : TWord) (next : DWord) :
    (s.dispatch c x next).1.mem = s.mem
      ∧ (∀ k e, ((s.dispatch c x next).1.q k e).items
          = (s.q k e).items ++ if k / 8 = c ∧ k % 8 ∈ selected x ∧ e = routeOf x then [x] else [])
      ∧ ((s.dispatch c x next).1.chn c).tdispcnt = (s.chn c).tdispcnt + 1
      ∧ (TW.last x = false ∨ (s.chn c).armed = false → (s.dispatch c x next).2 = next) := by
  obtain ⟨hmem, -, hcount⟩ := dispatched_keeps s c x
  rw [dispatch_eq]
  split
  case isTrue hlast =>
    have hswitch := Bool.and_eq_true_iff.1 hlast
    refine ⟨hmem, items_dispatched s c x, by simp [hcount], fun hnone => ?_⟩
    simp [hswitch] at hnone
  case isFalse => exact ⟨hmem, items_dispatched s c x, hcount, fun _ => rfl⟩

/-- Retiring leaves all but the pc and `minstret` of the Chanter (R259). -/
theorem chnRetire_keeps (s : State) (c : Nat) (pc : DWord) (wrote : Bool) :
    (s.chnRetire c pc wrote).mem = s.mem ∧ (∀ k e, (s.chnRetire c pc wrote).q k e = s.q k e)
      ∧ ((s.chnRetire c pc wrote).chn c).tdispcnt = (s.chn c).tdispcnt ∧ ((s.chnRetire c pc wrote).chn c).pc = pc := by
  refine ⟨rfl, fun _ _ => rfl, ?_, ?_⟩ <;> simp [chnRetire]

/-- The word that a TDISP or a TDISPM of a Chanter dispatches (R260). -/
structure Dispatches (s : State) (c : Nat) (k : ChnKind) (w len : Nat) (x : TWord) : Prop where
  fetches : s.Fetches c k w len
  runs (n m : Nat) : (s.chnClock c n m).execRv c w (s.chn c).pc len = (s.chnClock c n m).execDispatch c x (s.chn c).pc len

theorem Dispatches.of_tdisp {w len : Nat} (h : s.Fetches c .tdisp w len) (hf7 : Rv.f7Of w = 0) (hrd : Rv.rdOf w = 0) :
    s.Dispatches c .tdisp w len
      (BitVec.ofNat 128 (((s.chn c).reg (Rv.rs1Of w)).toNat + ((s.chn c).reg (Rv.rs2Of w)).toNat * 2 ^ 64)) where
  fetches := h
  runs n m := by
    obtain ⟨hop, hf3⟩ := (fields_of_chnKind h.2).1 h.kind
    rw [execRv_custom _ _ _ _ hop, execCustom_tdisp _ _ _ _ hf3 hf7 hrd]
    simp only [reg_chnClock]

theorem Dispatches.of_tdispm {w len a : Nat} (h : s.Fetches c .tdispm w len) (hrd : Rv.rdOf w = 0)
    (ha : ((s.chn c).reg (Rv.rs1Of w) + Rv.immI w).toNat = a) (htrap : dmTrap a 16 = none) :
    s.Dispatches c .tdispm w len (BitVec.ofNat 128 (leNat ((s.chn c).dm.rdN (a - 0x100000) 16))) where
  fetches := h
  runs n m := by
    obtain ⟨hop, hf3⟩ := (fields_of_chnKind h.2).2 h.kind
    rw [execRv_custom _ _ _ _ hop, execCustom_tdispm _ _ _ _ hf3 hrd (by rw [reg_chnClock, ha]) htrap,
      (chnClock_keeps s c n m).2.1]

/-- A TDISP or a TDISPM whose queues have room retires once its word is dispatched (R260, R263, R265). -/
theorem Dispatches.chnRow {k : ChnKind} {w len : Nat} {x : TWord} (h : s.Dispatches c k w len x) (n m : Nat)
    (hon : s.disabledOf c (TW.coreMask x) = 0) (hroom : s.hasRoom c x = true) :
    s.chnRow c k n m
      = ((s.chnClock c n m).dispatch c x ((s.chn c).pc + BitVec.ofNat 64 len)).1.chnRetire c
        ((s.chnClock c n m).dispatch c x ((s.chn c).pc + BitVec.ofNat 64 len)).2 (writesInstret w) := by
  rw [chnRow_of_fetches n m h.fetches, h.runs, execDispatch_of_room _ _ ((disabledOf_chnClock ..).trans hon)
    ((hasRoom_chnClock ..).trans hroom)]

/-- What the row of a dispatch leaves. -/
theorem Dispatches.enters {k : ChnKind} {w len : Nat} {x : TWord} (h : s.Dispatches c k w len x) (n m : Nat)
    (hon : s.disabledOf c (TW.coreMask x) = 0) (hroom : s.hasRoom c x = true) :
    (s.chnRow c k n m).mem = s.mem
      ∧ (∀ core eng, ((s.chnRow c k n m).q core eng).items = (s.q core eng).items
          ++ (if core / 8 = c ∧ core % 8 ∈ State.selected x ∧ eng = State.routeOf x then [x] else []))
      ∧ ((s.chnRow c k n m).chn c).tdispcnt = (s.chn c).tdispcnt + 1
      ∧ (TW.last x = false ∨ (s.chn c).armed = false → ((s.chnRow c k n m).chn c).pc = (s.chn c).pc + BitVec.ofNat 64 len) := by
  rw [h.chnRow n m hon hroom]
  obtain ⟨-, -, harmed, hcount⟩ := chnClock_keeps s c n m
  obtain ⟨hmem, hitems, hdisp, hpc⟩ := (s.chnClock c n m).dispatch_enters c x ((s.chn c).pc + BitVec.ofNat 64 len)
  generalize (s.chnClock c n m).dispatch c x ((s.chn c).pc + BitVec.ofNat 64 len) = r at hmem hitems hdisp hpc ⊢
  obtain ⟨hm, hq, ht, hp⟩ := r.1.chnRetire_keeps c r.2 (writesInstret w)
  rw [hm, hmem, ht, hdisp, hcount, hp]
  refine ⟨rfl, fun core eng => ?_, rfl, fun hlast => hpc (by rwa [harmed])⟩
  rw [hq, hitems, q_chnClock]

end State

/-- Settles O16: both rows dispatch a word, and every dispatch with room enters the queues that the word selects. -/
theorem tdispEntersEverySelectedQueue : Obligations.TdispEntersEverySelectedQueue := by
  unfold Obligations.TdispEntersEverySelectedQueue
  rintro i c cycles aon w len s x hrd (⟨rfl, hfetch, hf7, rfl⟩ | ⟨a, rfl, hfetch, rfl, halign, hlo, hhi, rfl⟩) hon hroom
  case inl =>
    have hdisp := State.Dispatches.of_tdisp hfetch hf7 hrd
    exact ⟨_, exec_chnInstr s rfl, hdisp.enters cycles aon hon hroom⟩
  case inr =>
    have hdisp := State.Dispatches.of_tdispm hfetch hrd rfl (State.dmTrap_of_aligned halign hlo hhi)
    exact ⟨_, exec_chnInstr s rfl, hdisp.enters cycles aon hon hroom⟩

end Sys2Proof.Machine

namespace Sys2Proof.Machine

/-! SUPPORT. Queues with nothing in flight: what a tensor instruction's issue and completion bring to no queue's flight (R198, R200). -/

/-- A read through the Data Cache leaves the queues. -/
theorem Core.q_readBlock (alloc : Bool) (c : Core) (b : Nat) : (c.readBlock alloc b).q = c.q := by
  unfold Core.readBlock
  split
  · rfl
  · cases alloc <;> rfl

namespace State

/-- From `s` to `t` no queue with nothing in flight comes to have an instruction in flight. -/
structure Quiet (s t : State) : Prop where
  flight : ∀ k e, (s.q k e).flight = [] → (t.q k e).flight = []

namespace Quiet

variable {s t u : State}

theorem refl (s : State) : Quiet s s := ⟨fun _ _ h => h⟩

theorem trans (h : Quiet s t) (g : Quiet t u) : Quiet s u := ⟨fun k e hk => g.flight k e (h.flight k e hk)⟩

theorem foldl {α : Type} {f : State → α → State} (xs : List α) (h : ∀ s, ∀ x ∈ xs, Quiet s (f s x)) (s : State) :
    Quiet s (xs.foldl f s) := List.foldlRecOn (motive := Quiet s) xs f (refl s) fun t ht x hx => ht.trans (h t x hx)

/-- A run of steps that carry a value along. -/
theorem foldl_fst {α β : Type} {f : State × β → α → State × β} (xs : List α) (h : ∀ x a, Quiet x.1 (f x a).1) (x : State × β) :
    Quiet x.1 (xs.foldl f x).1 :=
  List.foldlRecOn (motive := fun y => Quiet x.1 y.1) xs f (refl x.1) fun y hy a _ => hy.trans (h y a)

theorem ite {p : Prop} [Decidable p] (ht : p → Quiet s t) (hu : ¬ p → Quiet s u) : Quiet s (if p then t else u) := by
  split
  · exact ht ‹_›
  · exact hu ‹_›

/-! One fact per update. -/

/-- The queues are parts of the cores. -/
theorem of_cores (h : t.cores = s.cores) : Quiet s t where
  flight k e hk := by
    rw [q, core, h]
    exact hk

theorem setFlag (s : State) (r : Reg) (i b : Nat) : Quiet s (s.setFlag r i b) := of_cores rfl

theorem countSat (s : State) (r : Reg) (i n : Nat) : Quiet s (s.countSat r i n) := of_cores rfl

theorem countWrap (s : State) (r : Reg) (i n : Nat) : Quiet s (s.countWrap r i n) := of_cores rfl

theorem modCore (s : State) (i : Nat) {f : Core → Core} (h : (f (s.core i)).q = (s.core i).q) : Quiet s (s.modCore i f) where
  flight k e hk := by
    rw [q, core_modCore]
    split
    · subst k; rw [h]; exact hk
    · exact hk

theorem modQ (s : State) (i j : Nat) {f : EngQ → EngQ} (h : (s.q i j).flight = [] → (f (s.q i j)).flight = []) :
    Quiet s (s.modQ i j f) where
  flight k e hk := by
    rw [q_modQ]
    split
    · rename_i hij; obtain ⟨rfl, rfl⟩ := hij; exact h hk
    · exact hk

theorem modTok (s : State) (i j id : Nat) (f : Tok → Tok) : Quiet s (s.modTok i j id f) where
  flight k e hk := by rwa [q_modTok]

theorem flagIf (s : State) (b : Bool) (r : Reg) (i k : Nat) : Quiet s (s.flagIf b r i k) :=
  ite (fun _ => setFlag ..) fun _ => refl s

/-- What a write does to every core leaves what is in flight (R297, R302, R442). -/
theorem of_coreWrite (h : ∃ bs, ∀ k, t.core k = coreWrite bs (s.core k)) : Quiet s t := by
  obtain ⟨bs, h⟩ := h
  refine ⟨fun k e hk => ?_⟩
  obtain ⟨-, -, -, -, -, -, -, -, -, hq⟩ := coreWrite_keeps bs (s.core k)
  rw [q, h, hq]
  exact hk

theorem applyMem (s : State) (m : Memory) (rs : List (Nat × Nat)) : Quiet s (s.applyMem m rs) := of_coreWrite (applyMem_core s m rs)

theorem commitMem (s : State) (m : Memory) (rs : List (Nat × Nat)) : Quiet s (s.commitMem m rs).1 := of_coreWrite (commitMem_core s m rs)

theorem store (s : State) (a : Nat) (bs : List Byte) : Quiet s (s.store a bs) := of_coreWrite (store_core s a bs)

theorem putEvent (s : State) (c : Nat) (ws : List Word) : Quiet s (s.putEvent c ws) where
  flight k e hk := by
    obtain ⟨l, h⟩ := putEvent_q s c ws k e
    rw [h]
    exact hk

theorem holdCore (s : State) (k cause e : Nat) (st : Status) : Quiet s (s.holdCore k cause e st) where
  flight i j hk := by rwa [q_holdCore]

theorem logMod (s : State) (k e seq : Nat) (f : LogEntry → LogEntry) : Quiet s (s.logMod k e seq f) := modQ s k e fun h => h

/-- A change of a descriptor: the table, its version and its journal (R441). -/
theorem writeDesc (s : State) (k i : Nat) (d : Desc) : Quiet s (s.writeDesc k i d) := by
  unfold State.writeDesc setDesc
  exact (modCore s k rfl).trans (modCore _ k rfl)

/-! The issue of an instruction (R198, R227, R234, R440). -/

theorem consumeTok (s : State) (k e id : Nat) : Quiet s (s.consumeTok k e id) := by
  unfold State.consumeTok
  extract_lets t ws
  have ht : Quiet s t := modTok ..
  split
  · exact ht
  · exact ht.trans (modCore t k rfl)

theorem takeHead (s : State) (k e : Nat) (w : TWord) : Quiet s (s.takeHead k e w) := by
  unfold State.takeHead
  extract_lets consumed freed left
  have hconsumed : Quiet s consumed := foldl _ (fun t id _ => consumeTok t k e id) s
  have hfreed : Quiet consumed freed := ite (fun _ => modCore consumed k rfl) fun _ => refl _
  have hleft : Quiet s left := (hconsumed.trans hfreed).trans (modQ freed k e fun h => h)
  split
  · exact hleft.trans (ite (fun _ => modTok ..) fun _ => refl _)
  · exact hleft

theorem waitStall (s : State) (k e n : Nat) : Quiet s (s.waitStall k e n) := ite (fun _ => countSat ..) fun _ => refl s

theorem markUpdate (s : State) (k e : Nat) (w : TWord) : Quiet s (s.markUpdate k e w) := ite (fun _ => of_cores rfl) fun _ => refl s

theorem taken (s : State) (k e : Nat) (w : TWord) (env : Env) : Quiet s (s.taken k e w env) :=
  (waitStall s k e env.stall).trans (takeHead ..)

theorem logEnter (s : State) (k e : Nat) (w : TWord) (a b : Word) : Quiet s (s.logEnter k e w a b) := by
  unfold State.logEnter
  extract_lets entry dropped
  have hdropped : Quiet s dropped := ite (fun _ => (modQ s k e fun h => h).trans (setFlag ..)) fun _ => refl s
  exact (hdropped.trans (modQ dropped k e fun h => h)).trans (store ..)

theorem issued (s : State) (k e : Nat) (w : TWord) (env : Env) : Quiet s (s.issued k e w env) :=
  ((taken s k e w env).trans (markUpdate ..)).trans (logEnter ..)

/-! What precedes an engine's work: the shadow sample that is written over, and reads through the Data Cache (R183, R290, R296). -/

theorem shadowRewritten (s : State) (k : Nat) (os : List Nat) : Quiet s (s.shadowRewritten k os) := by
  unfold State.shadowRewritten
  split
  · exact refl s
  · exact ite (fun _ => (modCore s k rfl).trans (countSat ..)) fun _ => refl s

theorem tagStall (s : State) (k e : Nat) (w : TWord) (bs : List Nat) (n : Nat) : Quiet s (s.tagStall k e w bs n) :=
  ite (fun _ => countSat ..) fun _ => refl s

theorem cacheReads (s : State) (k e : Nat) (bs : List Nat) : Quiet s (s.cacheReads k e bs) := by
  unfold State.cacheReads
  refine ite (fun _ => refl s) fun _ => modCore s k ?_
  generalize s.core k = c
  induction ownHbm k bs generalizing c with
  | nil => rfl
  | cons b bs ih => rw [List.foldl_cons, ih, Core.q_readBlock]

/-! Completion (R197, R200, R224, R226, R236). -/

theorem postTok (s : State) (k e id : Nat) (src : Word) : Quiet s (s.postTok k e id src).1 := by
  unfold State.postTok
  extract_lets t
  split
  · exact (modTok ..).trans (setFlag ..)
  · dsimp only
    exact modTok ..

theorem logDone (s : State) (k e seq : Nat) (w : TWord) (st : Status) : Quiet s (s.logDone k e seq w st) := by
  unfold State.logDone
  extract_lets order marked imaged
  have hmarked : Quiet s marked := (of_cores rfl : Quiet s { s with logOrder := order + 1 }).trans (logMod ..)
  have himaged : Quiet marked imaged := by
    unfold imaged
    split
    · exact store ..
    · exact refl _
  exact (hmarked.trans himaged).trans (modQ imaged k e fun h => h)

theorem finish (s : State) (k e : Nat) (w : TWord) (seq : Nat) (stream : Bool) (met : List Status) :
    Quiet s (s.finish k e w seq stream met) := by
  unfold State.finish
  extract_lets met
  refine ite (fun _ => putEvent ..) fun _ => ?_
  split
  rename_i r met hr
  have hpost : Quiet s r := by
    split at hr
    · cases hr; exact refl s
    · cases hr; exact postTok ..
  extract_lets st recorded logged
  have hrecorded : Quiet r recorded := ite (fun _ => refl r) fun _ => putEvent ..
  have hlogged : Quiet s logged := (hpost.trans hrecorded).trans (logDone ..)
  exact hlogged.trans (ite (fun _ => holdCore ..) fun _ => refl _)

end Quiet

/-! The instruction that completes in its own step. -/

/-- The work of an instruction from state `s` waits for nothing more, and puts nothing into a queue's flight. -/
structure Settles (s : State) (r : Run) : Prop where
  waits : r.waits = []
  segs : r.segs = []
  col : r.col = none
  stuck : r.stuck = false
  quiet : Quiet s r.st

theorem Settles.of {s t : State} {met : List Status} {reads writes : List Nat} (h : Quiet s t) :
    Settles s (Run.of t met reads writes) := ⟨rfl, rfl, rfl, rfl, h⟩

/-- What was quiet before the work. -/
theorem Settles.after {s t : State} {r : Run} (h : Settles t r) (hs : Quiet s t) : Settles s r :=
  ⟨h.waits, h.segs, h.col, h.stuck, hs.trans h.quiet⟩

variable {s : State} {k e op : Nat} {w : TWord} {env : Env} {body : Body}

/-- With nothing left to wait for and nothing in flight before it, an instruction completes with what its work met (R200, R226). -/
theorem carry_of_done (hwaits : (s.runOf k e w env body).waits = []) (hsegs : (s.runOf k e w env body).segs = [])
    (hcol : (s.runOf k e w env body).col = none) (hstuck : (s.runOf k e w env body).stuck = false)
    (hflight : ((s.worked k e w env body).q k e).flight = []) :
    (s.issued k e w env).carry k e w (s.issueSeq k e w env) env [] body = s.completed k e w env body := by
  unfold worked at hflight
  unfold completed worked
  unfold runOf at *
  unfold carry
  simp only [hwaits, hsegs, hcol, hstuck, hflight, List.append_nil]
  rfl

theorem runHead_of_done (hready : s.HeadReady k e op w) (hclean : s.Clean k e w env)
    (hwaits : (s.runOf k e w env body).waits = []) (hsegs : (s.runOf k e w env body).segs = [])
    (hcol : (s.runOf k e w env body).col = none) (hstuck : (s.runOf k e w env body).stuck = false)
    (hflight : ((s.worked k e w env body).q k e).flight = []) :
    s.runHead k e op env body = s.completed k e w env body := by
  obtain ⟨hpass, hstale, -, -⟩ := hclean
  rw [runHead_of_headReady env body hready, issue_of_passed body hpass, hstale]
  exact carry_of_done hwaits hsegs hcol hstuck hflight

/-- The state in which an engine's work begins: a shadow sample that it writes over is gone, and its reads have gone through the
Data Cache (R183, R296). -/
def begun (s : State) (k e : Nat) (w : TWord) (env : Env) (body : Body) : State :=
  let t := (s.issued k e w env).shadowRewritten k (TW.outs w)
  let reads := (body t k e w env).reads
  (t.tagStall k e w reads env.hold).cacheReads k e reads

theorem Quiet.begun (s : State) (k e : Nat) (w : TWord) (env : Env) (body : Body) : Quiet s (s.begun k e w env body) :=
  (Quiet.issued s k e w env).trans (((Quiet.shadowRewritten ..).trans (.tagStall ..)).trans (.cacheReads ..))

/-- With nothing skipped and nothing detected, an instruction's work is its engine's (R222, R307). -/
theorem runOf_of_clean (hclean : s.Clean k e w env) : s.runOf k e w env body = body (s.begun k e w env body) k e w env := by
  obtain ⟨-, -, hhits, hskip⟩ := hclean
  simp [runOf, work, hskip, hhits, answerAll, begun]

/-- An instruction whose work settles completes at once (R198, R200). -/
theorem runHead_of_settles (h : s.Completes k e op w env)
    (hwork : Settles (s.begun k e w env body) (body (s.begun k e w env body) k e w env)) :
    s.runHead k e op env body = s.completed k e w env body := by
  obtain ⟨hready, hclean, -, -, hflight⟩ := h
  rw [← runOf_of_clean (body := body) hclean] at hwork
  obtain ⟨hwaits, hsegs, hcol, hstuck, hquiet⟩ := hwork
  refine runHead_of_done hready hclean hwaits hsegs hcol hstuck ?_
  exact (((Quiet.begun s k e w env body).trans hquiet).trans (Quiet.logMod ..)).flight k e hflight

end State

end Sys2Proof.Machine

namespace Sys2Proof.Machine

/-! SUPPORT. The work of queue control, the arrays and the Vector, Convert and Gather Engines: it is done in its own step and puts
nothing into a queue's flight (R200). -/

/-- Without array faults no block's recomputation fails (R109, R131). -/
theorem persistent_runArray {faults : List ArrayFault} (h : faults = []) (m : Memory) (k : Nat) (y : Desc) (p : Nat)
    (found : List ArrayErr → ArrayErr → Option Nat) (f : List ArrayErr → Nat → Nat → Word) :
    (runArray m k y p faults found f).persistent = false := by
  subst h
  have hnone : ∀ n, (List.range n).filterMap (checkFail found []) = [] := fun n => List.filterMap_eq_nil_iff.2 fun _ _ => rfl
  simp [runArray, hnone, failOf, isPersistent]

namespace State

namespace Quiet

variable {s t u : State}

/-! The arrays (R109, R131, R180, R451). -/

theorem drainArray (s : State) (k e : Nat) (w : TWord) (y : Desc) (r : ArrayRun) : Quiet s (s.drainArray k e w y r) := by
  unfold State.drainArray
  extract_lets t
  exact (logMod .. : Quiet s t).trans (commitMem ..)

theorem modPart (s : State) (p : Nat) (f : Part → Part) : Quiet s (s.modPart p f) := of_cores rfl

theorem gradNonfinite (s : State) (c : Nat) (b : Bool) : Quiet s (s.gradNonfinite c b) := ite (fun _ => modPart ..) fun _ => refl s

theorem post (s : State) (d : Nat) (code : TCode) (x v : Word) : Quiet s (s.post d code x v) := of_cores rfl

theorem drainClusters (s : State) (m : Word) : Quiet s (s.drainClusters m) := by
  unfold State.drainClusters
  extract_lets recov t
  have ht : Quiet s t := of_cores rfl
  exact ht.trans (foldl _ (fun u p _ => ite (fun _ => modPart ..) fun _ => refl u) t)

theorem persistentCheck (s : State) (c : Nat) : Quiet s (s.persistentCheck c) := by
  unfold State.persistentCheck
  extract_lets now near recov t
  have ht : Quiet s t := of_cores rfl
  exact ht.trans (ite (fun _ => drainClusters ..) fun _ => refl t)

theorem postChecks (s : State) (k e : Nat) (r : ArrayRun) : Quiet s (s.postChecks k e r) := by
  unfold State.postChecks
  extract_lets d n t
  have ht : Quiet s t := foldl _ (fun u _ _ => post u ..) s
  exact ht.trans (ite (fun _ => (post t ..).trans (persistentCheck ..)) fun _ => refl t)

theorem shadowCapture (s : State) (k idx : Nat) (hasI : Bool) (dy dw : Desc) (wtrans : Bool) :
    Quiet s (s.shadowCapture k idx hasI dy dw wtrans) := by
  unfold State.shadowCapture
  split
  · exact refl s
  · dsimp only
    split
    · exact refl s
    · exact ite (fun _ => modCore s k rfl) fun _ => refl s

theorem bodyFmm (s : State) (k e : Nat) (w : TWord) (env : Env) : Quiet s (Machine.bodyFmm s k e w env).st := by
  unfold Machine.bodyFmm
  extract_lets d x wt y cluster entry cols live out map band di p m r drained checks passes stalls failed flagged
    stopped posted captured run
  have hdrained : Quiet s drained := (drainArray s k e w y r).trans (modCore _ k rfl)
  have hcounts : Quiet drained stalls := ((countSat ..).trans (countWrap ..)).trans (countSat ..)
  have hflags : Quiet stalls stopped := ((flagIf ..).trans (flagIf ..)).trans ((flagIf ..).trans (flagIf ..))
  have hcaptured : Quiet posted captured := ite (fun _ => refl _) fun _ => shadowCapture ..
  exact (hdrained.trans hcounts).trans (hflags.trans ((postChecks ..).trans hcaptured))

theorem bodyBmm (s : State) (k e : Nat) (w : TWord) (env : Env) : Quiet s (Machine.bodyBmm s k e w env).st := by
  unfold Machine.bodyBmm
  extract_lets d x b y ta tb di p m r fstream drained checks passes fpasses stalls failed flagged stopped posted captured run
  have hdrained : Quiet s drained := (drainArray s k e w y r).trans (modCore _ k rfl)
  have hpasses : Quiet drained fpasses := ((countSat ..).trans (countWrap ..)).trans (ite (fun _ => countWrap ..) fun _ => refl _)
  have hflagged : Quiet fpasses flagged := ((countSat ..).trans (flagIf ..)).trans ((flagIf ..).trans (gradNonfinite ..))
  have hstopped : Quiet flagged stopped := (flagIf ..).trans (flagIf ..)
  have hcaptured : Quiet posted captured := ite (fun _ => refl _) fun _ => shadowCapture ..
  exact (hdrained.trans hpasses).trans (hflagged.trans (hstopped.trans ((postChecks ..).trans hcaptured)))

/-! The Vector Engine (R148, R152, R168). -/

theorem vecDone (s : State) (k : Nat) (w : TWord) (r : VRun) : Quiet s (Machine.vecDone s k w r).st := by
  unfold Machine.vecDone
  extract_lets outs written flushes nodes flushed flagged
  have hcounts : Quiet s nodes := (commitMem s r.mem outs).trans ((countSat ..).trans (countWrap ..))
  have hflushed : Quiet nodes flushed := ite (fun _ => setFlag ..) fun _ => refl _
  have hflagged : Quiet flushed flagged := ite (fun _ => setFlag ..) fun _ => refl _
  exact hcounts.trans (hflushed.trans hflagged)

/-! The Convert Engine (R39, R65, R179). -/

theorem conversionBase (s : State) (k : Nat) (ds dd : Desc) : Quiet s (s.conversionBase k ds dd).1 := by
  unfold State.conversionBase
  extract_lets _ _ _ _ t
  exact (ite (fun _ => refl s) fun _ => (setFlag ..).trans (post ..) : Quiet s t)

theorem writeBase (s : State) (k i : Nat) (b : Int) : Quiet s (s.writeBase k i b) := writeDesc ..

theorem postReef (s : State) (k e i : Nat) (t : Tally) : Quiet s (s.postReef k e i t) := of_cores rfl

theorem shadowCandidate (s : State) (m : Memory) (k : Nat) (w : TWord) (ds dd : Desc) (i : Nat) :
    Quiet s (s.shadowCandidate m k w ds dd i) := by
  unfold State.shadowCandidate
  refine ite (fun _ => refl s) fun _ => ?_
  extract_lets limit n t
  refine ite (fun _ => modCore s k rfl) fun _ => ?_
  have ht : Quiet s t := modCore s k rfl
  refine ht.trans (ite (fun _ => refl t) fun _ => ite (fun _ => countSat ..) fun _ => ?_)
  exact modCore t k rfl

/-! The Gather Engine (R217, R218, R321, R326, R327). -/

theorem labLook (s : State) (c q i : Nat) (bypass : Bool) : Quiet s (s.labLook c q i bypass) := by
  unfold State.labLook
  extract_lets x held
  refine ite (fun _ => countSat ..) fun _ => ?_
  split <;> exact of_cores rfl

theorem seqLook (s : State) (c q : Nat) (bypass : Bool) : Quiet s (s.seqLook c q bypass) := by
  unfold State.seqLook
  extract_lets m
  exact ite (fun _ => refl s) fun _ => of_cores rfl

/-- Drawing values and writing Shifts of a tile leaves the cores. -/
theorem putKvRow (s : State) (k : Nat) (dd : Desc) (i : Nat) (codes shifts : List Nat) :
    Quiet s (Machine.putKvRow s k dd i codes shifts) := by
  unfold Machine.putKvRow forN
  refine ite (fun _ => ?_) fun _ => of_cores rfl
  generalize hm : (codes.zipIdx.foldl (fun m x => Tile.putCode m k dd i x.2 x.1) s.mem) = m
  have hput : Quiet s { s with mem := m } := of_cores rfl
  refine hput.trans (foldl _ ?_ _)
  exact fun t j _ => of_cores rfl

end Quiet

variable {s : State}

/-! What each engine's work leaves (R209 to R218). -/

theorem settles_vecDone {t : State} (k : Nat) (w : TWord) (r : VRun) (h : Quiet s t) : Settles s (vecDone t k w r) :=
  .of (h.trans (Quiet.vecDone t k w r))

theorem settles_bodyFmm (s : State) (k e : Nat) (w : TWord) {env : Env} (h : env.faults = []) :
    Settles s (bodyFmm s k e w env) := by
  refine ⟨rfl, rfl, rfl, ?_, Quiet.bodyFmm s k e w env⟩
  unfold bodyFmm
  extract_lets d x wt y cluster entry cols live out map band di p m r
  have hgood : r.persistent = false := persistent_runArray h ..
  exact hgood

theorem settles_bodyBmm (s : State) (k e : Nat) (w : TWord) {env : Env} (h : env.faults = []) :
    Settles s (bodyBmm s k e w env) := by
  refine ⟨rfl, rfl, rfl, ?_, Quiet.bodyBmm s k e w env⟩
  unfold bodyBmm
  extract_lets d x b y ta tb di p m r
  have hgood : r.persistent = false := persistent_runArray h ..
  exact hgood

/-- The Base of a conversion, and the state that its clamp leaves. -/
theorem Quiet.of_conversionBase {u : State} {k : Nat} {ds dd : Desc} {b : Int} (h : s.conversionBase k ds dd = (u, b)) : Quiet s u := by
  have hbase := Quiet.conversionBase s k ds dd
  rwa [h] at hbase

theorem settles_bodyConv (s : State) (k e : Nat) (w : TWord) (env : Env) : Settles s (bodyConv s k e w env) := by
  unfold bodyConv
  extract_lets ds i dd m wide
  split
  · exact .of (.refl s)
  · split
    · split
      rename_i u b hb
      have hwritten : Quiet s (u.commitMem (convGrouped m k ds dd b fun _ => false).1 (Tile.physRanges k dd)).1 :=
        (Quiet.of_conversionBase hb).trans (.commitMem ..)
      exact .of ((hwritten.trans ((Quiet.writeBase ..).trans (.postReef ..))).trans (.shadowCandidate ..))
    · exact .of ((Quiet.commitMem ..).trans (.shadowCandidate ..))

theorem settles_bodyConv2 (s : State) (k e : Nat) (w : TWord) (env : Env) : Settles s (bodyConv2 s k e w env) := by
  unfold bodyConv2
  extract_lets ds i j d1 d2 m
  split
  · exact .of (.refl s)
  · split
    rename_i u b hb
    extract_lets r1 first r2 second tally posted
    have hwritten : Quiet s second := (Quiet.of_conversionBase hb).trans ((Quiet.commitMem ..).trans (.commitMem ..))
    have hposted : Quiet second posted := ((Quiet.writeBase ..).trans (.writeBase ..)).trans (.postReef ..)
    exact .of ((hwritten.trans hposted).trans (.shadowCandidate ..))

theorem settles_bodyConvx (s : State) (k e : Nat) (w : TWord) (env : Env) : Settles s (bodyConvx s k e w env) := by
  unfold bodyConvx
  extract_lets ds i dd db entry coff m map
  split
  · exact .of (.refl s)
  · split
    rename_i u b hb
    extract_lets r first band second cstat st lo n third posted
    have hwritten : Quiet s third :=
      (Quiet.of_conversionBase hb).trans (((Quiet.commitMem ..).trans (.commitMem ..)).trans (.commitMem ..))
    have hposted : Quiet third posted := (Quiet.writeBase ..).trans (.postReef ..)
    exact .of ((hwritten.trans hposted).trans (.shadowCandidate ..))

theorem settles_bodyGather (s : State) (k e : Nat) (w : TWord) (env : Env) : Settles s (bodyGather s k e w env) := by
  unfold bodyGather
  extract_lets di dt i dd r written t
  have ht : Quiet written t := .ite (fun _ => .writeDesc ..) fun _ => .refl _
  split
  · exact .of (.refl s)
  · exact .of ((Quiet.commitMem ..).trans ht)

theorem settles_bodyRoute (s : State) (k e : Nat) (w : TWord) (env : Env) : Settles s (bodyRoute s k e w env) := by
  unfold bodyRoute
  extract_lets de dl dc r written
  split
  · exact .of (.refl s)
  · exact .of (.commitMem ..)

theorem settles_bodyKvread (s : State) (k e : Nat) (w : TWord) (env : Env) : Settles s (bodyKvread s k e w env) := by
  unfold bodyKvread
  extract_lets c i dd q n
  split
  split
  extract_lets g len rows live b pages past looked
  have hlooked : Quiet s looked := (Quiet.seqLook ..).trans (.foldl _ (fun u p _ => .labLook ..) _)
  split
  rename_i u redo hu
  have hrows : Quiet looked u := by
    refine (?_ : Quiet looked (u, redo).1)
    rw [← hu]
    refine Quiet.foldl_fst _ (fun x r => ?_) (looked, 0)
    split <;> exact .putKvRow ..
  extract_lets written counted flagged based
  have hwritten : Quiet u written := (Quiet.of_cores rfl : Quiet u { u with mem := looked.mem }).trans (.commitMem ..)
  have hflagged : Quiet written flagged := (Quiet.countSat ..).trans (.ite (fun _ => .setFlag ..) fun _ => .refl _)
  have hbased : Quiet flagged based := .ite (fun _ => .refl _) fun _ => .writeDesc ..
  exact .of (((hlooked.trans hrows).trans hwritten).trans (hflagged.trans hbased))

end State
end Sys2Proof.Machine

namespace Sys2Proof.Machine
namespace State

/-! SUPPORT. Local work, and the flags of this device: work that needs no other device settles in its own step (R200, R243). -/

/-- The work of queue control, of an array, or of the Vector, Convert or Gather Engine: it is local to its core's device and its step. -/
inductive LocalWork : Body → Prop where
  | none : LocalWork bodyNone
  | upass (opens : Bool) : LocalWork (bodyUpass opens)
  | fmm : LocalWork bodyFmm
  | bmm : LocalWork bodyBmm
  | float : LocalWork bodyFloat
  | int : LocalWork bodyInt
  | sel : LocalWork bodySel
  | comb : LocalWork bodyComb
  | rsum : LocalWork bodyRsum
  | rmax : LocalWork bodyRmax
  | vmode : LocalWork bodyVmode
  | adam : LocalWork bodyAdam
  | mom : LocalWork bodyMom
  | optStep : LocalWork bodyOptStep
  | conv : LocalWork bodyConv
  | conv2 : LocalWork bodyConv2
  | convx : LocalWork bodyConvx
  | gather : LocalWork bodyGather
  | kvread : LocalWork bodyKvread
  | route : LocalWork bodyRoute

/-- Without array faults local work settles (R109, R200). -/
theorem LocalWork.settles {body : Body} (h : LocalWork body) (s : State) (k e : Nat) (w : TWord) {env : Env}
    (hfaults : env.faults = []) : Settles s (body s k e w env) := by
  have hvec (r : VRun) : Settles s (vecDone s k w r) := settles_vecDone k w r (.refl s)
  cases h with
  | none => exact .of (.refl s)
  | upass opens => exact .of (.modQ s k e fun hq => hq)
  | fmm => exact settles_bodyFmm s k e w hfaults
  | bmm => exact settles_bodyBmm s k e w hfaults
  | float | int | sel | rsum | rmax | adam | mom | optStep => exact hvec _
  | comb => exact settles_vecDone k w _ (.gradNonfinite ..)
  | vmode => exact .of (.of_cores rfl)
  | conv => exact settles_bodyConv s k e w env
  | conv2 => exact settles_bodyConv2 s k e w env
  | convx => exact settles_bodyConvx s k e w env
  | gather => exact settles_bodyGather s k e w env
  | kvread => exact settles_bodyKvread s k e w env
  | route => exact settles_bodyRoute s k e w env

/-! SETF and ADDF of a flag of this device (R243, R246, R248). -/

theorem Quiet.setFlagVal (s : State) (c : Nat) (dieFlag : Bool) (f : Nat) (v : Word) : Quiet s (s.setFlagVal c dieFlag f v) := by
  unfold State.setFlagVal
  exact .ite (fun _ => .of_cores rfl) fun _ => .of_cores rfl

theorem Quiet.setterRefused (s : State) (die f : Nat) : Quiet s (s.setterRefused die f) :=
  .foldl _ (fun t _ _ => .setFlag t ..) s

theorem Quiet.remoteUpdate (s : State) (die f dev sdie : Nat) (add : Bool) (v : Word) :
    Quiet s (s.remoteUpdate die f dev sdie add v).1 := by
  unfold State.remoteUpdate
  split
  · dsimp only
    exact .setFlagVal ..
  · exact .setterRefused ..

theorem settles_bodyFlag (s : State) (add : Bool) (k e : Nat) {w : TWord} (env : Env) (h : s.flagScope k w ≤ 2) :
    Settles s (bodyFlag add s k e w env) := by
  unfold bodyFlag
  generalize s.flagScope k w = scope at h ⊢
  match scope with
  | 0 | 1 => exact .of (.setFlagVal ..)
  | 2 => exact .of (.remoteUpdate ..)

theorem flagScope_congr {s t : State} (h : t.devId = s.devId) (k : Nat) (w : TWord) : t.flagScope k w = s.flagScope k w := by
  rw [flagScope, h, flagScope]

/-! What the issue of an instruction leaves (R198, R440): descriptors and the device's own ID. -/

theorem Leaves.taken (a : Nat) (s : State) (k e : Nat) (w : TWord) (env : Env) : Leaves a s (s.taken k e w env) :=
  (Leaves.waitStall ..).trans (.takeHead ..)

theorem logEnter_keeps (s : State) (k e : Nat) (w : TWord) (a b : Word) :
    (∀ i j, (s.logEnter k e w a b).desc i j = s.desc i j) ∧ (s.logEnter k e w a b).devId = s.devId := by
  unfold logEnter
  extract_lets entry dropped
  have hdropped : Leaves 0 s dropped := .ite (fun _ => (Leaves.modQ ..).trans (.setFlag _ _ _ (by decide))) fun _ => .refl s
  have hlogged := hdropped.trans (.modQ dropped k e fun q => { q with log := q.log ++ [entry] })
  refine ⟨fun i j => ?_, ?_⟩
  · rw [← hlogged.desc]
    obtain ⟨bs, h⟩ := store_core (dropped.modQ k e fun q => { q with log := q.log ++ [entry] }) (State.logAddr _ k e entry.seq)
      ((logWords entry).flatMap fun w => natLe 4 w.toNat)
    rw [logImage, desc, h, (coreWrite_keeps _ _).1]
    rfl
  · have hdev : State.devId _ = s.devId := hlogged.fld (r := .FAB_DEVID) (by decide) 0 17 0
    rw [← hdev]
    exact congrArg (bits · 17 0) (store_rd _ _ _ _ (by decide))

theorem issued_keeps (s : State) (k e : Nat) (w : TWord) (env : Env) :
    (∀ i j, (s.issued k e w env).desc i j = s.desc i j) ∧ (s.issued k e w env).devId = s.devId := by
  have hmarked : Leaves 0 s ((s.taken k e w env).markUpdate k e w) := (Leaves.taken ..).trans (.markUpdate ..)
  obtain ⟨hdesc, hdev⟩ := logEnter_keeps ((s.taken k e w env).markUpdate k e w) k e w (s.srcOf k e (TW.waitA w))
    (s.srcOf k e (TW.waitB w))
  exact ⟨fun i j => (hdesc i j).trans (hmarked.desc i j), hdev.trans (hmarked.fld (r := .FAB_DEVID) (by decide) 0 17 0)⟩

/-- What is read before an engine's work begins leaves what the work of its instruction is aimed at. -/
theorem Leaves.begun (a : Nat) (s : State) (k e : Nat) (w : TWord) (env : Env) (body : Body) :
    Leaves a (s.issued k e w env) (s.begun k e w env body) :=
  ((Leaves.shadowRewritten ..).trans (.tagStall ..)).trans (.cacheReads ..)

theorem begun_keeps (s : State) (k e : Nat) (w : TWord) (env : Env) (body : Body) :
    (∀ i j, (s.begun k e w env body).desc i j = s.desc i j) ∧ (s.begun k e w env body).devId = s.devId := by
  obtain ⟨hdesc, hdev⟩ := issued_keeps s k e w env
  have hbegun := Leaves.begun 0 s k e w env body
  exact ⟨fun i j => (hbegun.desc i j).trans (hdesc i j), (hbegun.fld (r := .FAB_DEVID) (by decide) 0 17 0).trans hdev⟩

end State
end Sys2Proof.Machine

namespace Sys2Proof.Machine
namespace State

/-! SUPPORT. The work of the Move Engine on tiles of this device and of the host: every byte lands in the instruction's own step
(R219, R220, R299 to R306). -/

/-- What placing data did from state `s` leaves nothing to wait for, and nothing in a queue's flight. -/
structure Lands (s : State) (r : Moved) : Prop where
  waits : r.waits = []
  segs : r.segs = []
  quiet : Quiet s r.st

theorem Lands.of {s t : State} {met : List Status} (h : Quiet s t) : Lands s (Moved.of t met) := ⟨rfl, rfl, h⟩

theorem Lands.after {s t : State} {r : Moved} (h : Lands t r) (hs : Quiet s t) : Lands s r := ⟨h.waits, h.segs, hs.trans h.quiet⟩

theorem Quiet.putHostRange (s : State) (k : Nat) (r : Nat × Nat) (img : Memory) : Quiet s (s.putHostRange k r img).1 := by
  unfold State.putHostRange
  dsimp only
  split
  · exact .refl s
  · split
    · exact .of_cores rfl
    · exact .refl s

theorem Quiet.putHost (s : State) (k : Nat) (rs : List (Nat × Nat)) (img : Memory) : Quiet s (s.putHost k rs img).1 := by
  unfold State.putHost
  refine Quiet.foldl_fst _ ?_ (s, true)
  exact fun x r => .putHostRange x.1 k r img

theorem Quiet.landRanges (s : State) (k : Nat) (d : Desc) (rs : List (Nat × Nat)) (img : Memory) :
    Quiet s (s.landRanges k d rs img).1 := by
  unfold State.landRanges
  split
  · exact .putHost ..
  · exact .commitMem ..

/-- A destination that is not a peer's takes its bytes at once (R220, R299). -/
theorem lands_putDest (s : State) (k e seq : Nat) {d : Desc} (h : Tile.space d ≠ 3) (rs : List (Nat × Nat)) (img : Memory)
    (notify : Option (Nat × Nat)) : Lands s (s.putDest k e seq [] d rs img notify) := by
  unfold putDest
  rw [if_neg h, if_pos rfl]
  exact .of (.landRanges ..)

/-- A descriptor of an instruction that names no peer's tile. -/
theorem space_getD {ds : List Desc} (h : ∀ d ∈ ds, Tile.space d ≠ 3) (i : Nat) : Tile.space (ds.getD i 0) ≠ 3 := by
  rw [List.getD_eq_getElem?_getD]
  cases hi : ds[i]? with
  | none => decide
  | some d => exact h d (List.mem_of_getElem? hi)

variable {ds : List Desc} (hds : ∀ d ∈ ds, Tile.space d ≠ 3)

/-! COPY and PREFETCH (R220, R301). -/

theorem Quiet.copyNotify (s : State) (k f ndie : Nat) : Quiet s (Machine.copyNotify s k f ndie).1 := by
  unfold Machine.copyNotify
  extract_lets c r
  split
  · split
    · exact .setterRefused ..
    · split
      · dsimp only
        exact .setFlagVal ..
      · exact .refl s
  · exact .remoteUpdate ..

theorem Quiet.copyLanded (s : State) (k : Nat) (w : TWord) (d : Desc) : Quiet s (Machine.copyLanded s k w d).1 := by
  unfold Machine.copyLanded
  split
  · exact .copyNotify ..
  · exact .refl s

include hds in
theorem lands_copyOp (s : State) (k e seq : Nat) (w : TWord) (img : Memory) : Lands s (copyOp s k e seq [] w ds img) := by
  unfold copyOp
  extract_lets a b m r landed
  have hr : Lands s r := lands_putDest s k e seq (space_getD hds 1) ..
  split
  · exact ⟨hr.waits, hr.segs, hr.quiet.trans (.copyLanded ..)⟩
  · exact hr

include hds in
theorem lands_prefetchOp (s : State) (k e seq : Nat) (w : TWord) (img : Memory) : Lands s (prefetchOp s k e seq [] w ds img) :=
  lands_putDest s k e seq (space_getD hds 1) ..

/-! FURL and UNFURL (R304 to R308). -/

include hds in
theorem lands_furlOp (s : State) (k e seq : Nat) (w : TWord) (img : Memory) : Lands s (furlOp s k e seq [] w ds img) := by
  unfold furlOp
  extract_lets a b bs src t
  split
  · exact .of (.refl s)
  · exact (lands_putDest t k e seq (space_getD hds 1) ..).after ((Quiet.countWrap ..).trans (.countWrap ..))

/-- A block that its producer writes again: caches and Source Watch see the write (R302, R444). -/
theorem Quiet.rewriteBlock (s : State) (block : Nat) : Quiet s (s.rewriteBlock block) where
  flight k e hk := by
    obtain ⟨g, x, n, h⟩ := firstTouch_keeps s (s.mem.wrN (256 * block) (s.mem.rdN (256 * block) 256)) [(256 * block, 256)]
    unfold State.rewriteBlock State.q State.core
    dsimp only
    rw [h, SMap.get_mapVals Core.reset (fun _ c => watchWrite [block] (cacheWrite [block] c)) (fun _ => rfl),
      (watchWrite_keeps _ _).1]
    exact hk

theorem Quiet.recompute (s : State) (block : Nat) : Quiet s (s.recompute block).1 := by
  unfold State.recompute
  split
  · exact .refl s
  · split
    · dsimp only
      exact (Quiet.setFlag ..).trans (.modPart ..)
    · dsimp only
      exact ((Quiet.rewriteBlock ..).trans (.countSat ..)).trans (.post ..)

theorem Quiet.discardEpoch (s : State) (st : Status) : Quiet s (s.discardEpoch st) := by
  unfold State.discardEpoch
  exact .ite (fun _ => .refl s) fun _ => .of_cores rfl

theorem Quiet.memPersistent (s : State) (a : Nat) : Quiet s (s.memPersistent a) := by
  unfold State.memPersistent
  extract_lets discarded
  have hdiscarded : Quiet s discarded := .ite (fun _ => .discardEpoch ..) fun _ => .refl s
  exact hdiscarded.trans (.of_cores rfl)

theorem Quiet.restoreFor (s : State) (k a : Nat) : Quiet s (s.restoreFor k a) := (Quiet.memPersistent s a).trans (.modPart ..)

theorem Quiet.furlPersistent (s : State) (k : Nat) (d : Desc) : Quiet s (Machine.furlPersistent s k d) := by
  unfold Machine.furlPersistent
  extract_lets p
  exact .ite (fun _ => (Quiet.recompute ..).trans (.restoreFor ..)) fun _ => .modPart ..

include hds in
theorem lands_unfurlOp (s : State) (k e seq : Nat) (w : TWord) (img : Memory) : Lands s (unfurlOp s k e seq [] w ds img) := by
  unfold unfurlOp
  extract_lets a b
  split
  · exact .of (.refl s)
  · split
    · exact lands_putDest s k e seq (space_getD hds 1) ..
    · exact .of (.furlPersistent ..)

end State
end Sys2Proof.Machine

namespace Sys2Proof.Machine
namespace State

/-! SUPPORT. KVAPPEND: staging, and the flush of a page that is full, reach the queues by their writes to memory alone (R323 to R329). -/

namespace Quiet

variable {s t u : State}

theorem modKv (s : State) (c : Nat) (f : Halyard → Halyard) : Quiet s (s.modKv c f) := of_cores rfl

theorem setStage (s : State) (c k : Nat) (x : Stage) : Quiet s (s.setStage c k x) := of_cores rfl

theorem kvStore (s : State) (a : Nat) (bs : List Byte) : Quiet s (s.kvStore a bs) := ite (fun _ => applyMem ..) fun _ => refl s

theorem putHalf (s : State) (c seq : Nat) (w1 : Word) (len alen list cap : Nat) (g : Word) :
    Quiet s (s.putHalf c seq w1 len alen list cap g) := by
  unfold State.putHalf
  extract_lets h a written
  exact (kvStore .. : Quiet s written).trans (modKv ..)

/-! A flush (R324, R328). -/

theorem of_takePage {c : Nat} {x : State × Nat} (h : s.takePage c = some x) : Quiet s x.1 := by
  unfold State.takePage at h
  extract_lets k p at h
  split at h
  · cases h
  · cases h
    dsimp only
    exact modKv ..

theorem of_flushRow {c k : Nat} {sec : Bool} {j : Nat} (h : s.flushRow c k sec j = some t) : Quiet s t := by
  unfold State.flushRow at h
  split at h
  extract_lets x p idx cur looked at h
  split at h
  · cases h; exact refl s
  · split at h
    split at h
    extract_lets base got at h
    have hlooked : Quiet s looked := (seqLook ..).trans (labLook ..)
    have hgot : ∀ y, got = some y → Quiet s y.1 := by
      intro y hy
      unfold got at hy
      split at hy
      · cases hy; exact refl s
      · split at hy
        · cases hy; exact hlooked
        · obtain ⟨z, hz, rfl⟩ := Option.map_eq_some_iff.1 hy
          exact hlooked.trans (of_takePage hz)
    generalize hv : got = o at h
    cases o with
    | none => cases h
    | some v =>
      obtain ⟨v, u⟩ := v
      dsimp -zeta only at h
      extract_lets rows based cleared p' at h
      have hrows : Quiet v based := ((kvStore ..).trans (kvStore ..)).trans (kvStore ..)
      have hcleared : Quiet based cleared := by
        unfold cleared
        split
        · exact kvStore ..
        · exact refl _
      obtain rfl := Option.some.inj h
      exact (hgot _ hv).trans ((hrows.trans hcleared).trans (setStage ..))

theorem flushRows (c k : Nat) (sec : Bool) (n : Nat) (s : State) (j : Nat) : Quiet s (s.flushRows c k sec j n).1 := by
  induction n generalizing s j with
  | zero => exact refl s
  | succ n ih =>
    unfold State.flushRows
    split
    · exact refl s
    · exact (of_flushRow ‹_›).trans (ih ..)

theorem flushEnd (s : State) (c k : Nat) (sec : Bool) : Quiet s (s.flushEnd c k sec) := by
  unfold State.flushEnd
  extract_lets g x p listed ended y staged
  have hlisted : Quiet s listed := foldl _ (fun _ _ _ => kvStore ..) s
  have hended : Quiet listed ended := foldl _ (fun _ _ _ => putHalf ..) listed
  exact (hlisted.trans hended).trans ((setStage ..).trans (modKv ..))

theorem flushFrom (s : State) (c k : Nat) (sec : Bool) : Quiet s (s.flushFrom c k sec) := by
  unfold State.flushFrom
  extract_lets x p was
  split
  rename_i t stop ht
  have hrows : Quiet s t := by
    have h := flushRows c k sec (256 - was) s was
    rwa [ht] at h
  extract_lets
  split
  · exact hrows.trans (flushEnd ..)
  · exact hrows.trans (ite (fun _ => of_cores rfl) fun _ => setStage ..)

theorem drainStages (s : State) (c : Nat) : Quiet s (s.drainStages c) := by
  unfold State.drainStages
  refine foldl _ (fun t k _ => foldl _ (fun u sec _ => ?_) t) s
  exact ite (fun _ => setStage ..) fun _ => refl u

theorem flushFull (s : State) (c k : Nat) : Quiet s (s.flushFull c k) := by
  unfold State.flushFull
  extract_lets x
  split
  · exact drainStages ..
  · exact ite (fun _ => refl s) fun _ => ((setStage ..).trans (flushFrom ..)).trans (drainStages ..)

/-! Staging (R323, R324, R329). -/

theorem switchStage (s : State) (c k : Nat) : Quiet s (s.switchStage c k) := by
  unfold State.switchStage
  exact ite (fun _ => setStage ..) fun _ => refl s

theorem of_stageRow {img : Memory} {k seq j tok : Nat} {d : Desc} {x : State × Bool}
    (h : s.stageRow img k seq d j tok = some x) : Quiet s x.1 := by
  unfold State.stageRow at h
  extract_lets c i switched y p ta at h
  have hswitched : Quiet s switched := switchStage ..
  split at h
  · cases h
  · split at h
    extract_lets els sh shn at h
    split at h
    extract_lets lost stored at h
    have hstored : Quiet switched stored :=
      ite (fun _ => refl _) fun _ => (((store ..).trans (store ..)).trans (store ..)).trans (store ..)
    cases h
    exact (hswitched.trans hstored).trans ((setStage ..).trans (switchStage ..))

theorem stageRows (img : Memory) (k seq : Nat) (d : Desc) (tok n : Nat) (s : State) (j : Nat) :
    Quiet s (s.stageRows img k seq d tok j n).1 := by
  induction n generalizing s j with
  | zero => exact refl s
  | succ n ih =>
    unfold State.stageRows
    extract_lets flushed step
    have hflushed : Quiet s flushed := flushFull ..
    have hu : Quiet s step.1 := by
      unfold step
      split
      · exact of_stageRow ‹_›
      · split
        · exact hflushed.trans (of_stageRow ‹_›)
        · exact hflushed
    split
    · exact hu
    · exact hu.trans (ih ..)

end Quiet

/-- KVAPPEND waits for nothing: its rows are staged, or it ends with a fault (R323, R329). -/
theorem lands_kvappendOp (s : State) (k e seq : Nat) (apart : List Nat) (w : TWord) (ds : List Desc) (img : Memory) :
    Lands s (kvappendOp s k e seq apart w ds img) := by
  unfold kvappendOp
  extract_lets c sq tok r stalled
  have hr : Quiet s r.1 := .stageRows ..
  split
  · exact .of ((hr.trans (.setFlag ..)).trans (.holdCore ..))
  · exact .of hr

end State
end Sys2Proof.Machine

namespace Sys2Proof.Machine
namespace State

/-! SUPPORT. The Move Engine's instructions whose tiles are not of a peer (R220, R299 to R306, R323). -/

/-- No tile of an instruction is of a peer. -/
def OwnTiles (s : State) (k : Nat) (w : TWord) : Prop := ∀ d ∈ s.descsOf k w, Tile.space d ≠ 3

/-- Every descriptor is of the same space as before. -/
structure SameSpaces (s t : State) : Prop where
  space : ∀ k i, Tile.space (t.desc k i) = Tile.space (s.desc k i)

namespace SameSpaces

variable {s t u : State}

theorem refl (s : State) : SameSpaces s s := ⟨fun _ _ => rfl⟩

theorem trans (h : SameSpaces s t) (g : SameSpaces t u) : SameSpaces s u := ⟨fun k i => (g.space k i).trans (h.space k i)⟩

theorem ite {p : Prop} [Decidable p] (ht : p → SameSpaces s t) (hu : ¬ p → SameSpaces s u) :
    SameSpaces s (if p then t else u) := by
  split
  · exact ht ‹_›
  · exact hu ‹_›

theorem of_desc (h : ∀ k i, t.desc k i = s.desc k i) : SameSpaces s t := ⟨fun k i => congrArg Tile.space (h k i)⟩

theorem of_cores (h : t.cores = s.cores) : SameSpaces s t := of_desc fun k i => by rw [desc, core, h]; rfl

theorem of_coreWrite (h : ∃ bs, ∀ k, t.core k = coreWrite bs (s.core k)) : SameSpaces s t := by
  obtain ⟨bs, h⟩ := h
  refine of_desc fun k i => ?_
  rw [desc, h, (coreWrite_keeps _ _).1]
  rfl

/-- A new `BASE` leaves a descriptor's space (R39). -/
theorem writeBase (s : State) (k i : Nat) (b : Int) : SameSpaces s (s.writeBase k i b) where
  space j n := by
    have hbase (d : Desc) : Tile.space (Tile.withBase d b) = Tile.space d := bits_setBits_disj d _ _ _ _ _ (by decide) (by decide)
    have hdesc : (s.writeBase k i b).desc j n = if k = j ∧ i = n then Tile.withBase (s.desc k i) b else s.desc j n := by
      unfold State.writeBase writeDesc setDesc desc
      simp only [core_modCore]
      split <;> grind [SMap.get_set]
    rw [hdesc]
    split
    · rename_i h
      obtain ⟨rfl, rfl⟩ := h
      exact hbase _
    · rfl

theorem ownTiles (h : SameSpaces s t) {k : Nat} {w : TWord} (hs : s.OwnTiles k w) : t.OwnTiles k w := by
  intro d hd
  obtain ⟨i, hi, rfl⟩ := List.mem_map.1 hd
  rw [h.space]
  exact hs _ (List.mem_map_of_mem hi)

end SameSpaces

/-- An instruction with no tile of a peer runs its opcode at once (R299, R358). -/
theorem settles_startMove {t : State} {k : Nat} (e : Nat) {w : TWord} {env : Env} (hds : t.OwnTiles k w)
    (hland : Lands t (moveOp w t k e (t.q k e).seq.toNat env.apart w (t.descsOf k w)
      (t.sourceImage ((t.descsOf k w).getD 0 0) env.ext))) : Settles t (startMove t k e w env) := by
  obtain ⟨hwaits, hsegs, hquiet⟩ := hland
  unfold startMove
  extract_lets seq ds a reads writes
  split
  · exact .of (.refl t)
  · rw [if_neg fun h => space_getD hds 0 h.1]
    exact ⟨hwaits, hsegs, rfl, rfl, hquiet⟩

/-- The work of an opcode that places its bytes on this device or the host lands at once (R220). -/
theorem lands_moveOp {ds : List Desc} (hds : ∀ d ∈ ds, Tile.space d ≠ 3) (s : State) (k e seq : Nat) {w : TWord} (img : Memory)
    (hop : TW.opcode w ∈ [0x90, 0x91, 0x94, 0x96, 0x97]) : Lands s (moveOp w s k e seq [] w ds img) := by
  simp only [List.mem_cons, List.not_mem_nil, or_false] at hop
  unfold moveOp
  obtain h | h | h | h | h := hop <;> rw [h]
  · exact lands_copyOp hds ..
  · exact lands_prefetchOp hds ..
  · exact lands_kvappendOp ..
  · exact lands_furlOp hds ..
  · exact lands_unfurlOp hds ..

/-- A run of such an opcode settles, whatever its issue wrote into the descriptors' `BASE` before. -/
theorem Settles.move {s t : State} {k : Nat} (e : Nat) {w : TWord} {env : Env} (hq : Quiet s t) (hsp : SameSpaces s t)
    (hs : s.OwnTiles k w) (hop : TW.opcode w ∈ [0x90, 0x91, 0x94, 0x96, 0x97]) (hapart : env.apart = []) :
    Settles s (startMove t k e w env) := by
  have ht := hsp.ownTiles hs
  refine (settles_startMove e ht ?_).after hq
  rw [hapart]
  exact lands_moveOp ht _ _ _ _ _ hop

section

variable {s : State} {k : Nat} (e : Nat) {w : TWord} {env : Env} (hs : s.OwnTiles k w) (hapart : env.apart = [])
include hs hapart

theorem settles_bodyCopy (hop : TW.opcode w = 0x90) : Settles s (bodyCopy s k e w env) := by
  unfold bodyCopy
  extract_lets i a t
  have hq : Quiet s t := .ite (fun _ => .writeDesc ..) fun _ => .refl s
  have hsp : SameSpaces s t := .ite (fun _ => .writeBase ..) fun _ => .refl s
  exact .move e hq hsp hs (by simp [hop]) hapart

theorem settles_bodyPrefetch (hop : TW.opcode w = 0x91) : Settles s (bodyPrefetch s k e w env) := by
  unfold bodyPrefetch
  extract_lets i a b based r armed
  have hq : Quiet s armed := (Quiet.ite (fun _ => .writeDesc ..) fun _ => .refl s : Quiet s based).trans (.modCore based k rfl)
  have hsp : SameSpaces s based := .ite (fun _ => .writeBase ..) fun _ => .refl s
  have harmed : Leaves 0 based armed := .modCore based k rfl
  exact .move e hq (hsp.trans (.of_desc harmed.desc)) hs (by simp [hop]) hapart

theorem settles_bodyFurl (hop : TW.opcode w = 0x96) : Settles s (bodyFurl s k e w env) :=
  .move e (.refl s) (.refl s) hs (by simp [hop]) hapart

theorem settles_bodyUnfurl (hop : TW.opcode w = 0x97) : Settles s (bodyUnfurl s k e w env) := by
  unfold bodyUnfurl
  extract_lets i b h t
  have hq : Quiet s t := .ite (fun _ => .refl s) fun _ => .writeDesc ..
  have hsp : SameSpaces s t := .ite (fun _ => .refl s) fun _ => .writeBase ..
  exact .move e hq hsp hs (by simp [hop]) hapart

theorem settles_bodyKvappend (hop : TW.opcode w = 0x94) : Settles s (bodyKvappend s k e w env) := by
  unfold bodyKvappend
  extract_lets c sq tok n h w1 raised owned logged
  have hraised : Quiet s raised := (Quiet.seqLook ..).trans (.modKv ..)
  have hraised' : SameSpaces s raised := by
    refine .of_cores ?_
    unfold raised seqLook modKv
    extract_lets m
    split <;> rfl
  have howned : Quiet raised owned := .ite (fun _ => .refl raised) fun _ => .kvStore ..
  have howned' : SameSpaces raised owned := by
    refine .ite (fun _ => .refl raised) fun _ => ?_
    unfold kvStore32 kvStore
    exact .ite (fun _ => .of_coreWrite (applyMem_core ..)) fun _ => .refl raised
  have hlogged : Leaves 0 owned logged := .modQ ..
  exact .move e ((hraised.trans howned).trans (.logMod ..)) ((hraised'.trans howned').trans (.of_desc hlogged.desc)) hs
    (by simp [hop]) hapart

end

end State
end Sys2Proof.Machine

namespace Sys2Proof.Machine
namespace State

/-! SUPPORT. What collectives and frames leave: the memory and the registers that a collective is read from, and every core
(R346 to R351, R364 to R371). -/

/-- The registers that a collective's members and homes are read by. -/
def colRegs : List Reg := [.COL_TABLE_LO, .COL_TABLE_HI, .FAB_DEVID]

/-- From `s` to `t` every collective, its members and its homes are read as before. -/
structure SameCols (s t : State) : Prop where
  mem : t.mem = s.mem
  rd : ∀ r ∈ colRegs, ∀ i, t.rd r i = s.rd r i

namespace SameCols

variable {s t u : State}

theorem refl (s : State) : SameCols s s := ⟨rfl, fun _ _ _ => rfl⟩

theorem trans (h : SameCols s t) (g : SameCols t u) : SameCols s u :=
  ⟨g.mem.trans h.mem, fun r hr i => (g.rd r hr i).trans (h.rd r hr i)⟩

theorem wr (s : State) {r : Reg} (i : Nat) (v : Word) (h : r ∉ colRegs) : SameCols s (s.wr r i v) where
  mem := rfl
  rd r' hr j := by rw [rd_wr, if_neg fun e : r = r' ∧ i = j => h (e.1 ▸ hr)]

theorem fld (h : SameCols s t) {r : Reg} (hr : r ∈ colRegs) (i hi lo : Nat) : t.fld r i hi lo = s.fld r i hi lo :=
  congrArg (bits · hi lo) (h.rd r hr i)

theorem devId (h : SameCols s t) : t.devId = s.devId := h.fld (by decide) ..

theorem col (h : SameCols s t) (die cid : Nat) : t.col die cid = s.col die cid := by
  have hw : t.colW die cid = s.colW die cid := by
    funext n
    rw [colW, h.mem, h.fld (by decide), h.fld (by decide)]
    rfl
  rw [State.col, hw]
  rfl

theorem member (h : SameCols s t) (e : Col) (r : Nat) : t.member e r = s.member e r := by
  rw [State.member, h.mem]
  rfl

theorem homeOf (h : SameCols s t) (e : Col) (l j c : Nat) : t.homeOf e l j c = s.homeOf e l j c := by
  have hmember : t.member e = s.member e := funext (h.member e)
  have hholder : t.holder e = s.holder e := by
    funext n
    rw [holder, h.mem]
    rfl
  rw [State.homeOf, hmember, hholder]
  rfl

end SameCols

/-- From `s` to `t` frames are sent and nodes of collectives formed: collectives are read as before, and the cores are left. -/
structure Sends (s t : State) : Prop where
  cols : SameCols s t
  cores : t.cores = s.cores

namespace Sends

variable {s t u : State}

theorem refl (s : State) : Sends s s := ⟨.refl s, rfl⟩

theorem trans (h : Sends s t) (g : Sends t u) : Sends s u := ⟨h.cols.trans g.cols, g.cores.trans h.cores⟩

theorem quiet (h : Sends s t) : Quiet s t := .of_cores h.cores

theorem foldl {α : Type} {f : State → α → State} (xs : List α) (h : ∀ s x, Sends s (f s x)) (s : State) :
    Sends s (xs.foldl f s) := List.foldlRecOn (motive := Sends s) xs f (refl s) fun t ht x _ => ht.trans (h t x)

theorem ite {p : Prop} [Decidable p] (ht : p → Sends s t) (hu : ¬ p → Sends s u) : Sends s (if p then t else u) := by
  split
  · exact ht ‹_›
  · exact hu ‹_›

/-! One fact per update. -/

theorem modFab (s : State) (f : Fab → Fab) : Sends s (s.modFab f) := ⟨⟨rfl, fun _ _ _ => rfl⟩, rfl⟩

theorem emit (s : State) (o : OutMsg) : Sends s (s.emit o) := ⟨⟨rfl, fun _ _ _ => rfl⟩, rfl⟩

theorem wr (s : State) {r : Reg} (i : Nat) (v : Word) (h : r ∉ colRegs) : Sends s (s.wr r i v) := ⟨.wr s i v h, rfl⟩

theorem setFlag (s : State) {r : Reg} (i b : Nat) (h : r ∉ colRegs) : Sends s (s.setFlag r i b) := wr s i _ h

theorem countSat (s : State) {r : Reg} (i n : Nat) (h : r ∉ colRegs) : Sends s (s.countSat r i n) := wr s i _ h

theorem countWrap (s : State) {r : Reg} (i n : Nat) (h : r ∉ colRegs) : Sends s (s.countWrap r i n) := wr s i _ h

theorem flagIf (s : State) (b : Bool) {r : Reg} (i k : Nat) (h : r ∉ colRegs) : Sends s (s.flagIf b r i k) :=
  ite (fun _ => setFlag s i k h) fun _ => refl s

/-! Frames (R346 to R357). -/

theorem creditBack (s : State) (b : Option (Nat × Nat × Nat)) : Sends s (s.creditBack b) := by
  unfold State.creditBack
  split
  · exact ite (fun _ => emit ..) fun _ => refl s
  · exact refl s

theorem linkSend (s : State) (p : Nat) (f : LinkFrame) : Sends s (s.linkSend p f) := by
  unfold State.linkSend
  refine ite (fun _ => ?_) fun _ => modFab ..
  extract_lets x g
  exact ((modFab ..).trans (emit ..)).trans (creditBack ..)

theorem transmit (s : State) (key typ : Nat) (hdr : BitVec 256) (data : List Byte) : Sends s (s.transmit key typ hdr data) := by
  unfold State.transmit
  extract_lets cls
  split
  · exact refl s
  · exact ite (fun _ => emit ..) fun _ => linkSend ..

theorem openWindow (s : State) (key : Nat) : Sends s (s.openWindow key) := by
  unfold State.openWindow
  extract_lets f n go t
  have ht : Sends s t := modFab ..
  exact ite (fun _ => refl s) fun _ => ht.trans (foldl _ (fun u x => transmit u ..) t)

theorem queueFrame (s : State) (key typ : Nat) (ops : BitVec 96) (data : List Byte) (notify : Bool)
    (owner : Option (Nat × Nat × Nat)) : Sends s (s.queueFrame key typ ops data notify owner).1 := by
  unfold State.queueFrame
  extract_lets f x queued acked
  have hqueued : Sends s queued := modFab ..
  have hacked : Sends queued acked := ite (fun _ => transmit ..) fun _ => refl _
  exact (hqueued.trans hacked).trans (openWindow ..)

/-! Nodes and results of collectives (R366 to R370). -/

theorem blockOut (s : State) (e : Col) (narrow result : Bool) (ps : List Pair) : Sends s (s.blockOut e narrow result ps).1 := by
  unfold State.blockOut
  extract_lets ss b vanished clamped
  have hvanished : Sends s vanished :=
    ite (fun _ => refl s) fun _ => (countSat _ _ _ (by decide)).trans (setFlag _ _ _ (by decide))
  have hclamped : Sends vanished clamped :=
    ite (fun _ => (countSat _ _ _ (by decide)).trans (setFlag _ _ _ (by decide))) fun _ => refl _
  split
  · exact hvanished.trans hclamped
  · split <;> exact refl s

theorem fanResult (e : Col) (inst block hr : Nat) (b : BlockOut) (n fuel q : Nat) (s : State) :
    Sends s (s.fanResult e inst block hr b n fuel q) := by
  induction fuel generalizing s q with
  | zero => exact refl s
  | succ fuel ih =>
    unfold State.fanResult
    extract_lets me added kids
    have hadded : Sends s added := modFab ..
    exact hadded.trans (foldl _ (fun t k => ite (fun _ => ih k t) fun _ => queueFrame ..) added)

theorem formed (s : State) (die cid inst level node block : Nat) (ps : List Pair) :
    Sends s (s.formed die cid inst level node block ps) := by
  unfold State.formed
  extract_lets t
  have ht : Sends s t := modFab ..
  exact ht.trans ((countWrap _ _ _ (by decide)).trans (flagIf _ _ _ _ (by decide)))

theorem raise (owner : Option (Nat × Nat × Nat)) (fuel : Nat) (s : State) (die cid inst level node block : Nat) (ps : List Pair) :
    Sends s (s.raise die cid inst level node block ps owner fuel).1 := by
  induction fuel generalizing s die cid inst level node block ps owner with
  | zero => exact refl s
  | succ fuel ih =>
    unfold State.raise
    extract_lets e n r out t b
    split
    · exact (blockOut .. : Sends s r.1).trans (fanResult ..)
    · split
      · exact refl s
      · rename_i dev dd _
        have ht : Sends s t := blockOut ..
        refine ht.trans ?_
        split
        · extract_lets x added
          have hadded : Sends t added := modFab ..
          refine hadded.trans ?_
          split
          · split
            · exact refl _
            · exact (formed ..).trans (ih ..)
          · exact refl _
        · exact queueFrame ..

theorem colComplete (s : State) (die cid inst : Nat) : Sends s (s.colComplete die cid inst) := by
  unfold State.colComplete
  extract_lets t held
  have ht : Sends s t := modFab ..
  refine ht.trans (foldl _ (fun u x => ?_) t)
  split
  · exact refl u
  · exact (formed ..).trans (raise ..)

theorem putPeer (s : State) (k e seq : Nat) (d : Desc) (rs : List (Nat × Nat)) (img : Memory) (notify : Option (Nat × Nat)) :
    Sends s (s.putPeer k e seq d rs img notify).1 := by
  unfold State.putPeer
  extract_lets segs segs'
  refine List.foldlRecOn (motive := fun x : State × List (Nat × Nat) => Sends s x.1) _ _ (refl s) ?_
  exact fun x hx r _ => hx.trans (queueFrame ..)

end Sends

/-! Results that CRECVs wait for (R367, R370, R371). -/

namespace Quiet

theorem setFlight (s : State) (k e : Nat) (g : Flight) : Quiet s (s.setFlight k e g) :=
  modQ s k e fun h => by simp only [h, List.map_nil]

theorem drain (k e n : Nat) (s : State) : Quiet s (s.drain k e n) := by
  induction n generalizing s with
  | zero => exact refl s
  | succ n ih =>
    unfold State.drain
    split
    · exact refl s
    · rename_i hflight
      exact ite (fun _ => ((modQ s k e fun h => by simp [h] at hflight).trans (finish ..)).trans (ih _)) fun _ => refl s

theorem settle {land : Land} (h : ∀ s k e f, Quiet s (land s k e f).1) (s : State) (k e : Nat) (f : Flight) :
    Quiet s (s.settle land k e f) := by
  unfold State.settle
  extract_lets r g
  refine ite (fun _ => ?_) fun _ => setFlight ..
  have hr : Quiet s r.1 := by
    unfold r
    split
    · exact h ..
    · exact refl s
  exact (hr.trans (setFlight ..)).trans (drain ..)

theorem putDest (s : State) (k e seq : Nat) (d : Desc) (rs : List (Nat × Nat)) (img : Memory) (notify : Option (Nat × Nat)) :
    Quiet s (s.putDest k e seq [] d rs img notify).st := by
  by_cases h : Tile.space d = 3
  · unfold State.putDest
    rw [if_pos h]
    exact (Sends.putPeer ..).quiet
  · exact (lands_putDest s k e seq h rs img notify).quiet

theorem crecvLand (s : State) (k e : Nat) (f : Flight) : Quiet s (State.crecvLand s k e f).1 := by
  unfold State.crecvLand
  extract_lets die cid inst d c m r based counted
  have hr : Quiet s r.st := putDest ..
  have hbased : Quiet r.st based := by
    unfold based
    split
    · split
      · exact writeDesc ..
      · exact refl _
    · exact refl _
  exact ((hr.trans hbased).trans (gradNonfinite ..)).trans (Sends.colComplete ..).quiet

theorem deliver (s : State) (die cid : Nat) : Quiet s (s.deliver die cid) := by
  unfold State.deliver
  refine foldl _ (fun t x _ => ?_) s
  exact ite (fun _ => settle crecvLand ..) fun _ => refl t

theorem deliverAll (n : Nat) (s : State) : Quiet s (s.deliverAll n) := by
  induction n generalizing s with
  | zero => exact refl s
  | succ n ih =>
    unfold State.deliverAll
    extract_lets ks
    exact (foldl ks (fun t x _ => deliver ..) s).trans (ih _)

end Quiet

end State
end Sys2Proof.Machine

namespace Sys2Proof.Machine
namespace State

/-! SUPPORT. CSEND when every receiver of its contribution is on this device: no frame carries it, so it waits for none (R366, R367,
R371). -/

/-- Every device that a CSEND of a node sends to is this one. -/
def HomesHere (s : State) (e : Col) (level node : Nat) : Prop := ∀ dev ∈ s.colPeers e true level node, dev = s.devId

theorem SameCols.colPeers {s t : State} (h : SameCols s t) (e : Col) (send : Bool) (level node : Nat) :
    t.colPeers e send level node = s.colPeers e send level node := by
  have hmember : t.member = s.member := funext fun e => funext (h.member e)
  have hhome : t.homeOf = s.homeOf := by funext e l j c; exact h.homeOf e l j c
  rw [State.colPeers, hmember, hhome]
  rfl

theorem HomesHere.congr {s t : State} {e : Col} {level node : Nat} (h : SameCols s t) (hs : s.HomesHere e level node) :
    t.HomesHere e level node := by
  unfold HomesHere
  rw [h.colPeers, h.devId]
  exact hs

/-- A block's chunk is one of its collective's (R366). -/
theorem chunkOf_lt (s : State) (die cid b : Nat) : (s.col die cid).chunkOf b < (s.col die cid).chunks := by
  generalize he : s.col die cid = e
  have hpos : 0 < e.chunks := he ▸ Nat.succ_pos _
  unfold Col.chunkOf
  cases hc : (List.range e.chunks).find? fun c => decide (b < chunkStart e.blocks e.chunks (c + 1)) with
  | none => exact hpos
  | some c => exact List.mem_range.1 (List.mem_of_find?_eq_some hc)

/-- What was sent from state `s` went to no other device: no frame is waited for. -/
structure Stayed (s : State) (x : State × List (Nat × Nat)) : Prop where
  sends : Sends s x.1
  frames : x.2 = []

/-- A contribution's pieces or blocks in turn, each with its own frames. -/
theorem Stayed.foldl {α : Type} {f : State → α → State × List (Nat × Nat)} (xs : List α) (s : State)
    (h : ∀ t, Sends s t → ∀ a ∈ xs, Stayed t (f t a)) :
    Stayed s (xs.foldl (fun x a => ((f x.1 a).1, x.2 ++ (f x.1 a).2)) (s, [])) := by
  refine List.foldlRecOn xs _ ⟨.refl s, rfl⟩ fun x hx a ha => ?_
  obtain ⟨hsends, hframes⟩ := h x.1 hx.sends a ha
  exact ⟨hx.sends.trans hsends, by rw [hx.frames, hframes, List.nil_append]⟩

/-- A piece for a member of this device is its result (R367). -/
theorem stayed_sendPiece {s : State} {e : Col} {dst : Nat} (h : (s.member e dst).1 = s.devId) (inst node src base : Nat)
    (bs : List Byte) (owner : Option (Nat × Nat × Nat)) : Stayed s (s.sendPiece e inst dst node src base bs owner) := by
  unfold sendPiece
  dsimp only
  refine List.foldlRecOn _ _ ⟨.refl s, rfl⟩ fun x hx a _ => ?_
  rw [if_pos h]
  have hadded (b : CBlock) : Sends x.1 (x.1.addResult b) := .modFab ..
  exact ⟨hx.sends.trans (hadded _), hx.frames⟩

/-- A block whose node's parent has its home on this device goes to no other (R366). -/
theorem stayed_raise {s : State} {die cid level node : Nat} (h : s.HomesHere (s.col die cid) level node)
    (hmoves : (s.col die cid).moves = false) (inst block : Nat) (ps : List Pair) (owner : Option (Nat × Nat × Nat)) (fuel : Nat) :
    Stayed s (s.raise die cid inst level node block ps owner fuel) := by
  refine ⟨.raise .., ?_⟩
  cases fuel with
  | zero => rfl
  | succ fuel =>
    unfold raise
    extract_lets e n r out t b
    split
    · rfl
    · rename_i hlevel
      split
      · rfl
      · rename_i dev dd hhome
        have ht : SameCols s t := (Sends.blockOut .. : Sends s t).cols
        have hdev : dev ∈ s.colPeers e true level node := by
          unfold colPeers
          rw [hmoves, if_neg Bool.false_ne_true, if_neg fun hroot => hlevel hroot.1]
          refine List.mem_filterMap.2 ⟨e.chunkOf block, List.mem_range.2 (chunkOf_lt ..), ?_⟩
          rw [if_pos rfl, hhome]
          rfl
        rw [if_pos ((h dev hdev).trans ht.devId.symm)]
        extract_lets x added
        split
        · split <;> rfl
        · rfl

theorem lands_colPeerLost (s : State) (e : Col) (inst : Nat) : Lands s (s.colPeerLost e inst) := by
  unfold colPeerLost
  extract_lets t
  have ht : Quiet s t := .ite (fun _ => (Sends.modFab ..).quiet) fun _ => .refl s
  exact .of (ht.trans (.setFlag ..))

theorem Stayed.lands {s t : State} {x : State × List (Nat × Nat)} {met : List Status} {img : Memory} (h : Stayed t x)
    (hs : Quiet s t) : Lands s ⟨x.1, met, x.2, [], img⟩ := ⟨h.frames, rfl, hs.trans h.sends.quiet⟩

theorem lands_csendOp {s : State} {k : Nat} {w : TWord}
    (h : s.HomesHere (s.col (dieOfCore k) (bits w 76 65)) (bits w 64 60) (bits w 59 42)) (e seq : Nat) (apart : List Nat)
    (ds : List Desc) (img : Memory) : Lands s (csendOp s k e seq apart w ds img) := by
  unfold csendOp
  extract_lets die d cid level node c inst t own bs me dsts pieces blocks
  have ht : Sends s t := .modFab ..
  have hcol {u : State} (hu : Sends t u) : u.col die cid = c := (ht.trans hu).cols.col ..
  have hhome {u : State} (hu : Sends t u) : u.HomesHere c level node := h.congr (ht.trans hu).cols
  split
  · exact .of (.refl s)
  · split
    · exact lands_colPeerLost ..
    · split
      · rename_i hmoves
        refine (Stayed.foldl (f := fun u dst => u.sendPiece c inst dst node me (Tile.baseRaw d) bs own) dsts t ?_).lands ht.quiet
        intro u hu dst hdst
        refine stayed_sendPiece (hhome hu _ ?_) ..
        unfold colPeers
        rw [if_pos hmoves]
        unfold dsts at hdst
        split at hdst
        · rename_i hop
          rw [if_neg fun hx => hx.2 hop]
          exact List.mem_map_of_mem (f := fun r => (u.member c r).1) hdst
        · rename_i hop
          rw [if_pos ⟨rfl, hop⟩, List.mem_singleton.1 hdst]
          exact List.mem_singleton_self _
      · rename_i hmoves
        refine (Stayed.foldl (f := fun u b => u.raise die cid inst level node b (tilePairs img k d (512 * b) (c.blockLen b)) own 20)
          (List.range c.blocks) t ?_).lands ht.quiet
        intro u hu b _
        refine stayed_raise ?_ ?_ ..
        · rw [hcol hu]
          exact hhome hu
        · rw [hcol hu]
          exact Bool.eq_false_iff.2 hmoves

/-- What quiet work follows. -/
theorem Settles.andThen {s t : State} {r : Run} (h : Settles s r) (hq : Quiet r.st t) : Settles s { r with st := t } :=
  ⟨h.waits, h.segs, h.col, h.stuck, h.quiet.trans hq⟩

/-- A CSEND to receivers of this device alone settles: results that it completes go to the CRECVs that wait (R367, R371). -/
theorem settles_bodyCsend {s : State} {k : Nat} {w : TWord} (e : Nat) {env : Env} (hds : s.OwnTiles k w)
    (hop : TW.opcode w = 0x98) (h : s.HomesHere (s.col (dieOfCore k) (bits w 76 65)) (bits w 64 60) (bits w 59 42)) :
    Settles s (bodyCsend s k e w env) := by
  have hmove : moveOp w = csendOp := by rw [moveOp, hop]; rfl
  have hrun : Settles s (startMove s k e w env) := settles_startMove e hds (hmove ▸ lands_csendOp h ..)
  exact hrun.andThen (Quiet.deliverAll 8 _)

/-- What is read before an engine's work begins leaves collectives. -/
theorem SameCols.begun (s : State) (k e : Nat) (w : TWord) (env : Env) (body : Body) :
    SameCols (s.issued k e w env) (s.begun k e w env body) := by
  have hcount (t : State) {r : Reg} (i n : Nat) (hr : r ∉ colRegs) : SameCols t (t.countSat r i n) := .wr t i _ hr
  have hcore (t : State) (f : Core → Core) : SameCols t (t.modCore k f) := ⟨rfl, fun _ _ _ => rfl⟩
  unfold State.begun
  extract_lets t reads
  have ht : SameCols (s.issued k e w env) t := by
    unfold t shadowRewritten
    split
    · exact .refl _
    · split
      · exact (hcore ..).trans (hcount _ _ _ (by decide))
      · exact .refl _
  have hstall : SameCols t (t.tagStall k e w reads env.hold) := by
    unfold tagStall
    split
    · exact hcount _ _ _ (by decide)
    · exact .refl _
  refine (ht.trans hstall).trans ?_
  unfold cacheReads
  split
  · exact .refl _
  · exact hcore ..

end State
end Sys2Proof.Machine

namespace Sys2Proof.Machine

/-! The rows that complete at once (R198, R200). -/

section

variable {i : Instr} {k e op : Nat} {env : Env} {body : Body} {w : TWord} {s : State}

/-- The command of a row whose work settles completes its instruction. -/
theorem exec_of_settles (hrow : tensorRow i = some (k, e, op, env, body)) (h : s.Completes k e op w env)
    (hwork : (s.begun k e w env body).Settles (body (s.begun k e w env body) k e w env)) :
    exec i s = .next (s.completed k e w env body) := by
  rw [exec_tensorRow s hrow, State.runHead_of_settles h hwork]

theorem exec_of_localWork (hrow : tensorRow i = some (k, e, op, env, body)) (hlocal : State.LocalWork body)
    (h : s.Completes k e op w env) : exec i s = .next (s.completed k e w env body) := by
  obtain ⟨-, -, hfaults, -⟩ := id h
  exact exec_of_settles hrow h (hlocal.settles _ k e w hfaults)

/-- A list of rows of local work, of queues of a core. -/
theorem exec_localRows {rows : List (Instr × Nat × Nat × Body)} (hrows : rows.map (fun x => tensorRow x.1)
      = rows.map fun x => some (k, x.2.1, x.2.2.1, env, x.2.2.2)) (hlocal : ∀ x ∈ rows, State.LocalWork x.2.2.2) :
    ∀ x ∈ rows, s.Completes k x.2.1 x.2.2.1 w env → exec x.1 s = .next (s.completed k x.2.1 w env x.2.2.2) :=
  fun x hx h => exec_of_localWork (List.map_inj_left.1 hrows x hx) (hlocal x hx) h

/-- SETF and ADDF of a flag of this device (R243, R248). -/
theorem exec_of_bodyFlag {add : Bool} (hrow : tensorRow i = some (k, e, op, env, bodyFlag add)) (hscope : s.flagScope k w ≤ 2)
    (h : s.Completes k e op w env) : exec i s = .next (s.completed k e w env (bodyFlag add)) := by
  obtain ⟨-, hdev⟩ := State.begun_keeps s k e w env (bodyFlag add)
  exact exec_of_settles hrow h (State.settles_bodyFlag _ add k e env (by rwa [State.flagScope_congr hdev]))

/-- An instruction of the Move Engine whose tiles are not of a peer, given that its work settles (R220). -/
theorem exec_of_ownTiles (hrow : tensorRow i = some (k, 5, op, env, body)) (hds : s.OwnTiles k w)
    (hwork : ∀ t : State, t.OwnTiles k w → env.apart = [] → TW.opcode w = op → t.Settles (body t k 5 w env))
    (h : s.Completes k 5 op w env) : exec i s = .next (s.completed k 5 w env body) := by
  obtain ⟨⟨-, hop, -⟩, -, -, hapart, -⟩ := id h
  obtain ⟨hdesc, -⟩ := State.begun_keeps s k 5 w env body
  exact exec_of_settles hrow h (hwork _ ((State.SameSpaces.of_desc hdesc).ownTiles hds) hapart hop)

/-- CSEND to receivers of this device alone (R366, R367). -/
theorem exec_csend_of_homesHere (hds : s.OwnTiles k w)
    (hhomes : (s.issued k 5 w env).HomesHere ((s.issued k 5 w env).col (dieOfCore k) (bits w 76 65)) (bits w 64 60) (bits w 59 42))
    (hrow : tensorRow i = some (k, 5, 0x98, env, bodyCsend)) (h : s.Completes k 5 0x98 w env) :
    exec i s = .next (s.completed k 5 w env bodyCsend) := by
  obtain ⟨⟨-, hop, -⟩, -⟩ := id h
  obtain ⟨hdesc, -⟩ := State.begun_keeps s k 5 w env bodyCsend
  have hcols := State.SameCols.begun s k 5 w env bodyCsend
  refine exec_of_settles hrow h (State.settles_bodyCsend 5 ((State.SameSpaces.of_desc hdesc).ownTiles hds) hop ?_)
  rw [hcols.col]
  exact hhomes.congr hcols

end

/-- Settles O5: the first clause from the carrying out of an instruction that waits for nothing; the others from it, each engine's work
leaving nothing to wait for and no flight in a queue that had none. -/
theorem tensorRowsCompleteAtOnce : Obligations.TensorRowsCompleteAtOnce := by
  unfold Obligations.TensorRowsCompleteAtOnce
  refine ⟨?done, ?control, ?engines, ?flags, ?moves⟩
  case done =>
    intro i core eng op env body w s hrow hready hclean hwaits hsegs hcol hstuck hflight
    rw [exec_tensorRow s hrow, State.runHead_of_done hready hclean hwaits hsegs hcol hstuck hflight]
  case control =>
    intro core eng env w s
    simp only [List.forall_mem_cons]
    exact ⟨exec_of_localWork rfl .none, exec_of_localWork rfl (.upass true), exec_of_localWork rfl (.upass false), by simp⟩
  case engines =>
    intro core env w s
    refine exec_localRows rfl ?_
    simp only [List.forall_mem_cons]
    exact ⟨.fmm, .bmm, .conv, .conv2, .convx, .gather, .kvread, .route, .float, .float, .float, .float, .float, .float, .float, .sel,
      .float, .float, .float, .float, .float, .float, .float, .float, .float, .float, .float, .float, .float, .float, .comb, .rsum,
      .rmax, .int, .int, .int, .int, .int, .int, .int, .int, .int, .int, .vmode, .adam, .mom, .optStep, by simp⟩
  case flags =>
    intro core eng env w s hscope
    simp only [List.forall_mem_cons]
    exact ⟨exec_of_bodyFlag rfl hscope, exec_of_bodyFlag rfl hscope, by simp⟩
  case moves =>
    intro core env w s hds
    refine ⟨?_, fun _ _ _ _ => exec_of_ownTiles rfl hds fun _ => State.settles_bodyKvappend 5, ?_⟩
    · simp only [List.forall_mem_cons]
      exact ⟨exec_of_ownTiles rfl hds fun _ => State.settles_bodyCopy 5,
        exec_of_ownTiles rfl hds fun _ => State.settles_bodyPrefetch 5,
        exec_of_ownTiles rfl hds fun _ => State.settles_bodyFurl 5,
        exec_of_ownTiles rfl hds fun _ => State.settles_bodyUnfurl 5, by simp⟩
    · rintro _ _ rfl rfl _ hhomes
      exact exec_csend_of_homesHere hds hhomes rfl

end Sys2Proof.Machine

namespace Sys2Proof.Machine

/-! SUPPORT. TOKEN_DEADLOCK: what the head of a dead queue takes with it, and what its event leaves of COUNTs, holds and registers
(R232, R239, R241). -/

/-- A token whose every pending post stands behind the head that waits on it is dead (R239). -/
theorem tokenDead_of_own {s : State} {k e id : Nat} {w : TWord} (hwait : id ∈ TW.waits w) (hcount : (s.tok k e id).count = 0)
    (hpend : 0 < (s.tok k e id).pend) (hown : (s.tok k e id).pend = (s.tok k e id).pendOwn) : tokenDead s k e w = true := by
  have hne : (s.tok k e id).pendOwn ≠ 0 := by omega
  unfold tokenDead
  exact List.any_eq_true.2 ⟨id, hwait, by simp [hcount, hown, hne]⟩

/-- A queue that its head has left (R198, R227). -/
def EngQ.headOff (x : EngQ) : EngQ :=
  { x with items := x.items.drop 1, seq := x.seq + 1, restale := false, waiting := false }

namespace State

/-- From `s` to `t` only PEND, PEND_OWN and the stalled cycles of the Vector queue may move among tokens, queues, holds and registers. -/
structure OnlyPends (s t : State) : Prop where
  q : ∀ i j, t.q i j = s.q i j
  count : ∀ i j id, (t.tok i j id).count = (s.tok i j id).count
  hold : ∀ i, (t.core i).hold = (s.core i).hold
  rd : ∀ r i, r ≠ .VEC_STALL_COUNT → t.rd r i = s.rd r i

namespace OnlyPends

theorem refl (s : State) : OnlyPends s s := ⟨fun _ _ => rfl, fun _ _ _ => rfl, fun _ => rfl, fun _ _ _ => rfl⟩

theorem trans {s t u : State} (h : OnlyPends s t) (g : OnlyPends t u) : OnlyPends s u where
  q i j := (g.q i j).trans (h.q i j)
  count i j id := (g.count i j id).trans (h.count i j id)
  hold i := (g.hold i).trans (h.hold i)
  rd r i hr := (g.rd r i hr).trans (h.rd r i hr)

/-- A change of a token other than of its COUNT. -/
theorem modTok (s : State) (k e id : Nat) {f : Tok → Tok} (h : ∀ x, (f x).count = x.count) : OnlyPends s (s.modTok k e id f) where
  q i j := q_modTok ..
  count i j l := by
    rw [tok_modTok]
    split
    · rename_i hkey
      obtain ⟨rfl, hkey⟩ := hkey
      rw [h, tok, tok, hkey]
    · rfl
  hold i := hold_modTok ..
  rd _ _ _ := rfl

/-- The stalled cycles of a head that leaves without issuing (R169). -/
theorem headDropped (s : State) (k e : Nat) : OnlyPends s (s.headDropped k e) := by
  have hstall (t : State) (n : Nat) : OnlyPends t (t.waitStall k e n) := by
    unfold waitStall
    split
    · exact ⟨fun _ _ => rfl, fun _ _ _ => rfl, fun _ => rfl, fun r i hr => by rw [rd_countSat, if_neg fun h => hr h.1.symm]⟩
    · exact refl t
  have hdraw : OnlyPends s s.drawWord.1 := ⟨fun _ _ => rfl, fun _ _ _ => rfl, fun _ => rfl, fun _ _ _ => rfl⟩
  unfold State.headDropped
  split
  · split
    · exact hdraw.trans (hstall ..)
    · exact refl s
  · exact refl s

theorem dropPend (s : State) (k : Nat) (w : TWord) : OnlyPends s (s.dropPend k w) := by
  unfold State.dropPend
  split
  · exact modTok s _ _ _ fun _ => rfl
  · exact refl s

end OnlyPends

/-- PEND_OWN of the token that an instruction would post to in its own queue falls (R232). -/
def dropOwn (s : State) (k : Nat) (w : TWord) : State :=
  match TW.post w with
  | some id => if TW.pcons w = TW.engine w then s.modTok k (TW.pcons w) id fun t => { t with pendOwn := t.pendOwn - 1 } else s
  | none => s

theorem OnlyPends.dropOwn (s : State) (k : Nat) (w : TWord) : OnlyPends s (s.dropOwn k w) := by
  unfold State.dropOwn
  split
  · split
    · exact modTok s _ _ _ fun _ => rfl
    · exact refl s
  · exact refl s

/-- The dead head has left its queue, and PEND and PEND_OWN no longer count it (R232, R241). -/
def deadHeadOff (s : State) (k e : Nat) (w : TWord) : State :=
  (((s.headDropped k e).modQ k e EngQ.headOff).dropPend k w).dropOwn k w

/-- Its event record tells of the deadlock (R227, R241). -/
def deadRecorded (s : State) (k e : Nat) (w : TWord) : State :=
  (s.deadHeadOff k e w).putEvent (clOfCore k) ((s.deadHeadOff k e w).eventWords k w false ((s.deadHeadOff k e w).streamBit k w)
    [.deadlock] ((s.deadHeadOff k e w).q k e).seq)

section
variable (s : State) (k e : Nat) (w : TWord)

/-- Between the head's leaving and its record nothing but PENDs moves. -/
theorem onlyPends_deadHeadOff : OnlyPends ((s.headDropped k e).modQ k e EngQ.headOff) (s.deadHeadOff k e w) :=
  (OnlyPends.dropPend ..).trans (.dropOwn ..)

theorem q_deadRecorded : ∃ l, (s.deadRecorded k e w).q k e = { (s.q k e).headOff with log := l } := by
  have hoff : (s.deadHeadOff k e w).q k e = (s.q k e).headOff := by
    rw [(s.onlyPends_deadHeadOff k e w).q, q_modQ, if_pos ⟨rfl, rfl⟩, (OnlyPends.headDropped s k e).q]
  rw [← hoff]
  exact putEvent_q ..

theorem count_deadRecorded (i j id : Nat) : ((s.deadRecorded k e w).tok i j id).count = (s.tok i j id).count :=
  calc ((s.deadRecorded k e w).tok i j id).count
      = ((s.deadHeadOff k e w).tok i j id).count := (congrArg Tok.count (putEvent_tok (s.deadHeadOff k e w) _ _ i j id) :)
    _ = (((s.headDropped k e).modQ k e EngQ.headOff).tok i j id).count := (s.onlyPends_deadHeadOff k e w).count i j id
    _ = (s.tok i j id).count := by rw [tok_modQ, (OnlyPends.headDropped s k e).count]

theorem hold_deadRecorded (i : Nat) : ((s.deadRecorded k e w).core i).hold = (s.core i).hold := by
  rw [deadRecorded, putEvent_hold, (s.onlyPends_deadHeadOff k e w).hold, hold_modQ, (OnlyPends.headDropped s k e).hold]

/-- The count of token deadlocks stands until the event counts. -/
theorem tokdlCount_deadRecorded (c : Nat) : (s.deadRecorded k e w).rd .SHR_TOKDL_COUNT c = s.rd .SHR_TOKDL_COUNT c := by
  rw [deadRecorded, putEvent_rd _ _ _ _ (by decide), (s.onlyPends_deadHeadOff k e w).rd _ _ (by decide)]
  exact (OnlyPends.headDropped s k e).rd _ _ (by decide)

end

/-- The event of a dead head whose core no fault holds: it leaves, is recorded and counted, and its core holds (R241). -/
theorem tokenDeadlock_of_dead {s : State} {k e : Nat} {w : TWord} (hhead : s.headOf k e = some w) (hdead : tokenDead s k e w = true)
    (hfree : (s.core k).hold = none) :
    tokenDeadlock s k e = (((s.deadRecorded k e w).setFlag .SHR_STATUS (clOfCore k) 30).countSat .SHR_TOKDL_COUNT (clOfCore k) 1).holdCore
      k 0x08 e .deadlock := by
  unfold tokenDeadlock
  rw [hhead]
  exact if_pos (by simp [hdead, hfree])

end State

theorem exec_tokenDeadlock (core : CoreId) (eng : Eng) (s : State) :
    exec (.tokenDeadlock core eng) s = .next (tokenDeadlock s core eng.num) := rfl

/-- Settles O9: the dead head leaves its queue and is recorded, and no COUNT moves on the way. -/
theorem tokenDeadlockEndsTheHead : Obligations.TokenDeadlockEndsTheHead := by
  unfold Obligations.TokenDeadlockEndsTheHead
  intro core eng w k s hhead hwait hcount hpend hown hfree
  have hdead := tokenDead_of_own hwait hcount hpend hown
  obtain ⟨l, hq⟩ := s.q_deadRecorded core eng.num w
  rw [exec_tokenDeadlock, State.tokenDeadlock_of_dead hhead hdead hfree]
  refine ⟨_, rfl, ?items, ?seq, ?counted, ?status, ?hold, ?counts⟩
  case items => rw [State.q_holdCore, State.q_countSat, State.q_setFlag, hq, EngQ.headOff]
  case seq => rw [State.q_holdCore, State.q_countSat, State.q_setFlag, hq, EngQ.headOff]
  case counted =>
    simp [State.tokdlCount_deadRecorded, satAdd, Nat.min_comm]
  case status => simp [State.flag]
  case hold =>
    refine State.hold_holdCore_of_none _ _ _ ?_
    rw [State.core_countSat, State.core_setFlag, State.hold_deadRecorded, hfree]
  case counts =>
    intro e id
    rw [State.tok_holdCore, State.tok_countSat, State.tok_setFlag, State.count_deadRecorded]

end Sys2Proof.Machine

namespace Sys2Proof.Machine

/-! SUPPORT. STALE_REFETCH and STALE_REFETCH_LAND: what a refetch leaves of the queue and its tokens when it begins, and which STALE
marks stand when it lands (R237, R303). -/

namespace State

theorem watch_modQ (s : State) (k e : Nat) (f : EngQ → EngQ) (i : Nat) : ((s.modQ k e f).core i).watch = (s.core i).watch := by
  unfold modQ setQ
  rw [core_modCore]
  split
  · subst i; rfl
  · rfl

theorem watch_modTok (s : State) (k e id : Nat) (f : Tok → Tok) (i : Nat) :
    ((s.modTok k e id f).core i).watch = (s.core i).watch := by
  unfold modTok
  rw [core_modCore]
  split
  · subst i; rfl
  · rfl

/-! The refetch begins. -/

/-- From `s` to `t` memory, every queue and every token stand as they were. -/
structure SameHeads (s t : State) : Prop where
  mem : t.mem = s.mem
  q : ∀ i j, t.q i j = s.q i j
  tok : ∀ i j id, t.tok i j id = s.tok i j id

namespace SameHeads

theorem refl (s : State) : SameHeads s s := ⟨rfl, fun _ _ => rfl, fun _ _ _ => rfl⟩

theorem trans {s t u : State} (h : SameHeads s t) (g : SameHeads t u) : SameHeads s u where
  mem := g.mem.trans h.mem
  q i j := (g.q i j).trans (h.q i j)
  tok i j id := (g.tok i j id).trans (h.tok i j id)

/-- A change of a core's Source Watch. -/
theorem modWatch (s : State) (k : Nat) (f : Core → SMap WRange) : SameHeads s (s.modCore k fun c => { c with watch := f c }) where
  mem := rfl
  q i j := by
    rw [State.q, core_modCore]
    split
    · subst i; rfl
    · rfl
  tok i j id := by
    rw [State.tok, core_modCore]
    split
    · subst i; rfl
    · rfl

/-- The ranges take their part in a refetch, which counts once; a sixteenth in a row is reported (R303). -/
theorem refetchRanges (s : State) (k : Nat) (due : List (Nat × WRange)) : SameHeads s (s.refetchRanges k due) := by
  unfold State.refetchRanges
  split
  · exact refl s
  · refine List.foldlRecOn (motive := SameHeads s) due _ ⟨rfl, fun _ _ => rfl, fun _ _ _ => rfl⟩ fun t ht x _ => ?_
    have hmarked := ht.trans (modWatch t k fun c => SMap.set WRange.reset c.watch x.1
      { x.2 with seen := false, busy := true, refetches := x.2.refetches + 1 })
    dsimp only
    split
    · exact hmarked.trans ⟨rfl, fun _ _ => rfl, fun _ _ _ => rfl⟩
    · exact hmarked

end SameHeads

/-- The ranges that a refetch of a queue's head copies again: bound to a stale token of the head, and met by a write (R303). -/
def refetchDue (s : State) (k e : Nat) (w : TWord) : List (Nat × WRange) :=
  (s.core k).watch.filter fun x => x.2.armed && x.2.eng == e && (staleTokens s k e w).contains x.2.tok && x.2.seen

theorem staleRefetch_of_stale {s : State} {k e : Nat} {w : TWord} (hhead : s.headOf k e = some w) (hfree : (s.core k).hold = none)
    (hmet : s.waitsMet k e w = true) (hstale : s.waitsStale k e w = true) (hidle : (s.q k e).refetching = false) :
    staleRefetch s k e
      = (s.refetchRanges k (s.refetchDue k e w)).modQ k e fun q => { q with refetching := true, restale := true } := by
  unfold staleRefetch
  rw [hhead]
  exact if_pos (by simp [hfree, hmet, hstale, hidle])

/-! The refetch lands. -/

/-- The ranges under refetch of a queue have been copied, and take part in none (R303). -/
def refetchCopied (s : State) (k e : Nat) : State :=
  (((s.core k).watch.filter fun x => x.2.busy && x.2.eng == e).foldl (fun t x => t.copyRange k x.2) s).modCore k fun c =>
    { c with watch := SMap.mapVals WRange.reset (fun _ r => if r.eng = e then { r with busy := false } else r) c.watch }

/-- Has an armed range of a token seen a further write (R237)? -/
def seenAgain (s : State) (k e id : Nat) : Bool :=
  (s.core k).watch.any fun x => x.2.armed && x.2.eng == e && x.2.tok == id && x.2.seen

/-- STALE clears on each of some tokens that `keep` does not name. -/
def clearStale (s : State) (k e : Nat) (keep : Nat → Bool) (ids : List Nat) : State :=
  ids.foldl (fun t id => if keep id then t else t.modTok k e id fun x => { x with stale := false }) s

theorem staleRefetchLand_of_refetching {s : State} {k e : Nat} {w : TWord} (hhead : s.headOf k e = some w)
    (hbusy : (s.q k e).refetching = true) :
    staleRefetchLand s k e
      = ((s.refetchCopied k e).clearStale k e ((s.refetchCopied k e).seenAgain k e) (staleTokens (s.refetchCopied k e) k e w)).modQ k e
          fun q => { q with refetching := false } := by
  unfold staleRefetchLand
  rw [hhead]
  exact if_pos hbusy

/-- A copy of a range writes memory; what stands in the queues stays (R297, R302, R442). -/
theorem items_copyRange (s : State) (k : Nat) (r : WRange) (i j : Nat) : ((s.copyRange k r).q i j).items = (s.q i j).items := by
  unfold copyRange
  obtain ⟨bs, hcore⟩ := commitMem_core s (copyTile s.mem s.mem k r.src r.dst)
    ((Tile.exact r.dst).map fun x => (phys k (Tile.space r.dst) x.1, x.2))
  obtain ⟨-, -, -, -, -, -, -, -, -, hq⟩ := coreWrite_keeps bs (s.core i)
  rw [q, hcore, hq]
  rfl

theorem items_refetchCopied (s : State) (k e i j : Nat) : ((s.refetchCopied k e).q i j).items = (s.q i j).items := by
  unfold refetchCopied
  rw [(SameHeads.modWatch ..).q]
  refine List.foldlRecOn (motive := fun t : State => (t.q i j).items = (s.q i j).items) _ _ rfl fun t ht x _ => ?_
  rw [items_copyRange, ht]

section
variable (k e : Nat) (keep : Nat → Bool) (ids : List Nat) (s : State)

theorem q_clearStale (i j : Nat) : (s.clearStale k e keep ids).q i j = s.q i j :=
  List.foldlRecOn (motive := fun t : State => t.q i j = s.q i j) _ _ rfl fun t ht id _ => by
    split
    · exact ht
    · rw [q_modTok, ht]

theorem watch_clearStale (i : Nat) : ((s.clearStale k e keep ids).core i).watch = (s.core i).watch :=
  List.foldlRecOn (motive := fun t : State => (t.core i).watch = (s.core i).watch) _ _ rfl fun t ht id _ => by
    split
    · exact ht
    · rw [watch_modTok, ht]

/-- A token of the queue that is still STALE was STALE before, and is not one of those that the clearing takes in. -/
theorem stale_clearStale {id : Nat} (h : ((s.clearStale k e keep ids).tok k e id).stale = true) :
    (s.tok k e id).stale = true ∧ (id ∈ ids → keep id = true) := by
  induction ids generalizing s with
  | nil => exact ⟨h, fun hmem => absurd hmem List.not_mem_nil⟩
  | cons x xs ih =>
    obtain ⟨hstale, hkeep⟩ := ih _ h
    dsimp only at hstale
    by_cases hx : keep x = true
    · rw [if_pos hx] at hstale
      exact ⟨hstale, fun hmem => (List.mem_cons.1 hmem).elim (fun heq => heq ▸ hx) hkeep⟩
    · rw [if_neg hx, tok_modTok] at hstale
      split at hstale
      · cases hstale
      · rename_i hne
        exact ⟨hstale, fun hmem => (List.mem_cons.1 hmem).elim (fun heq => absurd ⟨rfl, heq ▸ rfl⟩ hne) hkeep⟩

end

end State

theorem exec_staleRefetch (core : CoreId) (eng : Eng) (s : State) :
    exec (.staleRefetch core eng) s = .next (staleRefetch s core eng.num) := rfl

theorem exec_staleRefetchLand (core : CoreId) (eng : Eng) (s : State) :
    exec (.staleRefetchLand core eng) s = .next (staleRefetchLand s core eng.num) := rfl

/-- Settles O11: a refetch marks ranges alone as it begins; as it lands, STALE stands only where the landing found a further write. -/
theorem staleHeadRefetchesBeforeItIssues : Obligations.StaleHeadRefetchesBeforeItIssues := by
  unfold Obligations.StaleHeadRefetchesBeforeItIssues
  refine ⟨?begins, ?lands⟩
  case begins =>
    intro core eng w s hhead hfree hmet hstale hidle
    have hsame := State.SameHeads.refetchRanges s core (s.refetchDue core eng.num w)
    rw [exec_staleRefetch, State.staleRefetch_of_stale hhead hfree hmet hstale hidle]
    refine ⟨_, rfl, ?_, ?_, ?_, hsame.mem, ?_⟩
    · rw [State.q_modQ, if_pos ⟨rfl, rfl⟩]
    · rw [State.q_modQ, if_pos ⟨rfl, rfl⟩]
    · rw [State.q_modQ, if_pos ⟨rfl, rfl⟩, hsame.q]
    · intro c e id
      rw [State.tok_modQ, hsame.tok]
  case lands =>
    intro core eng w s hhead hbusy
    rw [exec_staleRefetchLand, State.staleRefetchLand_of_refetching hhead hbusy]
    refine ⟨_, rfl, ?_, ?_, fun k hk hstale => ?_⟩
    · rw [State.q_modQ, if_pos ⟨rfl, rfl⟩]
    · rw [State.q_modQ, if_pos ⟨rfl, rfl⟩, State.q_clearStale, State.items_refetchCopied]
    · rw [State.tok_modQ] at hstale
      obtain ⟨hbefore, hkeep⟩ := State.stale_clearStale core eng.num _ _ _ hstale
      have hagain : (s.refetchCopied core eng.num).seenAgain core eng.num k = true :=
        hkeep (List.mem_filter.2 ⟨hk, hbefore⟩)
      rwa [State.watch_modQ, State.watch_clearStale]

end Sys2Proof.Machine

namespace Sys2Proof.Machine

/-! SUPPORT. Waiting on flags: WAITF that issues, holds its queue or comes true, CRECV, and the WAITFs that a deadlock or the timer
ends (R221, R245, R249 to R251, R367). -/

namespace State

variable {s : State} {k e : Nat} {w : TWord}

/-- An instruction for which R225 does not list STALE issues without it (R237). -/
theorem staleMet_of_unlisted (restale : Bool) (h : staleListed (TW.opcode w) = false) : staleMet restale w = [] := by
  rw [staleMet, h, Bool.and_false]
  rfl

/-- The row of an opcode without STALE carries out its ready head that passes the checks (R198, R223). -/
theorem runHead_of_passed {op : Nat} {env : Env} (body : Body) (hready : s.HeadReady k e op w)
    (hpass : (s.taken k e w env).refusal k e w env.ext = none) (hlist : staleListed op = false) :
    s.runHead k e op env body = (s.issued k e w env).carry k e w (s.issueSeq k e w env) env [] body := by
  have ⟨_, hop, _⟩ := hready
  rw [runHead_of_headReady env body hready, issue_of_passed body hpass, staleMet_of_unlisted _ (hop ▸ hlist)]

/-- A WAITF that need not hold its queue, or that its update pass skips, runs as any head (R222, R245). -/
theorem waitf_of_free (env : Env) (hhead : s.headOf k e = some w)
    (hfree : s.blockedWait k e = none ∨ s.skipped k e w = true) : waitf s k e env = s.runHead k e 0x01 env bodyNone := by
  unfold waitf
  rw [hhead]
  refine if_neg fun hholds => ?_
  simp only [Bool.and_eq_true, Bool.not_eq_true', Option.isSome_iff_ne_none] at hholds
  obtain ⟨⟨-, hblocked⟩, hskip⟩ := hholds
  exact hfree.elim hblocked fun h => by simp [h] at hskip

/-- A WAITF whose condition is false holds its queue (R245). -/
theorem waitf_of_blocked (env : Env) (hready : s.HeadReady k e 0x01 w) (hblocked : (s.blockedWait k e).isSome = true)
    (hskip : s.skipped k e w = false) :
    waitf s k e env = (s.waitStall k e env.stall).modQ k e fun q => { q with waiting := true } := by
  obtain ⟨hhead, hop, hmay, -, -⟩ := hready
  unfold waitf
  rw [hhead]
  exact if_pos (by simp [hop, hmay, hblocked, hskip])

/-- The condition of a WAITF that holds its queue has become true (R245). -/
theorem waitfSatisfied_of_holds (hhead : s.headOf k e = some w) (hwait : (s.q k e).waiting = true) (hop : TW.opcode w = 1)
    (hmay : s.mayIssue k e w = true) (htrue : s.waitHolds k w = true) :
    waitfSatisfied s k e = s.issue k e w .quiet bodyNone := by
  unfold waitfSatisfied
  rw [hhead]
  exact if_pos (by simp [hwait, hop, hmay, htrue])

/-- The timer of a WAITF on an open flag ends it (R251). -/
theorem waitfTimeout_of_open (hblocked : s.blockedWait k e = some w) (hrun : s.running (clOfCore k) = true)
    (htimer : s.fld .SHR_CTRL (clOfCore k) 31 16 ≠ 0) (hopen : s.flagClosed k w = false) (hfree : (s.core k).hold = none) :
    waitfTimeout s k e = ((s.endWait k e w .timeout).setFlag .SHR_STATUS (clOfCore k) 29).countSat .SHR_TIMEOUT_COUNT (clOfCore k) 1 := by
  unfold waitfTimeout
  rw [hblocked]
  exact if_pos ⟨htimer, hrun, by simp [hopen], by simp [hfree]⟩

end State

/-! What each row answers. -/

theorem exec_waitf (core : CoreId) (eng : Eng) (env : Env) (s : State) :
    exec (.waitf core eng env) s = .next (waitf s core eng.num env) := rfl

theorem exec_waitfSatisfied (core : CoreId) (eng : Eng) (s : State) :
    exec (.waitfSatisfied core eng) s = .next (waitfSatisfied s core eng.num) := rfl

theorem exec_crecv (core : CoreId) (env : Env) (s : State) :
    exec (.crecv core env) s = .next ((s.runHead core 5 0x99 env bodyCrecv).deliverAll 8) := rfl

theorem exec_flagDeadlock (die : DieId) (s : State) : exec (.flagDeadlock die) s = .next (flagDeadlock s die) := rfl

theorem exec_waitfTimeout (core : CoreId) (eng : Eng) (s : State) :
    exec (.waitfTimeout core eng) s = .next (waitfTimeout s core eng.num) := rfl

/-- Settles O8: WAITF by its condition, CRECV as a row that then takes its result. -/
theorem waitfAndCrecvIssueOrHold : Obligations.WaitfAndCrecvIssueOrHold := by
  unfold Obligations.WaitfAndCrecvIssueOrHold
  refine ⟨?issues, ?holds, ?satisfied, ?crecv⟩
  case issues =>
    intro core eng env w s hready hpass hfree
    have ⟨hhead, _⟩ := hready
    rw [exec_waitf, State.waitf_of_free env hhead hfree, State.runHead_of_passed bodyNone hready hpass rfl]
  case holds =>
    intro core eng env w s hready hblocked hskip
    rw [exec_waitf, State.waitf_of_blocked env hready hblocked hskip]
  case satisfied =>
    intro core eng w s hhead hwait hop hmay htrue
    rw [exec_waitfSatisfied, State.waitfSatisfied_of_holds hhead hwait hop hmay htrue]
  case crecv =>
    intro core env w s hready hpass
    rw [exec_crecv, State.runHead_of_passed bodyCrecv hready hpass rfl]

/-- Settles O10: the dead WAITFs end in turn, and the timer ends one on an open flag. -/
theorem flagDeadlockAndTimeoutEndWaits : Obligations.FlagDeadlockAndTimeoutEndWaits := by
  unfold Obligations.FlagDeadlockAndTimeoutEndWaits
  refine ⟨?deadlock, ?timeout⟩
  case deadlock =>
    intro die s
    rw [exec_flagDeadlock, flagDeadlock]
  case timeout =>
    intro core eng w s hblocked hrun htimer hopen hfree
    rw [exec_waitfTimeout, State.waitfTimeout_of_open hblocked hrun htimer hopen hfree]

end Sys2Proof.Machine

namespace Sys2Proof.Machine

/-! SUPPORT. Shroud's flags and setter groups through their data registers, and its configuration (R242, R247, R253, R255). -/

namespace State

/-! A write of a flag or of a setter group reads back, and moves flags and groups alone. -/

@[simp] theorem flagVal_setFlagVal (s : State) (c : Nat) (d : Bool) (f : Nat) (v : Word) :
    (s.setFlagVal c d f v).flagVal c d f = v := by
  cases d <;> simp [setFlagVal, flagVal]

@[simp] theorem group_setGroup (s : State) (c : Nat) (d : Bool) (f g : Nat) (v : Word) :
    (s.setGroup c d f g v).group c d f g = groupMask v := by
  cases d <;> simp [setGroup, group]

theorem setFlagVal_frame (s : State) (c : Nat) (d : Bool) (f : Nat) (v : Word) :
    s.setFlagVal c d f v = { s with clusters := (s.setFlagVal c d f v).clusters, dies := (s.setFlagVal c d f v).dies } := by
  cases d <;> rfl

theorem setGroup_frame (s : State) (c : Nat) (d : Bool) (f g : Nat) (v : Word) :
    s.setGroup c d f g v = { s with clusters := (s.setGroup c d f g v).clusters, dies := (s.setGroup c d f g v).dies } := by
  cases d <;> rfl

/-! The rows, by who reaches the register and by the guard (R253, R255). -/

variable {s : State} {c : Nat} {req : Req} {v : Word}

theorem shrFlagDataWrite_of_reaches (h : s.reaches req .SHR c 0x24 = true) :
    s.shrFlagDataWrite c req v = if s.shrWritable c (s.sel req .SHR_FLAG_SEL c)
      then s.setFlagVal c (bit (s.sel req .SHR_FLAG_SEL c) 10) (bits (s.sel req .SHR_FLAG_SEL c) 9 0) v
      else s.setFlag .SHR_STATUS c 25 := if_pos h

theorem shrRegDataWrite_of_reaches (h : s.reaches req .SHR c 0x2C = true) :
    s.shrRegDataWrite c req v = if s.shrWritable c (s.sel req .SHR_REG_SEL c)
      then s.setGroup c (bit (s.sel req .SHR_REG_SEL c) 10) (bits (s.sel req .SHR_REG_SEL c) 9 0) (bits (s.sel req .SHR_REG_SEL c) 11 11) v
      else s.setFlag .SHR_STATUS c 25 := if_pos h

theorem shrConfigWrite_of_reaches {range : Bool} (h : s.reaches req .SHR c (if range then 0x18 else 0x10) = true) :
    s.shrConfigWrite c req range v = if s.running c then s.setFlag .SHR_STATUS c 25
      else if range then s.wr .SHR_DFLAG_RANGE c (v &&& 0x03FF03FF#32) else s.wr .SHR_CTRL c (v &&& 0xFFFF0000#32) := if_pos h

theorem shrConfigWrite_of_unreached {range : Bool} (h : s.reaches req .SHR c (if range then 0x18 else 0x10) = false) :
    s.shrConfigWrite c req range v = s := if_neg (by simp [h])

end State

/-! What each row answers. -/

theorem exec_shrFlagDataWrite (c : ClId) (req : Req) (v : Word) (s : State) :
    exec (.shrFlagDataWrite c req v) s = .next (s.shrFlagDataWrite c req v) := rfl

theorem exec_shrRegDataWrite (c : ClId) (req : Req) (v : Word) (s : State) :
    exec (.shrRegDataWrite c req v) s = .next (s.shrRegDataWrite c req v) := rfl

theorem exec_shrConfigWrite (c : ClId) (req : Req) (range : Bool) (v : Word) (s : State) :
    exec (.shrConfigWrite c req range v) s = .next (s.shrConfigWrite c req range v) := rfl

/-- Settles O12, register by register from its guard. -/
theorem shroudDataWritesFollowTheirGuards : Obligations.ShroudDataWritesFollowTheirGuards := by
  unfold Obligations.ShroudDataWritesFollowTheirGuards
  refine ⟨?flags, ?groups, ?config⟩
  case flags =>
    intro c req v s hreach
    rw [exec_shrFlagDataWrite, State.shrFlagDataWrite_of_reaches hreach]
    refine ⟨fun hw => ?_, fun hw => ?_⟩
    · rw [if_pos hw]
      exact ⟨_, rfl, State.flagVal_setFlagVal .., State.setFlagVal_frame ..⟩
    · rw [if_neg (by simp [hw])]
  case groups =>
    intro c req v s hreach
    rw [exec_shrRegDataWrite, State.shrRegDataWrite_of_reaches hreach]
    refine ⟨fun hw => ?_, fun hw => ?_⟩
    · rw [if_pos hw]
      exact ⟨_, rfl, State.group_setGroup .., State.setGroup_frame ..⟩
    · rw [if_neg (by simp [hw])]
  case config =>
    intro c req v s
    refine ⟨fun hreach hstop => ?_, fun hreach hstop => ?_, fun range hreach hrun => ?_, fun range hreach => ?_⟩
    · rw [exec_shrConfigWrite, State.shrConfigWrite_of_reaches hreach, if_neg (by simp [hstop]), if_neg (by decide)]
    · rw [exec_shrConfigWrite, State.shrConfigWrite_of_reaches hreach, if_neg (by simp [hstop]), if_pos rfl]
    · rw [exec_shrConfigWrite, State.shrConfigWrite_of_reaches hreach, if_pos hrun]
    · rw [exec_shrConfigWrite, State.shrConfigWrite_of_unreached hreach]

end Sys2Proof.Machine

namespace Sys2Proof.Machine

/-! SUPPORT. The rows of the Chanter's instructions: what a row answers when the instruction at the pc goes on, traps or stalls, and what
the cycles that pass before it leave (R257, R259, R263, R274). -/

section ChnRows

variable {i : Instr} {c n m : Nat} {k : ChnKind} {w len : Nat} {s u : State}

theorem exec_of_chnNext {pc : DWord} (hrow : chnInstr i = some (c, k, n, m)) (hfetch : s.Fetches c k w len)
    (hrun : (s.chnClock c n m).execRv c w (s.chn c).pc len = .next u pc) :
    exec i s = .next (u.chnRetire c pc (State.writesInstret w)) := by
  rw [exec_chnInstr s hrow, State.chnRow_of_fetches n m hfetch, hrun]

theorem exec_of_chnTrap {x : Rv.Trap} (hrow : chnInstr i = some (c, k, n, m)) (hfetch : s.Fetches c k w len)
    (hrun : (s.chnClock c n m).execRv c w (s.chn c).pc len = .trap u x) : exec i s = .next (u.chnTrap c x) := by
  rw [exec_chnInstr s hrow, State.chnRow_of_fetches n m hfetch, hrun]

theorem exec_of_chnStall (hrow : chnInstr i = some (c, k, n, m)) (hfetch : s.Fetches c k w len)
    (hrun : (s.chnClock c n m).execRv c w (s.chn c).pc len = .stall u) : exec i s = .next u := by
  rw [exec_chnInstr s hrow, State.chnRow_of_fetches n m hfetch, hrun]

/-- Only a CSR instruction can write `minstret` itself (R259). -/
theorem writesInstret_of_not_system (hop : Rv.opOf w ≠ 0x73) : State.writesInstret w = false := by
  simp [State.writesInstret, hop]

theorem exec_of_chnNext_plain {pc : DWord} (hrow : chnInstr i = some (c, k, n, m)) (hfetch : s.Fetches c k w len)
    (hop : Rv.opOf w ≠ 0x73) (hrun : (s.chnClock c n m).execRv c w (s.chn c).pc len = .next u pc) :
    exec i s = .next (u.chnRetire c pc false) := by
  rw [exec_of_chnNext hrow hfetch hrun, writesInstret_of_not_system hop]

end ChnRows

/-- A write of `tmbout` is the row of its kind, and an event to the Masthead (R276). -/
theorem exec_tmboutWrite_of_next {c : ClId} {cycles aon w len : Nat} {s u : State} {pc : DWord} (hfetch : s.Fetches c .mboxOut w len)
    (hrun : (s.chnClock c cycles aon).execRv c w (s.chn c).pc len = .next u pc) :
    exec (.tmboutWrite c cycles aon) s = .next ((u.chnRetire c pc (State.writesInstret w)).emit (.mailbox c)) := by
  have hrow : exec (.tmboutWrite c cycles aon) s = .next (tmboutWrite s c cycles aon) := rfl
  rw [hrow, tmboutWrite, if_pos hfetch.1, State.chnRow_of_fetches _ _ hfetch, hrun]

namespace State

/-- An exception with one cause and a stated `mtval` draws no free value (R274). -/
theorem chnTrap_of_stated (s : State) (c : Nat) {x : Rv.Trap} (hopen : x.open_ = false) (halt : x.alt = x.cause) :
    s.chnTrap c x = s.modChn c fun h =>
      { h with
        mepc := h.pc
        mcause := BitVec.ofNat 64 x.cause
        mtval := x.tval
        mstatus := (if bit h.mstatus 3 then 0x80#64 else 0) ||| 0x1800#64
        pc := h.mtvec &&& ~~~3#64
        resv := none } := by
  have hbit : bit 1#32 0 = true := by decide
  simp [chnTrap, hopen, halt, hbit]

end State

/-- Settles O15: the row takes the exception that executing raises, or keeps the state in which it stalls. -/
theorem chanterRowsTrapAndStall : Obligations.ChanterRowsTrapAndStall := by
  unfold Obligations.ChanterRowsTrapAndStall
  refine ⟨fun i c cycles aon k w len s u x hrow hfetch hrun hopen halt => ?_, fun i c cycles aon k w len s u hrow hfetch hrun => ?_⟩
  · rw [exec_of_chnTrap hrow hfetch hrun, u.chnTrap_of_stated c hopen halt]
  · exact exec_of_chnStall hrow hfetch hrun

end Sys2Proof.Machine

namespace Sys2Proof.Machine

/-! SUPPORT. What a Chanter's instructions do, one rule each: the integer operations, jumps, branches, Data Memory and its two aliases,
the atomics, the mailbox CSRs, TDRAIN and TDESC (R257, R258, R260, R264, R269 to R271, R276). -/

namespace Rv

/-! Accesses to Data Memory and its aliases (R258, R269, R270). -/

theorem region_dm {a n : Nat} (hn : 0 < n) (hlo : 0x100000 ≤ a) (hhi : a + n ≤ 0x140000) :
    region a n = some (.dm, a - 0x100000) := by
  rw [region, if_neg (by omega), if_pos ⟨hlo, hhi⟩]

theorem region_setAlias {a n : Nat} (hn : 0 < n) (hlo : 0x140000 ≤ a) (hhi : a + n ≤ 0x180000) :
    region a n = some (.setAlias, a - 0x140000) := by
  rw [region, if_neg (by omega), if_neg (by omega), if_pos ⟨hlo, hhi⟩]

theorem region_clrAlias {a n : Nat} (hn : 0 < n) (hlo : 0x180000 ≤ a) (hhi : a + n ≤ 0x1C0000) :
    region a n = some (.clrAlias, a - 0x180000) := by
  rw [region, if_neg (by omega), if_neg (by omega), if_neg (by omega), if_pos ⟨hlo, hhi⟩]

/-- Where accesses to the two aliases can lie. -/
theorem le_of_region {a n o : Nat} :
    (region a n = some (.setAlias, o) → 0x140000 ≤ a) ∧ (region a n = some (.clrAlias, o) → 0x180000 ≤ a) := by
  unfold region
  constructor
  all_goals
    intro h
    repeat' split at h
    all_goals simp only [Option.some.injEq, Prod.mk.injEq, reduceCtorEq, false_and] at h
    exact And.left ‹_ ∧ _›

theorem addrTrap_of_inside {a n : Nat} (mis out : Nat) (halign : a % n = 0) : addrTrap a n mis out false = none := by
  simp [addrTrap, halign]

/-- Whether an AMO has a meaning depends on its `funct5` alone. -/
theorem isSome_amoOp {p q : Nat} (f5 : Nat) (a b : BitVec p) (a' b' : BitVec q) :
    (amoOp f5 a b).isSome = (amoOp f5 a' b').isSome := by
  unfold amoOp
  split <;> rfl

end Rv

namespace State

variable {s : State} {c w len : Nat} {pc next : DWord}

/-! What the cycles before an instruction leave (R259). -/

theorem resv_chnClock (s : State) (c n m : Nat) : ((s.chnClock c n m).chn c).resv = (s.chn c).resv := by
  simp [chnClock, chnTick]

theorem mepc_chnClock (s : State) (c n m : Nat) : ((s.chnClock c n m).chn c).mepc = (s.chn c).mepc := by
  simp [chnClock, chnTick]

/-! The base instructions. -/

theorem execRv_lui (hop : Rv.opOf w = 0x37) :
    s.execRv c w pc len = .next (s.modChn c fun h => h.setReg (Rv.rdOf w) (Rv.immU w)) (pc + BitVec.ofNat 64 len) := by
  simp only [execRv, hop]

theorem execRv_auipc (hop : Rv.opOf w = 0x17) :
    s.execRv c w pc len = .next (s.modChn c fun h => h.setReg (Rv.rdOf w) (pc + Rv.immU w)) (pc + BitVec.ofNat 64 len) := by
  simp only [execRv, hop]

theorem execRv_op {v : DWord} (hop : Rv.opOf w = 0x33)
    (hv : Rv.alu (Rv.f7Of w) (Rv.f3Of w) ((s.chn c).reg (Rv.rs1Of w)) ((s.chn c).reg (Rv.rs2Of w)) = some v) :
    s.execRv c w pc len = .next (s.modChn c fun h => h.setReg (Rv.rdOf w) v) (pc + BitVec.ofNat 64 len) := by
  simp only [execRv, hop, hv]

theorem execRv_op32 {v : DWord} (hop : Rv.opOf w = 0x3B)
    (hv : Rv.alu32 (Rv.f7Of w) (Rv.f3Of w) ((s.chn c).reg (Rv.rs1Of w)) ((s.chn c).reg (Rv.rs2Of w)) = some v) :
    s.execRv c w pc len = .next (s.modChn c fun h => h.setReg (Rv.rdOf w) v) (pc + BitVec.ofNat 64 len) := by
  simp only [execRv, hop, hv]

/-- An operation with an immediate, but for the shifts. -/
theorem execRv_opImm {v : DWord} (hop : Rv.opOf w = 0x13) (h1 : Rv.f3Of w ≠ 1) (h5 : Rv.f3Of w ≠ 5)
    (hv : Rv.alu 0 (Rv.f3Of w) ((s.chn c).reg (Rv.rs1Of w)) (Rv.immI w) = some v) :
    s.execRv c w pc len = .next (s.modChn c fun h => h.setReg (Rv.rdOf w) v) (pc + BitVec.ofNat 64 len) := by
  simp only [execRv, hop, hv]

theorem execRv_jal (hop : Rv.opOf w = 0x6F) :
    s.execRv c w pc len = .next (s.modChn c fun h => h.setReg (Rv.rdOf w) (pc + BitVec.ofNat 64 len)) (pc + Rv.immJ w) := by
  simp only [execRv, hop]

theorem execRv_jalr (hop : Rv.opOf w = 0x67) (hf3 : Rv.f3Of w = 0) :
    s.execRv c w pc len = .next (s.modChn c fun h => h.setReg (Rv.rdOf w) (pc + BitVec.ofNat 64 len))
      (((s.chn c).reg (Rv.rs1Of w) + Rv.immI w) &&& ~~~1#64) := by
  simp [execRv, hop, hf3]

theorem execRv_branch {taken : Bool} (hop : Rv.opOf w = 0x63)
    (ht : Rv.branch (Rv.f3Of w) ((s.chn c).reg (Rv.rs1Of w)) ((s.chn c).reg (Rv.rs2Of w)) = some taken) :
    s.execRv c w pc len = .next s (if taken then pc + Rv.immB w else pc + BitVec.ofNat 64 len) := by
  simp only [execRv, hop, ht]

theorem execRv_fence (hop : Rv.opOf w = 0x0F) (hf3 : Rv.f3Of w ≤ 1) :
    s.execRv c w pc len = .next s (pc + BitVec.ofNat 64 len) := by
  simp only [execRv, hop, if_pos hf3]

theorem execRv_mret (s : State) (c : Nat) (pc : DWord) (len : Nat) :
    s.execRv c 0x30200073 pc len = .next (s.modChn c fun h => { h with
      mstatus := (h.mstatus &&& ~~~8#64) ||| (if bit h.mstatus 7 then 8#64 else 0) ||| 0x80#64 }) (s.chn c).mepc := rfl

/-! Loads and stores. -/

/-- A load is of at least one byte. -/
theorem loadOf_pos {f3 k : Nat} {sg : Bool} (h : loadOf f3 = some (k, sg)) : 0 < k := by
  unfold loadOf at h
  split at h <;> cases h <;> decide

theorem chnLoad_dm {x k : Nat} (hk : 0 < k) (halign : x % k = 0) (hlo : 0x100000 ≤ x) (hhi : x + k ≤ 0x140000) :
    s.chnLoad c x k = .ok (leNat ((s.chn c).dm.rdN (x - 0x100000) k)) := by
  simp only [chnLoad, Rv.region_dm hk hlo hhi, Option.isNone_some, Rv.addrTrap_of_inside _ _ halign]

theorem chnStore_dm {x k : Nat} (v : Nat) (hk : 0 < k) (halign : x % k = 0) (hlo : 0x100000 ≤ x) (hhi : x + k ≤ 0x140000) :
    s.chnStore c x k v = .ok (s.modChn c fun h => { h with dm := h.dm.wrN (x - 0x100000) (natLe k v) }) := by
  have hbytes (m : Memory) (o : Nat) : List.zipWith (fun _ b => b) (m.rdN o k) (natLe k v) = natLe k v :=
    List.ext_getElem (by simp) (by simp)
  simp only [chnStore, Rv.region_dm hk hlo hhi, Rv.addrTrap_of_inside _ _ halign, hbytes]

theorem chnStore_setAlias {x k : Nat} (v : Nat) (hk : 0 < k) (halign : x % k = 0) (hlo : 0x140000 ≤ x) (hhi : x + k ≤ 0x180000) :
    s.chnStore c x k v = .ok (s.modChn c fun h => { h with
      dm := h.dm.wrN (x - 0x140000) (List.zipWith (· ||| ·) (h.dm.rdN (x - 0x140000) k) (natLe k v)) }) := by
  simp only [chnStore, Rv.region_setAlias hk hlo hhi, Rv.addrTrap_of_inside _ _ halign]

theorem chnStore_clrAlias {x k : Nat} (v : Nat) (hk : 0 < k) (halign : x % k = 0) (hlo : 0x180000 ≤ x) (hhi : x + k ≤ 0x1C0000) :
    s.chnStore c x k v = .ok (s.modChn c fun h => { h with
      dm := h.dm.wrN (x - 0x180000) (List.zipWith (fun y z => y &&& ~~~z) (h.dm.rdN (x - 0x180000) k) (natLe k v)) }) := by
  simp only [chnStore, Rv.region_clrAlias hk hlo hhi, Rv.addrTrap_of_inside _ _ halign]

theorem execRv_load {k v : Nat} {sg : Bool} (hop : Rv.opOf w = 0x03) (hf3 : loadOf (Rv.f3Of w) = some (k, sg))
    (hload : s.chnLoad c ((s.chn c).reg (Rv.rs1Of w) + Rv.immI w).toNat k = .ok v) :
    s.execRv c w pc len = .next (s.modChn c fun h => h.setReg (Rv.rdOf w)
      (if sg then BitVec.ofInt 64 (sext (8 * k) v) else BitVec.ofNat 64 v)) (pc + BitVec.ofNat 64 len) := by
  simp only [execRv, hop, hf3, hload]

theorem execRv_store {t : State} (hop : Rv.opOf w = 0x23) (hf3 : Rv.f3Of w < 4)
    (hstore : s.chnStore c ((s.chn c).reg (Rv.rs1Of w) + Rv.immS w).toNat (2 ^ Rv.f3Of w) ((s.chn c).reg (Rv.rs2Of w)).toNat = .ok t) :
    s.execRv c w pc len = .next t (pc + BitVec.ofNat 64 len) := by
  simp only [execRv, hop, if_neg (Nat.not_le.2 hf3), hstore]

/-! The kinds that an instruction word of a row belongs to (R257, R260). -/

theorem store_of_aliasKind (hfetch : s.chnFetch c = .ok (w, len)) :
    (s.chnKind c = .bitSet → Rv.opOf w = 0x23 ∧ 0x140000 ≤ ((s.chn c).reg (Rv.rs1Of w) + Rv.immS w).toNat)
      ∧ (s.chnKind c = .bitClear → Rv.opOf w = 0x23 ∧ 0x180000 ≤ ((s.chn c).reg (Rv.rs1Of w) + Rv.immS w).toNat) := by
  unfold chnKind
  rw [hfetch]
  dsimp only
  constructor
  all_goals
    intro hkind
    repeat' split at hkind
    all_goals cases hkind
  · exact ⟨‹_›, Rv.le_of_region.1 ‹_›⟩
  · exact ⟨‹_›, Rv.le_of_region.2 ‹_›⟩

theorem amo_of_amoKind (hfetch : s.chnFetch c = .ok (w, len)) (hkind : s.chnKind c = .amo) : Rv.opOf w = 0x2F := by
  unfold chnKind at hkind
  rw [hfetch] at hkind
  dsimp only at hkind
  repeat' split at hkind
  all_goals cases hkind
  assumption

theorem custom_of_queueKind (hfetch : s.chnFetch c = .ok (w, len)) :
    (s.chnKind c = .tdesc → Rv.opOf w = 0x0B ∧ Rv.f3Of w = 2) ∧ (s.chnKind c = .tdrain → Rv.opOf w = 0x0B ∧ Rv.f3Of w = 3) := by
  unfold chnKind
  rw [hfetch]
  dsimp only
  constructor
  all_goals
    intro hkind
    repeat' split at hkind
    all_goals cases hkind
    exact ⟨‹_›, ‹_›⟩

/-- A CSR instruction that writes CSR `k`. -/
def WritesCsr (w k : Nat) : Prop :=
  Rv.opOf w = 0x73 ∧ Rv.f3Of w % 4 ≠ 0 ∧ (Rv.f3Of w % 4 == 1 || Rv.rs1Of w != 0) = true ∧ w / 2 ^ 20 % 4096 = k

theorem writesCsr_of_mailboxKind (hfetch : s.chnFetch c = .ok (w, len)) :
    (s.chnKind c = .mboxClear → WritesCsr w 0x7C1) ∧ (s.chnKind c = .mboxOut → WritesCsr w 0x7C2) := by
  unfold chnKind
  rw [hfetch]
  dsimp only
  constructor
  all_goals
    intro hkind
    repeat' split at hkind
    all_goals cases hkind
    exact ⟨‹_›, ‹_›⟩

/-! The mailbox CSRs (R276). -/

/-- The operand of a CSR instruction. -/
def csrOperand (s : State) (c w : Nat) : DWord :=
  if 4 ≤ Rv.f3Of w then BitVec.ofNat 64 (Rv.rs1Of w) else (s.chn c).reg (Rv.rs1Of w)

/-- What a CSR instruction writes over `old`. -/
def csrNew (w : Nat) (old v : DWord) : DWord :=
  if Rv.f3Of w % 4 = 1 then v else if Rv.f3Of w % 4 = 2 then old ||| v else old &&& ~~~v

theorem execRv_csr {k : Nat} {old : DWord} (hw : WritesCsr w k) (hread : s.csrRead c k = some old) (hrw : k / 1024 ≠ 3) :
    s.execRv c w pc len = .next ((s.csrWrite c k (csrNew w old (s.csrOperand c w))).modChn c fun h => h.setReg (Rv.rdOf w) old)
      (pc + BitVec.ofNat 64 len) := by
  obtain ⟨hop, hf3, hwrites, hk⟩ := hw
  have h0 : Rv.f3Of w ≠ 0 := fun h => hf3 (by rw [h])
  have h4 : Rv.f3Of w ≠ 4 := fun h => hf3 (by rw [h])
  simp only [execRv, hop, if_neg h0, if_neg h4, execCsr, hk, hread, hwrites, Bool.true_and, beq_iff_eq, hrw, if_true, if_false]
  split
  case h_1 h1 => rw [csrNew, if_pos h1]; rfl
  case h_2 h2 =>
    have h1 : Rv.f3Of w % 4 ≠ 1 := by omega
    rw [csrNew, if_neg h1, if_pos h2]; rfl
  case h_3 h1 h2 => rw [csrNew, if_neg h1, if_neg h2]; rfl

theorem writesInstret_of_writesCsr {k : Nat} (hw : WritesCsr w k) (hk : k ≠ 0xB02) : writesInstret w = false := by
  obtain ⟨-, -, -, rfl⟩ := hw
  have hother : (w / 2 ^ 20 % 4096 == 0xB02) = false := beq_eq_false_iff_ne.2 hk
  simp only [writesInstret, hother, Bool.and_false, Bool.false_and]

end State
end Sys2Proof.Machine

namespace Sys2Proof.Machine

namespace State

variable {s : State} {c w len : Nat} {pc next : DWord}

/-! The atomics, on Data Memory alone (R258, R271). -/

/-- An AMO word whose `n` aligned bytes lie in Data Memory, at `x`. -/
structure AmoAt (s : State) (c w n x : Nat) : Prop where
  width : Rv.f3Of w = 2 ∧ n = 4 ∨ Rv.f3Of w = 3 ∧ n = 8
  addr : x = ((s.chn c).reg (Rv.rs1Of w)).toNat
  aligned : x % n = 0
  above : 0x100000 ≤ x
  below : x + n ≤ 0x140000

/-- What an AMO of `n` bytes leaves in its register: the old value, sign-extended from a word. -/
def amoOld (n old : Nat) : DWord := if n = 4 then Rv.sx32 (BitVec.ofNat 64 old) else BitVec.ofNat 64 old

/-- What an AMO of `n` bytes stores. -/
def amoNew (n f5 old : Nat) (b : DWord) : Option Nat :=
  if n = 4 then (Rv.amoOp f5 (BitVec.ofNat 32 old) (b.truncate 32)).map (·.toNat)
  else (Rv.amoOp f5 (BitVec.ofNat 64 old) b).map (·.toNat)

/-- An operation that gives a value has a meaning, and is no LR and no SC. -/
theorem amo_of_amoNew {n f5 old v : Nat} {b : DWord} (h : amoNew n f5 old b = some v) :
    f5 ≠ 2 ∧ f5 ≠ 3 ∧ (Rv.amoOp f5 (0 : Word) 0).isSome = true := by
  have hsome : (Rv.amoOp f5 (0 : Word) 0).isSome = true := by
    unfold amoNew at h
    split at h
    all_goals
      obtain ⟨y, hy, -⟩ := Option.map_eq_some_iff.1 h
      rw [Rv.isSome_amoOp f5 0 0 _ _, hy]
      rfl
  refine ⟨?_, ?_, hsome⟩ <;> (rintro rfl; cases hsome)

theorem execRv_amo (hop : Rv.opOf w = 0x2F) : s.execRv c w pc len = s.execAmo c w (pc + BitVec.ofNat 64 len) := by
  simp only [execRv, hop]

namespace AmoAt

variable {n x : Nat}

theorem of_chnClock (h : s.AmoAt c w n x) (cycles aon : Nat) : (s.chnClock c cycles aon).AmoAt c w n x where
  width := h.width
  addr := by rw [reg_chnClock]; exact h.addr
  aligned := h.aligned
  above := h.above
  below := h.below

theorem size (h : s.AmoAt c w n x) : (if Rv.f3Of w = 2 then 4 else 8) = n := by
  obtain ⟨hf3, rfl⟩ | ⟨hf3, rfl⟩ := h.width <;> simp [hf3]

theorem legalWidth (h : s.AmoAt c w n x) : (Rv.f3Of w == 2 || Rv.f3Of w == 3) = true := by
  obtain ⟨hf3, -⟩ | ⟨hf3, -⟩ := h.width <;> simp [hf3]

theorem region (h : s.AmoAt c w n x) : Rv.region x n = some (.dm, x - 0x100000) := by
  refine Rv.region_dm ?_ h.above h.below
  obtain ⟨-, rfl⟩ | ⟨-, rfl⟩ := h.width <;> decide

theorem execAmo_lr (h : s.AmoAt c w n x) (next : DWord) (hf5 : Rv.f7Of w / 4 = 2) (hrs2 : Rv.rs2Of w = 0) :
    s.execAmo c w next = .next (s.modChn c fun h =>
      ({ h with resv := some (x, n) } : Chanter).setReg (Rv.rdOf w) (amoOld n (leNat ((s.chn c).dm.rdN (x - 0x100000) n)))) next := by
  simp only [execAmo, ← h.addr, h.size, h.legalWidth, hf5, hrs2, h.region, Rv.addrTrap_of_inside _ _ h.aligned, amoOld]
  rfl

theorem execAmo_sc_reserved (h : s.AmoAt c w n x) (next : DWord) (hf5 : Rv.f7Of w / 4 = 3) (hresv : (s.chn c).resv = some (x, n)) :
    s.execAmo c w next = .next (s.modChn c fun h =>
      ({ h with dm := h.dm.wrN (x - 0x100000) (natLe n ((s.chn c).reg (Rv.rs2Of w)).toNat), resv := none } : Chanter).setReg
        (Rv.rdOf w) 0) next := by
  simp only [execAmo, ← h.addr, h.size, h.legalWidth, hf5, h.region, Rv.addrTrap_of_inside _ _ h.aligned, hresv, beq_self_eq_true]
  rfl

theorem execAmo_sc_lost (h : s.AmoAt c w n x) (next : DWord) (hf5 : Rv.f7Of w / 4 = 3) (hresv : (s.chn c).resv ≠ some (x, n)) :
    s.execAmo c w next
      = .next (s.modChn c fun h => ({ h with resv := none } : Chanter).setReg (Rv.rdOf w) 1) next := by
  simp only [execAmo, ← h.addr, h.size, h.legalWidth, hf5, h.region, Rv.addrTrap_of_inside _ _ h.aligned, beq_eq_false_iff_ne.2 hresv]
  rfl

/-- An AMO of which the operation gives `v`. -/
theorem execAmo_op {v : Nat} (h : s.AmoAt c w n x) (next : DWord)
    (hv : amoNew n (Rv.f7Of w / 4) (leNat ((s.chn c).dm.rdN (x - 0x100000) n)) ((s.chn c).reg (Rv.rs2Of w)) = some v) :
    s.execAmo c w next = .next (s.modChn c fun h => ({ h with dm := h.dm.wrN (x - 0x100000) (natLe n v) } : Chanter).setReg
      (Rv.rdOf w) (amoOld n (leNat ((s.chn c).dm.rdN (x - 0x100000) n)))) next := by
  obtain ⟨hlr, hsc, hmeant⟩ := amo_of_amoNew hv
  have hstored : (if n = 4 then ((Rv.amoOp (Rv.f7Of w / 4) (BitVec.ofNat 32 (leNat ((s.chn c).dm.rdN (x - 0x100000) n)))
        (((s.chn c).reg (Rv.rs2Of w)).truncate 32)).map (·.toNat)).getD 0
      else ((Rv.amoOp (Rv.f7Of w / 4) (BitVec.ofNat 64 (leNat ((s.chn c).dm.rdN (x - 0x100000) n)))
        ((s.chn c).reg (Rv.rs2Of w))).map (·.toNat)).getD 0) = v := by
    rw [← apply_ite (Option.getD · 0)]
    exact congrArg (Option.getD · 0) hv
  simp only [execAmo, ← h.addr, h.size, h.legalWidth, beq_eq_false_iff_ne.2 hlr, beq_eq_false_iff_ne.2 hsc, if_neg hsc, hmeant, h.region,
    Rv.addrTrap_of_inside _ _ h.aligned, hstored]
  rfl

end AmoAt

/-! TDRAIN (R260, R265). -/

theorem execRv_tdrain (hop : Rv.opOf w = 0x0B) (hf3 : Rv.f3Of w = 3) (hf7 : Rv.f7Of w = 0) (hrd : Rv.rdOf w = 0) (hrs2 : Rv.rs2Of w = 0)
    (hv : ((s.chn c).reg (Rv.rs1Of w)).toNat < 16384) (hdrained : s.drained c ((s.chn c).reg (Rv.rs1Of w)).toNat = true) :
    s.execRv c w pc len = .next s (pc + BitVec.ofNat 64 len) := by
  rw [execRv_custom _ _ _ _ hop]
  simp [execCustom, hf3, hf7, hrd, hrs2, Nat.not_le.2 hv, hdrained]

/-! TDESC (R199, R264, R265, R441). -/

/-- A core's queues, log and journal leave descriptor `i` free to be written (R199, R441). -/
def DescFree (s : State) (core i : Nat) : Prop := s.namesDesc core i = false ∧ s.journalFull core i = false

theorem DescFree.congr {t : State} {core i : Nat} (h : s.DescFree core i) (hcore : t.core core = s.core core) : t.DescFree core i := by
  unfold DescFree namesDesc journalFull loggedDesc liveJournal at h ⊢
  rwa [hcore]

theorem desc_writeDesc (s : State) (core i : Nat) (d : Desc) (k j : Nat) :
    (s.writeDesc core i d).desc k j = if k = core ∧ j = i then d else s.desc k j := by
  by_cases hk : k = core
  · subst hk
    simp [writeDesc, setDesc, desc, SMap.get_set]
  · simp [writeDesc, setDesc, desc, hk]

theorem core_writeDesc (s : State) (core i : Nat) (d : Desc) {k : Nat} (hk : k ≠ core) : (s.writeDesc core i d).core k = s.core k := by
  simp [writeDesc, setDesc, hk]

/-- A shadow sample that is given up leaves every descriptor, and every other core. -/
theorem shadowRewritten_keeps (s : State) (core : Nat) (outs : List Nat) :
    (s.shadowRewritten core outs).mem = s.mem
      ∧ (∀ k j, (s.shadowRewritten core outs).desc k j = s.desc k j)
      ∧ ∀ k, k ≠ core → (s.shadowRewritten core outs).core k = s.core k := by
  unfold shadowRewritten
  split
  · exact ⟨rfl, fun _ _ => rfl, fun _ _ => rfl⟩
  · split
    · refine ⟨rfl, fun k j => ?_, fun k hk => ?_⟩
      · simp only [desc, core_countSat, core_modCore]
        split <;> simp [*]
      · simp [hk]
    · exact ⟨rfl, fun _ _ => rfl, fun _ _ => rfl⟩

/-- TDESC in a core whose descriptor is free to be written. -/
theorem tdescCore_of_free {core i : Nat} (h : s.DescFree core i) (d : Desc) :
    s.tdescCore core i d = ((s.shadowRewritten core [i]).writeDesc core i d, false) := by
  simp [tdescCore, h.1, h.2]

theorem tdescWritten_keeps (s : State) (core i : Nat) (d : Desc) :
    ((s.shadowRewritten core [i]).writeDesc core i d).mem = s.mem
      ∧ (∀ k j, ((s.shadowRewritten core [i]).writeDesc core i d).desc k j = if k = core ∧ j = i then d else s.desc k j)
      ∧ ∀ k, k ≠ core → ((s.shadowRewritten core [i]).writeDesc core i d).core k = s.core k := by
  obtain ⟨hmem, hdesc, hcore⟩ := s.shadowRewritten_keeps core [i]
  exact ⟨hmem, fun k j => by rw [desc_writeDesc, hdesc], fun k hk => (core_writeDesc _ _ _ _ hk).trans (hcore k hk)⟩

/-- TDESC in one more core `8 c + m`: the state, and the mask of the cores that refused it. -/
def tdescStep (c i : Nat) (d : Desc) (x : State × Nat) (m : Nat) : State × Nat :=
  let y := x.1.tdescCore (8 * c + m) i d
  (y.1, if y.2 then x.2 + 2 ^ m else x.2)

theorem tdescStep_of_free {i m : Nat} (h : s.DescFree (8 * c + m) i) (d : Desc) (refused : Nat) :
    tdescStep c i d (s, refused) m = ((s.shadowRewritten (8 * c + m) [i]).writeDesc (8 * c + m) i d, refused) := by
  rw [tdescStep, tdescCore_of_free h]
  rfl

/-- TDESC in some different cores of a cluster whose descriptor is free to be written: none refuses it. -/
theorem tdescSteps_of_free {i : Nat} (d : Desc) {ms : List Nat} (hms : ms.Nodup) (hfree : ∀ m ∈ ms, s.DescFree (8 * c + m) i) :
    ∃ t, ms.foldl (tdescStep c i d) (s, 0) = (t, 0) ∧ t.mem = s.mem
      ∧ ∀ k j, t.desc k j = if (∃ m ∈ ms, k = 8 * c + m) ∧ j = i then d else s.desc k j := by
  induction ms generalizing s with
  | nil => exact ⟨s, rfl, rfl, fun k j => by simp⟩
  | cons m ms ih =>
    obtain ⟨hnew, hms⟩ := List.nodup_cons.1 hms
    obtain ⟨hm, hrest⟩ := List.forall_mem_cons.1 hfree
    obtain ⟨hmem, hdesc, hcore⟩ := s.tdescWritten_keeps (8 * c + m) i d
    rw [List.foldl_cons, tdescStep_of_free hm]
    generalize (s.shadowRewritten (8 * c + m) [i]).writeDesc (8 * c + m) i d = u at hmem hdesc hcore ⊢
    have hother (k : Nat) (hk : k ∈ ms) : 8 * c + k ≠ 8 * c + m := fun he => hnew ((by omega : k = m) ▸ hk)
    obtain ⟨t, ht, htmem, htdesc⟩ := ih hms fun k hk => (hrest k hk).congr (hcore _ (hother k hk))
    refine ⟨t, ht, htmem.trans hmem, fun k j => ?_⟩
    rw [htdesc, hdesc]
    by_cases hj : j = i <;> by_cases hk : k = 8 * c + m <;> simp [hj, hk]

/-- The descriptor that a TDESC reads: the 32 bytes of Data Memory at its address (R264). -/
def tdescSource (s : State) (c a : Nat) : Desc := BitVec.ofNat 256 (leNat ((s.chn c).dm.rdN (a - 0x100000) 32))

theorem dmTrap_of_inside {a n : Nat} (halign : a % n = 0) (hlo : 0x100000 ≤ a) (hhi : a + n ≤ 0x140000) : dmTrap a n = none := by
  simp [dmTrap, Rv.addrTrap, halign, hlo, hhi]

/-- Cores of a mask. -/
def maskCores (mask : Nat) : List Nat := (List.range 8).filter fun i => mask / 2 ^ i % 2 == 1

theorem mem_maskCores {mask m : Nat} : m ∈ maskCores mask ↔ m < 8 ∧ mask.testBit m = true := by
  simp [maskCores, Nat.testBit_eq_decide_div_mod_eq]

theorem execTdesc_eq_of_valid {a v : Nat} (rd : Nat) (next : DWord) (htrap : dmTrap a 32 = none) (hon : s.disabledOf c (v / 256) = 0) :
    s.execTdesc c a v rd next =
      let r := (maskCores (v / 256)).foldl (tdescStep c (v % 256) (s.tdescSource c a)) (s, 0)
      .next ((if r.2 = 0 then r.1 else r.1.setFlag .CHN_STATUS c 30).modChn c fun h => h.setReg rd (BitVec.ofNat 64 r.2)) next := by
  simp only [execTdesc, htrap, hon]
  rfl

theorem exists_maskCores_iff {k mask : Nat} : (∃ m ∈ maskCores mask, k = 8 * c + m) ↔ k / 8 = c ∧ mask.testBit (k % 8) = true := by
  constructor
  · rintro ⟨m, hm, rfl⟩
    obtain ⟨hlt, hbit⟩ := mem_maskCores.1 hm
    rw [show (8 * c + m) % 8 = m by omega]
    exact ⟨by omega, hbit⟩
  · rintro ⟨rfl, hbit⟩
    exact ⟨_, mem_maskCores.2 ⟨by omega, hbit⟩, by omega⟩

/-- TDESC of an entry that is free in every core of its mask, all enabled (R264, R265). -/
theorem execTdesc_of_free {a v : Nat} (rd : Nat) (next : DWord) (htrap : dmTrap a 32 = none) (hon : s.disabledOf c (v / 256) = 0)
    (hfree : ∀ m ∈ maskCores (v / 256), s.DescFree (8 * c + m) (v % 256)) :
    ∃ t : State, s.execTdesc c a v rd next = .next (t.modChn c fun h => h.setReg rd 0) next ∧ t.mem = s.mem
      ∧ ∀ k j, t.desc k j = if k / 8 = c ∧ (v / 256).testBit (k % 8) = true ∧ j = v % 256 then s.tdescSource c a else s.desc k j := by
  have hnodup : (maskCores (v / 256)).Nodup := List.nodup_range.filter _
  obtain ⟨t, ht, hmem, hdesc⟩ := tdescSteps_of_free (s.tdescSource c a) hnodup hfree
  refine ⟨t, ?_, hmem, fun k j => ?_⟩
  · rw [execTdesc_eq_of_valid rd next htrap hon, ht]
    rfl
  · simp only [hdesc, exists_maskCores_iff, and_assoc]

theorem execRv_tdesc (hop : Rv.opOf w = 0x0B) (hf3 : Rv.f3Of w = 2) (hf7 : Rv.f7Of w = 0)
    (hv : ((s.chn c).reg (Rv.rs2Of w)).toNat < 65536) :
    s.execRv c w pc len = s.execTdesc c ((s.chn c).reg (Rv.rs1Of w)).toNat ((s.chn c).reg (Rv.rs2Of w)).toNat (Rv.rdOf w)
      (pc + BitVec.ofNat 64 len) := by
  rw [execRv_custom _ _ _ _ hop]
  simp [execCustom, hf3, hf7, Nat.not_le.2 hv]

end State
end Sys2Proof.Machine

namespace Sys2Proof.Machine

/-! SUPPORT. The rows of the Chanter's instructions by the instruction and the state alone (R257 to R260, R263 to R265, R270, R271, R276). -/

namespace State

theorem csrRead_mbox (s : State) (c : Nat) : s.csrRead c 0x7C1 = some ((s.rd .CHN_MBOX c).setWidth 64) := rfl

theorem csrRead_mboxOut (s : State) (c : Nat) : s.csrRead c 0x7C2 = some ((s.rd .CHN_MBOX_OUT c).setWidth 64) := rfl

theorem csrWrite_mbox (s : State) (c : Nat) (v : DWord) :
    s.csrWrite c 0x7C1 v = s.wr .CHN_MBOX c (s.rd .CHN_MBOX c &&& ~~~(v.truncate 32)) := rfl

theorem csrWrite_mboxOut (s : State) (c : Nat) (v : DWord) :
    s.csrWrite c 0x7C2 v = s.wr .CHN_MBOX_OUT c (s.rd .CHN_MBOX_OUT c ||| v.truncate 32) := rfl

theorem csrOperand_chnClock (s : State) (c n m w : Nat) : (s.chnClock c n m).csrOperand c w = s.csrOperand c w := by
  rw [csrOperand, reg_chnClock, csrOperand]

end State

theorem State.reg_chnRetire (s : State) (c : Nat) (pc : DWord) (wrote : Bool) (r : Nat) :
    ((s.chnRetire c pc wrote).chn c).reg r = (s.chn c).reg r := by
  simp [State.chnRetire, Chanter.reg]

theorem Chanter.reg_setReg_self (h : Chanter) (r : Nat) (v : DWord) : (h.setReg r v).reg r = if r = 0 then 0 else v := by
  unfold Chanter.reg Chanter.setReg
  split
  · rfl
  · simp

/-- Settles O14: every row retires what its instruction does, and each kind of instruction does what its own rule says. -/
theorem chanterRowsRetireWhatTheyExecute : Obligations.ChanterRowsRetireWhatTheyExecute := by
  unfold Obligations.ChanterRowsRetireWhatTheyExecute
  refine ⟨fun i c cycles aon k w len s u pc hrow hfetch hrun => exec_of_chnNext hrow hfetch hrun,
    fun c cycles aon w len s u pc hfetch hrun => exec_tmboutWrite_of_next hfetch hrun, ?base, ?twoAliases, ?amo, ?mbox, ?mboxOut,
    ?tdrain, ?tdesc⟩
  case base =>
    rintro c cycles aon w len s _ _ _ _ _ hfetch rfl rfl rfl rfl rfl
    have hreg := s.reg_chnClock c cycles aon
    have retire {u : State} {pc : DWord} (hop : Rv.opOf w ≠ 0x73)
        (hrun : (s.chnClock c cycles aon).execRv c w (s.chn c).pc len = .next u pc) :
        exec (.chanterBaseInstr c cycles aon) s = .next (u.chnRetire c pc false) := exec_of_chnNext_plain rfl hfetch hop hrun
    refine ⟨fun v hv => ?value, fun hop => ?jal, fun hop hf3 => ?jalr, fun taken hop ht => ?branch, ?load, ?store,
      fun hop hf3 => ?fence, ?mret⟩
    case value =>
      simp only [List.mem_cons, Prod.mk.injEq, List.not_mem_nil, or_false, Option.some.injEq] at hv
      obtain (⟨hop, rfl⟩ | ⟨hop, rfl⟩ | ⟨hop, hv⟩ | ⟨hop, hv⟩) | ⟨hop, h1, h5, hv⟩ := hv
      · exact retire (by omega) (State.execRv_lui hop)
      · exact retire (by omega) (State.execRv_auipc hop)
      · exact retire (by omega) (State.execRv_op hop (by rw [hreg, hreg, hv]))
      · exact retire (by omega) (State.execRv_op32 hop (by rw [hreg, hreg, hv]))
      · exact retire (by omega) (State.execRv_opImm hop h1 h5 (by rw [hreg, hv]))
    case jal => exact retire (by omega) (State.execRv_jal hop)
    case jalr => rw [retire (by omega) (State.execRv_jalr hop hf3), hreg]
    case branch => exact retire (by omega) (State.execRv_branch hop (by rw [hreg, hreg, ht]))
    case load =>
      rintro k sg _ hop hf3 rfl halign hlo hhi _ rfl
      refine retire (by omega) (State.execRv_load hop hf3 ?_)
      rw [hreg, State.chnLoad_dm (State.loadOf_pos hf3) halign hlo hhi, (State.chnClock_keeps ..).2.1]
    case store =>
      rintro _ _ hop hf3 rfl rfl halign hlo hhi
      refine retire (by omega) (State.execRv_store hop hf3 ?_)
      rw [hreg, hreg, State.chnStore_dm _ (Nat.two_pow_pos _) halign hlo hhi]
    case fence => exact retire (by omega) (State.execRv_fence hop hf3)
    case mret =>
      rintro rfl
      rw [exec_of_chnNext rfl hfetch (State.execRv_mret ..), State.mepc_chnClock]
      rfl
  case twoAliases =>
    rintro c cycles aon w len _ _ o s _ k _ _ hfetch rfl rfl rfl rfl hf3 rfl halign
    have hreg := s.reg_chnClock c cycles aon
    have hkind := State.store_of_aliasKind hfetch.2
    refine ⟨?set, ?clear⟩
    case set =>
      rintro rfl ho hhi
      rw [ho]
      obtain ⟨hop, hlo⟩ := hkind.1 hfetch.kind
      refine exec_of_chnNext_plain rfl hfetch (by omega) (State.execRv_store hop hf3 ?_)
      rw [hreg, hreg, State.chnStore_setAlias _ (Nat.two_pow_pos _) halign hlo hhi]
    case clear =>
      rintro rfl ho hhi
      rw [ho]
      obtain ⟨hop, hlo⟩ := hkind.2 hfetch.kind
      refine exec_of_chnNext_plain rfl hfetch (by omega) (State.execRv_store hop hf3 ?_)
      rw [hreg, hreg, State.chnStore_clrAlias _ (Nat.two_pow_pos _) halign hlo hhi]
  case amo =>
    rintro c cycles aon w len n x _ _ _ s _ _ _ _ hfetch rfl rfl rfl hx hwidth halign hlo hhi ho rfl rfl rfl
    rw [ho]
    have hop := State.amo_of_amoKind hfetch.2 hfetch.kind
    have hat := State.AmoAt.of_chnClock ⟨hwidth, hx, halign, hlo, hhi⟩ cycles aon
    have hreg := s.reg_chnClock c cycles aon
    have hdm := (s.chnClock_keeps c cycles aon).2.1
    have hresv := s.resv_chnClock c cycles aon
    have retire {u : State} (hrun : (s.chnClock c cycles aon).execAmo c w ((s.chn c).pc + BitVec.ofNat 64 len)
        = .next u ((s.chn c).pc + BitVec.ofNat 64 len)) :
        exec (.dmAmo c cycles aon) s = .next (u.chnRetire c ((s.chn c).pc + BitVec.ofNat 64 len) false) :=
      exec_of_chnNext_plain rfl hfetch (by omega) ((State.execRv_amo hop).trans hrun)
    refine ⟨fun hf5 hrs2 => ?lr, fun hf5 hheld => ?reserved, fun hf5 hlost => ?lost, fun v h4 h8 => ?op⟩
    case lr => rw [retire (hat.execAmo_lr _ hf5 hrs2), hdm]; rfl
    case reserved => rw [retire (hat.execAmo_sc_reserved _ hf5 (hresv.trans hheld)), hreg]
    case lost => rw [retire (hat.execAmo_sc_lost _ hf5 (by rwa [hresv]))]
    case op =>
      have hnew : State.amoNew n (Rv.f7Of w / 4) (leNat ((s.chn c).dm.rdN (x - 0x100000) n)) ((s.chn c).reg (Rv.rs2Of w)) = some v := by
        obtain ⟨-, rfl⟩ | ⟨-, rfl⟩ := hwidth
        · exact h4 rfl
        · exact h8 rfl
      rw [retire (hat.execAmo_op _ (by rw [hdm, hreg, hnew])), hdm]
      rfl
  case mbox =>
    rintro c cycles aon w len s _ _ _ _ _ hfetch rfl rfl rfl rfl rfl
    have hcsr := (State.writesCsr_of_mailboxKind hfetch.2).1 hfetch.kind
    rw [exec_of_chnNext rfl hfetch (State.execRv_csr hcsr (State.csrRead_mbox ..) (by decide)), State.csrOperand_chnClock,
      State.csrWrite_mbox, State.writesInstret_of_writesCsr hcsr (by decide)]
    rfl
  case mboxOut =>
    rintro c cycles aon w len s _ _ _ _ _ hfetch rfl rfl rfl rfl rfl
    have hcsr := (State.writesCsr_of_mailboxKind hfetch.2).2 hfetch.kind
    rw [exec_tmboutWrite_of_next hfetch (State.execRv_csr hcsr (State.csrRead_mboxOut ..) (by decide)), State.csrOperand_chnClock,
      State.csrWrite_mboxOut, State.writesInstret_of_writesCsr hcsr (by decide)]
    rfl
  case tdrain =>
    intro c cycles aon w len s hfetch hf7 hrd hrs2 hv hdrained
    obtain ⟨hop, hf3⟩ := (State.custom_of_queueKind hfetch.2).2 hfetch.kind
    have hreg := s.reg_chnClock c cycles aon
    have hrun := State.execRv_tdrain (s := s.chnClock c cycles aon) (pc := (s.chn c).pc) (len := len) hop hf3 hf7 hrd hrs2
      (by rwa [hreg]) (by rw [hreg]; exact hdrained)
    exact exec_of_chnNext_plain rfl hfetch (by omega) hrun
  case tdesc =>
    rintro c cycles aon w len _ _ s hfetch hf7 rfl rfl hv halign hlo hhi hon hfree
    obtain ⟨hop, hf3⟩ := (State.custom_of_queueKind hfetch.2).1 hfetch.kind
    have hreg := s.reg_chnClock c cycles aon
    obtain ⟨t, ht, hmem, hdesc⟩ := State.execTdesc_of_free (s := s.chnClock c cycles aon) (Rv.rdOf w)
      ((s.chn c).pc + BitVec.ofNat 64 len) (State.dmTrap_of_inside halign hlo hhi) ((State.disabledOf_chnClock ..).trans hon)
      fun m hm => State.DescFree.congr (hfree m (State.mem_maskCores.1 hm).1 (State.mem_maskCores.1 hm).2) rfl
    have hrun : (s.chnClock c cycles aon).execRv c w (s.chn c).pc len
        = .next (t.modChn c fun h => h.setReg (Rv.rdOf w) 0) ((s.chn c).pc + BitVec.ofNat 64 len) := by
      rw [State.execRv_tdesc hop hf3 hf7 (by rwa [hreg]), hreg, hreg, ht]
    refine ⟨_, exec_of_chnNext_plain rfl hfetch (by omega) hrun, hmem, (State.chnRetire_keeps ..).2.2.2, ?_, fun core i => ?_⟩
    · rw [State.reg_chnRetire, State.chn_modChn, if_pos rfl, Chanter.reg_setReg_self, ite_self]
    · rw [State.tdescSource, (State.chnClock_keeps ..).2.1] at hdesc
      exact hdesc core i

end Sys2Proof.Machine

namespace Sys2Proof.Machine

/-! SUPPORT. A context start: what it does to a cluster's Chanter and cores, and what it leaves (R148, R227, R238, R272). -/

/-- Writes of some copies of one register leave memory, the clusters, and every other register. -/
theorem State.foldl_wr_keeps {q : Reg} (copy : Nat → Nat) (v : State → Nat → Word) (xs : List Nat) (s : State) :
    (xs.foldl (fun t x => t.wr q (copy x) (v t x)) s).mem = s.mem
      ∧ (xs.foldl (fun t x => t.wr q (copy x) (v t x)) s).clusters = s.clusters
      ∧ ∀ r i, r ≠ q → (xs.foldl (fun t x => t.wr q (copy x) (v t x)) s).rd r i = s.rd r i := by
  induction xs generalizing s with
  | nil => exact ⟨rfl, rfl, fun _ _ _ => rfl⟩
  | cons x xs ih =>
    obtain ⟨hmem, hclusters, hrd⟩ := ih (s.wr q (copy x) (v s x))
    exact ⟨hmem, hclusters, fun r i hr => (hrd r i hr).trans (by rw [State.rd_wr, if_neg fun h => hr h.1.symm])⟩

theorem loadVecMode_keeps (s : State) (c : Nat) :
    (loadVecMode s c).mem = s.mem ∧ (loadVecMode s c).clusters = s.clusters
      ∧ ∀ r i, r ≠ .VEC_MODE → (loadVecMode s c).rd r i = s.rd r i := by
  unfold loadVecMode
  split
  · exact State.foldl_wr_keeps ..
  · exact ⟨rfl, rfl, fun _ _ _ => rfl⟩

/-- A core whose tokens and sequence numbers begin again (R227, R238). -/
def Core.Begun (x : Core) : Prop := x.tok = [] ∧ ∀ e, (SMap.get EngQ.reset x.q e).seq = 0

theorem begun_startCore (s : State) (k : Nat) : ((startCore s k).core k).Begun := by
  rw [startCore, State.core_modCore, if_pos rfl]
  refine ⟨rfl, fun e => ?_⟩
  rw [SMap.get_mapVals _ _ fun _ => rfl]

theorem Core.Begun.startCore {s : State} {i : Nat} (h : (s.core i).Begun) (k : Nat) : ((startCore s k).core i).Begun := by
  by_cases hi : i = k
  · subst hi
    exact begun_startCore s i
  · rwa [Machine.startCore, State.core_modCore, if_neg hi]

/-- The cores of a cluster that a context start goes through begin again. -/
theorem begun_startCores {c m : Nat} (xs : List Nat) (s : State) (h : m ∈ xs ∨ (s.core (8 * c + m)).Begun) :
    ((xs.foldl (fun t i => startCore t (8 * c + i)) s).core (8 * c + m)).Begun := by
  induction xs generalizing s with
  | nil => exact h.resolve_left List.not_mem_nil
  | cons x xs ih =>
    refine ih (startCore s (8 * c + x)) ?_
    rw [List.mem_cons] at h
    obtain (rfl | hm) | hbegun := h
    · exact .inr (begun_startCore ..)
    · exact .inl hm
    · exact .inr (hbegun.startCore _)

theorem startCores_keep (c : Nat) (xs : List Nat) (s : State) :
    (xs.foldl (fun t i => startCore t (8 * c + i)) s).mem = s.mem
      ∧ (xs.foldl (fun t i => startCore t (8 * c + i)) s).clusters = s.clusters
      ∧ (xs.foldl (fun t i => startCore t (8 * c + i)) s).regs = s.regs := by
  induction xs generalizing s with
  | nil => exact ⟨rfl, rfl, rfl⟩
  | cons x xs ih => exact ih (startCore s (8 * c + x))

/-- A Chanter at a context start, which begins at `pc` (R272). -/
def Chanter.begun (h : Chanter) (pc : DWord) : Chanter :=
  { h with x := [], pc := pc, mstatus := h.mstatus &&& ~~~8#64, mip := 0, tdispcnt := 0, resv := none, wfi := false, held := none }

/-- The state of a context start before its cores begin again. -/
def contextBegun (s : State) (c : Nat) : State :=
  ((loadVecMode (s.setFlag .CHN_CTRL c 0) c).modChn c fun h => h.begun (entryPc (loadVecMode (s.setFlag .CHN_CTRL c 0) c) c)).modKv c
    fun k => { k with gen := 0 }

theorem startContext_eq (s : State) (c : Nat) :
    startContext s c = (List.range 8).foldl (fun t i => startCore t (8 * c + i)) (contextBegun s c) := rfl

theorem mem_startContext (s : State) (c : Nat) : (startContext s c).mem = s.mem := by
  rw [startContext_eq, (startCores_keep ..).1]
  exact (loadVecMode_keeps ..).1

/-- Only the Chanter of the cluster begins. -/
theorem chn_startContext (s : State) (c d : Nat) :
    (startContext s c).chn d = if d = c then (s.chn c).begun (entryPc s c) else s.chn d := by
  obtain ⟨-, hclusters, hrd⟩ := loadVecMode_keeps (s.setFlag .CHN_CTRL c 0) c
  have hchn (e : Nat) : (loadVecMode (s.setFlag .CHN_CTRL c 0) c).chn e = s.chn e := by
    rw [State.chn, State.cluster, hclusters]
    rfl
  have hentry : entryPc (loadVecMode (s.setFlag .CHN_CTRL c 0) c) c = entryPc s c := by
    simp [entryPc, State.fld, hrd _ _ (show Reg.CHN_SLOT_CTRL ≠ .VEC_MODE by decide)]
  have hcores : (startContext s c).chn d = (contextBegun s c).chn d := by
    rw [startContext_eq, State.chn, State.cluster, (startCores_keep ..).2.1]
    rfl
  rw [hcores, contextBegun, State.chn_modKv, State.chn_modChn, hchn, hchn, hentry]

theorem running_startContext (s : State) (c : Nat) : (startContext s c).running c = true := by
  have hrd := (loadVecMode_keeps (s.setFlag .CHN_CTRL c 0) c).2.2 .CHN_CTRL c (by decide)
  have hbegun : (contextBegun s c).rd .CHN_CTRL c = (loadVecMode (s.setFlag .CHN_CTRL c 0) c).rd .CHN_CTRL c := rfl
  rw [State.running, State.flag, startContext_eq, State.rd_congr (startCores_keep ..).2.2, hbegun, hrd]
  simp

theorem begun_startContext (s : State) (c : Nat) {m : Nat} (hm : m < 8) : ((startContext s c).core (8 * c + m)).Begun :=
  begun_startCores _ _ (.inl (List.mem_range.2 hm))

/-! What the rows of the context and of its events answer. -/

theorem State.atBlock_of_reached {s : State} {b : Block} {i off : Nat} (f : State → State) (h : s.reached b i off = true) :
    s.atBlock b i off f = f s := if_pos h

theorem State.atBlock_of_unreached {s : State} {b : Block} {i off : Nat} (f : State → State) (h : s.reached b i off = false) :
    s.atBlock b i off f = s := if_neg (by simp [h])

theorem exec_chnRun (c : ClId) (run : Bool) (s : State) :
    exec (.chnRun c run) s = .next (s.atBlock .CHN c 0 fun s => chnRun s c run) := rfl

theorem chnRun_start_of_idle {s : State} {c : Nat} (hstopped : s.running c = false) (hidle : (s.chn c).ld = none) :
    chnRun s c true = startContext s c := by
  simp [chnRun, hstopped, hidle]

theorem exec_chnRun_of_idle {c : ClId} {s : State} (hreach : s.reached .CHN c 0 = true) (hstopped : s.running c = false)
    (hidle : (s.chn c).ld = none) : exec (.chnRun c true) s = .next (startContext s c) := by
  rw [exec_chnRun, State.atBlock_of_reached _ hreach, chnRun_start_of_idle hstopped hidle]

/-- Settles O18, from what a context start does to the cluster's Chanter and to each of its cores. -/
theorem contextStartClearsWhatTheSpecNames : Obligations.ContextStartClearsWhatTheSpecNames := by
  unfold Obligations.ContextStartClearsWhatTheSpecNames
  intro c s hreach hstopped hidle
  have hchn := chn_startContext s c c
  rw [if_pos rfl] at hchn
  have hmie : bit ((s.chn c).mstatus &&& ~~~8#64) 3 = false := by simp [bit]
  have hreg (r : Nat) : ((s.chn c).begun (entryPc s c)).reg r = 0 := ite_self _
  refine ⟨_, exec_chnRun_of_idle hreach hstopped hidle, running_startContext s c, ?_⟩
  rw [hchn]
  refine ⟨rfl, hreg, hmie, rfl, rfl, rfl, fun k eng id hk => ?tokens, fun k eng hk => ?seq, mem_startContext s c, rfl, fun d hd => ?others⟩
  case tokens => rw [State.tok, (begun_startContext s c hk).1, SMap.get_nil]
  case seq => exact (begun_startContext s c hk).2 eng
  case others => rw [chn_startContext, if_neg hd]

end Sys2Proof.Machine

namespace Sys2Proof.Machine

/-! SUPPORT. The Chanter's events, slots and loader: what each row answers under its guard (R263, R266, R267, R271 to R273, R279, R280). -/

section Events

variable {s : State} {c : Nat} {cycles aon b : Nat}

theorem dispatchHeldRelease_of_room {d : HeldDispatch} (hheld : (s.chn c).held = some d) (hrun : s.running c = true)
    (hroom : s.hasRoom c d.word = true) : dispatchHeldRelease s c cycles aon =
      let r := (((s.chnTick c cycles aon).countHold c cycles).modChn c fun h => { h with held := none }).dispatch c d.word
        (d.pc + BitVec.ofNat 64 d.len)
      r.1.chnRetire c r.2 false := by
  simp only [dispatchHeldRelease, hheld, hrun, hroom, Bool.and_self, if_true]

theorem chanterTimer_of_before (h : (s.chnTime c).toNat < (s.chn c).tmtimecmp.toNat) :
    chanterTimer s c = s.modChn c fun h => { h with time := h.tmtimecmp } := if_pos h

theorem chanterInterruptTaken_of_pending (htop : topInterrupt s c = some b) (hrun : s.running c = true)
    (hmie : bit (s.chn c).mstatus 3 = true) : chanterInterruptTaken s c cycles aon =
      (if (s.chn c).held.isSome then (s.chnTick c cycles aon).countHold c cycles else s.chnTick c cycles aon).modChn c fun h =>
        { h with
          held := none, wfi := false, resv := none, mepc := h.pc, mcause := BitVec.ofNat 64 (2 ^ 63 + b), mtval := 0
          mstatus := 0x1880#64
          pc := (h.mtvec &&& ~~~3#64) + (if bit h.mtvec 0 then BitVec.ofNat 64 (4 * b) else 0) } := by
  simp only [chanterInterruptTaken, htop, hrun, hmie, Bool.and_self, if_true]

theorem chnRun_start_of_loading {l : Load} (hstopped : s.running c = false) (hload : (s.chn c).ld = some l) (hin : l.out = false)
    (htarget : l.target = if (s.chn c).active then 1 else 0) :
    chnRun s c true = s.modChn c fun h => { h with ld := some { l with startAfter := true } } := by
  have hactive : l.target ≤ 1 ∧ decide (l.target = 1) = (s.chn c).active := by
    rw [htarget]
    cases (s.chn c).active <;> decide
  simp [chnRun, hstopped, hload, hin, hactive]

theorem chnRun_halt (s : State) (c : Nat) : chnRun s c false = ((s.endHold c).modChn c fun h =>
    { h with held := none, ld := h.ld.map fun l => { l with startAfter := false } }).clrFlag .CHN_CTRL c 0 := rfl

end Events

theorem exec_dispatchHeldRelease (c : ClId) (cycles aon : Nat) (s : State) :
    exec (.dispatchHeldRelease c cycles aon) s = .next (dispatchHeldRelease s c cycles aon) := rfl

theorem exec_chanterTimer (c : ClId) (s : State) : exec (.chanterTimer c) s = .next (chanterTimer s c) := rfl

theorem exec_chanterInterruptTaken (c : ClId) (cycles aon : Nat) (s : State) :
    exec (.chanterInterruptTaken c cycles aon) s = .next (chanterInterruptTaken s c cycles aon) := rfl

theorem exec_chnMboxSet (c : ClId) (v : Word) (s : State) :
    exec (.chnMboxSet c v) s = .next (s.atBlock .CHN c 0 fun s => chnMboxSet s c v) := rfl

/-- Settles O17, event by event from its guard. -/
theorem chanterEventsComplete : Obligations.ChanterEventsComplete := by
  unfold Obligations.ChanterEventsComplete
  refine ⟨?held, ?timer, ?interrupt, ?mbox, ?start, ?loading, ?halt, ?unreached⟩
  case held =>
    intro c cycles aon d s hheld hrun hroom
    rw [exec_dispatchHeldRelease, dispatchHeldRelease_of_room hheld hrun hroom]
  case timer =>
    intro c s hbefore
    rw [exec_chanterTimer, chanterTimer_of_before hbefore]
  case interrupt =>
    intro c cycles aon b s htop hrun hmie
    rw [exec_chanterInterruptTaken, chanterInterruptTaken_of_pending htop hrun hmie]
  case mbox =>
    intro c v s hreach
    rw [exec_chnMboxSet, State.atBlock_of_reached _ hreach, chnMboxSet]
  case start => exact fun c s hreach hstopped hidle => exec_chnRun_of_idle hreach hstopped hidle
  case loading =>
    intro c l s hreach hstopped hload hin htarget
    rw [exec_chnRun, State.atBlock_of_reached _ hreach, chnRun_start_of_loading hstopped hload hin htarget]
  case halt =>
    intro c s hreach
    rw [exec_chnRun, State.atBlock_of_reached _ hreach, chnRun_halt]
  case unreached =>
    intro c v run s hreach
    rw [exec_chnMboxSet, exec_chnRun, State.atBlock_of_unreached _ hreach, State.atBlock_of_unreached _ hreach]
    exact ⟨rfl, rfl⟩

section Slots

variable {s : State} {c : Nat} {v : Word} {l : Load}

theorem slotArm_of_idle (harm : bit v 31 = true) (hfree : (s.chn c).armed = false) (hidle : (s.chn c).ld = none) :
    slotArm s c v = (s.setFld .CHN_SLOT_CTRL c 16 2 (bits v 16 2)).modChn c fun h => { h with armed := true } := by
  simp [slotArm, harm, hfree, hidle]

theorem slotArm_of_loading (harm : bit v 31 = true) (hfree : (s.chn c).armed = false) (hload : (s.chn c).ld = some l)
    (htarget : l.target = loadable s c) (hin : l.out = false) :
    slotArm s c v = (s.setFld .CHN_SLOT_CTRL c 16 2 (bits v 16 2)).setFlag .CHN_STATUS c 31 := by
  have hsame : loadable (s.setFld .CHN_SLOT_CTRL c 16 2 (bits v 16 2)) c = loadable s c := rfl
  simp [slotArm, harm, hfree, hload, htarget, hin, hsame]

theorem slotArm_of_armed (v : Word) (h : (s.chn c).armed = true) : slotArm s c v = s := by
  simp [slotArm, h]

theorem slotDisarm_of_disarm (h : bit v 30 = true) :
    slotDisarm s c v = (s.setFld .CHN_SLOT_CTRL c 16 2 (bits v 16 2)).modChn c fun h => { h with armed := false } := if_pos h

/-- GO of an idle loader: the guards of R266 and R279 in their order, on the registers with `LENGTH` as written. -/
theorem loaderGo_of_idle {u : State} (hgo : bit v 31 = true) (hidle : (s.chn c).ld = none)
    (hu : u = s.setFld .CHN_LD_LEN c 18 4 (bits v 18 4)) {t off len : Nat} {out : Bool} (ht : t = u.fld .CHN_LD_DST c 31 30)
    (hout : out = u.flag .CHN_LD_DST c 29) (hoff : off = u.fld .CHN_LD_DST c 17 4) (hlen : len = u.fld .CHN_LD_LEN c 18 4)
    (hl : l = ⟨t, out, 16 * off, 16 * len, u.fld .CHN_LD_SRC_LO c 31 4 * 16 + u.fld .CHN_LD_SRC_HI c 15 0 * 2 ^ 32, false⟩) :
    loaderGo s c v =
      if t = 3 ∨ (out ∧ t ≤ 1) ∨ (if t ≤ 1 then 8192 else 16384) < off + len then loadRefused u c 26
      else if t ≤ 1 ∧ ((decide (t = 1) = (s.chn c).active ∧ s.running c) ∨ (decide (t = 1) ≠ (s.chn c).active ∧ (s.chn c).armed))
        then loadRefused u c 31
      else if len = 0 then loadEnd u c l false else u.modChn c fun h => { h with ld := some l } := by
  have hrunning : u.running c = s.running c := by simp [hu, State.running, State.flag]
  have hguard : ¬ (!bit v 31 ∨ (s.chn c).ld.isSome) := by simp [hgo, hidle]
  subst hl hlen hoff hout ht
  rw [loaderGo, if_neg hguard, ← hu, ← hrunning]

/-- A load whose bytes all lie in the device map moves them, and is pending as LOADED (R279). -/
theorem loadEnd_of_inMap (s : State) (c : Nat) (hmap : inMap l.src l.len = true) (hnow : l.startAfter = false) :
    loadEnd s c l false = ((loadMove s c l).setFlag .CHN_STATUS c 27).modChn c fun h => { h with ld := none, mip := setBit h.mip 19 } := by
  simp [loadEnd, hmap, hnow]

/-- A load that meets no detection ends without an error. -/
theorem loaderDone_of_clean (hload : (s.chn c).ld = some l) : loaderDone s c [] = loadEnd s c l false := by
  simp [loaderDone, hload, loaderMetAll]

end Slots

theorem exec_slotArm (c : ClId) (v : Word) (s : State) :
    exec (.slotArm c v) s = .next (s.atBlock .CHN c 0 fun s => slotArm s c v) := rfl

theorem exec_slotDisarm (c : ClId) (v : Word) (s : State) :
    exec (.slotDisarm c v) s = .next (s.atBlock .CHN c 0 fun s => slotDisarm s c v) := rfl

theorem exec_loaderGo (c : ClId) (v : Word) (s : State) :
    exec (.loaderGo c v) s = .next (s.atBlock .CHN c 0 fun s => loaderGo s c v) := rfl

theorem exec_loaderDone (c : ClId) (hits : List Detection) (s : State) : exec (.loaderDone c hits) s = .next (loaderDone s c hits) := rfl

/-- Settles O19, write by write from its guards. -/
theorem slotsAndLoaderFollowTheirGuards : Obligations.SlotsAndLoaderFollowTheirGuards := by
  unfold Obligations.SlotsAndLoaderFollowTheirGuards
  refine ⟨?arm, ?busy, ?armed, ?disarm, ?unreached, ?go, ?done⟩
  case arm =>
    intro c v s hreach harm hfree hidle
    rw [exec_slotArm, State.atBlock_of_reached _ hreach, slotArm_of_idle harm hfree hidle]
  case busy =>
    intro c v l s hreach harm hfree hload htarget hin
    rw [exec_slotArm, State.atBlock_of_reached _ hreach, slotArm_of_loading harm hfree hload htarget hin]
  case armed =>
    intro c v s harmed
    rw [exec_slotArm, State.atBlock, slotArm_of_armed v harmed, ite_self]
  case disarm =>
    intro c v s hreach hdisarm
    rw [exec_slotDisarm, State.atBlock_of_reached _ hreach, slotDisarm_of_disarm hdisarm]
  case unreached =>
    intro c v s hreach
    rw [exec_slotArm, exec_slotDisarm, exec_loaderGo]
    simp only [State.atBlock_of_unreached _ hreach, and_self]
  case go =>
    intro c v s u hreach hgo hidle hu t out off len ht hout hoff hlen l hl
    rw [exec_loaderGo, State.atBlock_of_reached _ hreach, loaderGo_of_idle hgo hidle hu ht hout hoff hlen hl]
  case done =>
    intro c l s hload hmap hnow
    rw [exec_loaderDone, loaderDone_of_clean hload, loadEnd_of_inMap s c hmap hnow]

end Sys2Proof.Machine

namespace Sys2Proof.Machine

/-! SUPPORT. The memory hierarchy: the interleave of HBM over a die's stacks, the slots of a controller, the fills of the Data Cache,
and the segments of the Move Engine (R284 to R310). -/

namespace State

/-! The interleave (R284): stack and stack-local address give back the die, the unit of the die and the place in the unit. -/

theorem ilvUnit_pos (s : State) (d : Nat) : 0 < s.ilvUnit d := by
  unfold ilvUnit
  split <;> decide

theorem stackOf_fst_div (s : State) (a : Nat) : (s.stackOf a).1 / 6 = a / dieHbm := by
  simp only [stackOf]
  omega

theorem stackOf_fst_mod (s : State) (a : Nat) : (s.stackOf a).1 % 6 = a % dieHbm / s.ilvUnit (a / dieHbm) % 6 := by
  simp only [stackOf]
  omega

theorem stackOf_snd_div (s : State) (a : Nat) :
    (s.stackOf a).2 / s.ilvUnit (a / dieHbm) = a % dieHbm / s.ilvUnit (a / dieHbm) / 6 := by
  rw [stackOf, Nat.mul_comm (_ / 6), Nat.mul_add_div (s.ilvUnit_pos _), Nat.mod_div_self, Nat.add_zero]

theorem stackOf_snd_mod (s : State) (a : Nat) :
    (s.stackOf a).2 % s.ilvUnit (a / dieHbm) = a % dieHbm % s.ilvUnit (a / dieHbm) := by
  rw [stackOf, Nat.mul_add_mod', Nat.mod_mod]

theorem stackOf_injective (s : State) : Function.Injective s.stackOf := by
  intro a b h
  have hdie : a / dieHbm = b / dieHbm := by rw [← stackOf_fst_div s a, h, stackOf_fst_div]
  have hlane := stackOf_fst_mod s a
  have hround := stackOf_snd_div s a
  have hplace := stackOf_snd_mod s a
  rw [h, hdie, stackOf_fst_mod] at hlane
  rw [h, hdie, stackOf_snd_div] at hround
  rw [h, hdie, stackOf_snd_mod] at hplace
  have hunit : a % dieHbm / s.ilvUnit (b / dieHbm) = b % dieHbm / s.ilvUnit (b / dieHbm) :=
    Nat.ext_div_mod hround.symm hlane.symm
  exact Nat.ext_div_mod hdie (Nat.ext_div_mod hunit hplace.symm)

theorem stackOf_of_die (s : State) {d a : Nat} (hlo : d * dieHbm ≤ a) (hhi : a < (d + 1) * dieHbm) :
    s.stackOf a = (6 * d + (a - d * dieHbm) / s.ilvUnit d % 6,
      (a - d * dieHbm) / s.ilvUnit d / 6 * s.ilvUnit d + (a - d * dieHbm) % s.ilvUnit d) := by
  have hdie : a / dieHbm = d := Nat.div_eq_of_lt_le hlo hhi
  have hoff : a % dieHbm = a - d * dieHbm := by rw [Nat.mod_eq_sub_div_mul, hdie]
  rw [stackOf, hdie, hoff]

end State

/-- Settles O30: `State.stackOf` is injective on all addresses. -/
theorem stackInterleaveIsOneToOne : Obligations.StackInterleaveIsOneToOne := by
  unfold Obligations.StackInterleaveIsOneToOne
  exact fun s a b _ _ h => s.stackOf_injective h

/-- Settles O29, from the die's range. -/
theorem stackInterleaveSpreadsHbm : Obligations.StackInterleaveSpreadsHbm := by
  unfold Obligations.StackInterleaveSpreadsHbm
  intro s d a o u n _ hlo hhi ho hu hn
  have hunit : u = s.ilvUnit d := hu
  subst hn ho hunit
  exact s.stackOf_of_die hlo hhi

namespace State

variable {s : State}

/-! The slots of a controller (R286). -/

section Slots

variable {k cycles done : Nat} {arrivals : List Arrival} {t u : State} {x : Ctrl}

/-- The arrivals of a controller's own stack, one after the other. -/
def arriveAll (s : State) (k : Nat) (arrivals : List Arrival) : State :=
  (arrivals.filter fun x => 256 * x.block < hbmEnd && (s.stackOf (256 * x.block)).1 == k).foldl (fun s x => s.arrive k x) s

/-- Every request that a controller holds waits for some cycles. -/
def waitedCtrl (x : Ctrl) (cycles : Nat) : Ctrl := { x with held := x.held.map fun h => { h with waited := h.waited + cycles } }

/-- A slot of a controller has come free: the best held request that fits has it. -/
def grantSlot (s : State) (k : Nat) (y : Ctrl) : State :=
  match s.bestHeld y with
  | none => s.setCtrl k y
  | some h => s.setCtrl k ⟨y.held.erase h, y.accepted ++ [(h.core.val, h.block)]⟩

theorem hbmSlotGrant_of_absent (ht : t = s.arriveAll k arrivals) (hx : x = waitedCtrl (t.ctrl k) cycles)
    (hu : u = t.countSat .MEM_HOLD_COUNT k (cycles * (t.ctrl k).held.length))
    (h : x.accepted.find? (fun y => y.2 == done) = none) : s.hbmSlotGrant k arrivals cycles done = u.setCtrl k x := by
  subst hu hx ht
  simp only [hbmSlotGrant]
  split
  next => rfl
  next a hfound => exact absurd (hfound.symm.trans h) (Option.some_ne_none a)

theorem hbmSlotGrant_of_done {a : Nat × Nat} (ht : t = s.arriveAll k arrivals) (hx : x = waitedCtrl (t.ctrl k) cycles)
    (hu : u = t.countSat .MEM_HOLD_COUNT k (cycles * (t.ctrl k).held.length))
    (h : x.accepted.find? (fun y => y.2 == done) = some a) :
    s.hbmSlotGrant k arrivals cycles done = u.grantSlot k { x with accepted := x.accepted.erase a } := by
  subst hu hx ht
  simp only [hbmSlotGrant]
  split
  next hfound => exact absurd (h.symm.trans hfound) (Option.some_ne_none a)
  next b hfound =>
    obtain rfl : a = b := Option.some.inj (h.symm.trans hfound)
    rfl

end Slots

/-! The fills of the Data Cache (R296, R298, R307, R310). -/

section Fills

variable {core block fails : Nat} {t : State}

theorem crcFailures_zero (s : State) (core block : Nat) : s.crcFailures core block 0 = (s, true) := rfl

/-- One or two mismatches: a re-read brought the data. -/
theorem crcFailures_of_reread (s : State) (core block : Nat) (hbad : 0 < fails) (hgood : fails ≤ 2) :
    s.crcFailures core block fails = ((((s.countSat .MEM_CRC_COUNT (s.stackOf (256 * block)).1 fails).setFlag .MEM_STATUS
      (s.stackOf (256 * block)).1 31).post (dieOfCore core) .detectedRecomputed (BitVec.ofNat 32 (256 * block)) 0), true) := by
  rw [crcFailures, if_neg (Nat.ne_of_gt hbad), if_pos hgood]

theorem any_marked_eq_contains (l : List (Nat × Bool)) (block : Nat) :
    (l.any fun x => x.1 == block && x.2) = l.contains (block, true) := by
  rw [List.contains_eq_any_beq]
  refine congrArg l.any (funext fun ⟨b, marked⟩ => ?_)
  change (b == block && marked) = (block == b && true == marked)
  rw [BEq.comm, Bool.true_beq]

variable (hown : block * 256 / dieHbm = dieOfCore core)
  (ht : t = s.modCore core fun c => { c with miss := c.miss.filter fun x => x.1 != block })

include hown ht

theorem dataCacheMissFill_of_own (fails : Nat) : s.dataCacheMissFill core block fails =
    if (t.crcFailures core block (min fails 3)).2 && !(s.core core).miss.contains (block, true)
      then (t.crcFailures core block (min fails 3)).1.modCore core fun c => c.fill block
      else (t.crcFailures core block (min fails 3)).1 := by
  rw [dataCacheMissFill, if_neg (not_not_intro hown), ← ht, any_marked_eq_contains]

/-- A miss that no invalidation met fills a line once its data are good. -/
theorem dataCacheMissFill_of_good {u : State} (hlive : (s.core core).miss.contains (block, true) = false)
    (hcrc : t.crcFailures core block (min fails 3) = (u, true)) :
    s.dataCacheMissFill core block fails = u.modCore core fun c => c.fill block := by
  rw [dataCacheMissFill_of_own hown ht, hcrc, hlive]
  rfl

/-- A miss that an invalidation met frees its register and fills nothing. -/
theorem dataCacheMissFill_of_invalidated (fails : Nat) (hmet : (s.core core).miss.contains (block, true) = true) :
    s.dataCacheMissFill core block fails = (t.crcFailures core block (min fails 3)).1 := by
  rw [dataCacheMissFill_of_own hown ht, hmet, Bool.not_true, Bool.and_false, if_neg Bool.false_ne_true]

end Fills

/-! The segments of the Move Engine (R290, R299, R307, R308, R416). -/

section Segments

variable {core addr fails cycles : Nat} {f : Flight} {r : Nat × Nat} {d : Desc} {t u : State} {st : List Status}
  {v : State × List Status}

theorem segmentFailures_zero (s : State) (core addr : Nat) : s.segmentFailures core addr 0 = (s, true) := rfl

theorem segmentFailures_of_resent (s : State) (core addr : Nat) (hbad : 0 < fails) (hgood : fails ≤ 3) :
    s.segmentFailures core addr fails = ((s.setFlag .XFR_STATUS core 29).detected core, true) := by
  rw [segmentFailures, if_neg (Nat.ne_of_gt hbad), if_pos hgood]

theorem segmentFailures_of_lost (s : State) (core addr : Nat) (hlost : 3 < fails) :
    s.segmentFailures core addr fails = ((s.setFlag .XFR_STATUS core 29).restoreFor core addr, false) := by
  rw [segmentFailures, if_neg (Nat.ne_of_gt (Nat.zero_lt_of_lt hlost)), if_neg (Nat.not_le_of_gt hlost)]

theorem segmentLand_of_absent (fails cycles : Nat) (h : s.segmentAt core addr = none) :
    s.segmentLand core addr fails cycles = s := by
  rw [segmentLand, h]

/-- The cycles of an engine that finds no free tag, counted. -/
def countTagHold (s : State) (core cycles : Nat) : State :=
  if (s.core core).gthWait.isSome ∨ (s.tagsHeld core).2 < s.tagsWanted core 5 then s.countSat .XFR_TAG_HOLD core cycles else s

variable (hat : s.segmentAt core addr = some (f, r)) (ht : t = s.countTagHold core cycles)

include hat ht

theorem segmentLand_of_gone (fails : Nat) (hgone : t.sourceGone core f = true) : s.segmentLand core addr fails cycles
    = (t.tagFreed core 5).settle moveLand core 5 { f with segs := f.segs.erase r, met := f.met ++ [.faultAddress] } := by
  subst ht
  simp only [countTagHold] at hgone ⊢
  simp [segmentLand, hat, hgone]

variable (hsource : t.sourceGone core f = false)

include hsource

theorem segmentLand_of_landed (hd : d = f.descs.getLastD 0) (hcrc : t.segmentFailures core addr fails = (u, true))
    (hst : st = keepIf (fails ≠ 0) [.recomputed])
    (hv : v = u.landRanges core d [r] (if Tile.space d = 4 then f.img
      else imageOf u.mem [(phys core (Tile.space d) r.1, r.2)] (f.img.rdN r.1 r.2))) :
    s.segmentLand core addr fails cycles
      = (v.1.tagFreed core 5).settle moveLand core 5 { f with segs := f.segs.erase r, met := f.met ++ st ++ v.2 } := by
  subst ht hd hst hv
  simp only [countTagHold] at hsource hcrc
  simp [segmentLand, hat, hsource, hcrc]

theorem segmentLand_of_lost (hcrc : t.segmentFailures core addr fails = (u, false)) (hbad : fails ≠ 0) :
    s.segmentLand core addr fails cycles
      = (u.tagFreed core 5).settle moveLand core 5 { f with segs := f.segs.erase r, met := f.met ++ [.restored] } := by
  subst ht
  simp only [countTagHold] at hsource hcrc
  simp [segmentLand, hat, hsource, hcrc, hbad, keepIf]

end Segments

end State

theorem exec_hbmSlotGrant (k : StackId) (arrivals : List Arrival) (cycles done : Nat) (s : State) :
    exec (.hbmSlotGrant k arrivals cycles done) s = .next (s.hbmSlotGrant k arrivals cycles done) := rfl

theorem exec_dataCacheMissFill_clean (c : ClId) (k : Fin 8) (block : Nat) (n : Fin 3) (s : State) :
    exec (.dataCacheMissFill c k block false n) s = .next (s.dataCacheMissFill (8 * c + k) block 0) := rfl

theorem exec_dataCacheMissFill_bad (c : ClId) (k : Fin 8) (block : Nat) (n : Fin 3) (s : State) :
    exec (.dataCacheMissFill c k block true n) s = .next (s.dataCacheMissFill (8 * c + k) block (n + 1)) := rfl

theorem exec_segmentLand (core : CoreId) (addr : Nat) (fails : Fin 5) (cycles : Nat) (s : State) :
    exec (.segmentLand core addr ⟨fails, cycles⟩) s = .next (s.segmentLand core addr fails cycles) := rfl

theorem exec_stackOdeccReport (k : StackId) (s : State) :
    exec (.stackOdeccReport k) s = .next (s.countSat .MEM_ODECC_COUNT k 1) := rfl

/-- Settles O28, row by row from its guards. -/
theorem memoryRowsComplete : Obligations.MemoryRowsComplete := by
  unfold Obligations.MemoryRowsComplete
  refine ⟨?slots, ?fills, ?segments, exec_stackOdeccReport⟩
  case slots =>
    intro k arrivals cycles done a s t ht x hx u hu
    rw [exec_hbmSlotGrant]
    refine ⟨fun hnone => ?absent, fun hsome y hy => ?granted⟩
    case absent => rw [State.hbmSlotGrant_of_absent ht hx hu hnone]
    case granted =>
      subst hy
      rw [State.hbmSlotGrant_of_done ht hx hu hsome]
      rfl
  case fills =>
    intro c k core block n s t hcore hown ht
    rw [exec_dataCacheMissFill_clean, exec_dataCacheMissFill_bad, ← hcore]
    refine ⟨fun hlive => ⟨?clean, fun hn => ?reread⟩, fun hmet => ?invalidated⟩
    case clean => rw [State.dataCacheMissFill_of_good hown ht hlive (State.crcFailures_zero t core block)]
    case reread =>
      have hmin : min (n.val + 1) 3 = n.val + 1 := by omega
      have hcrc := State.crcFailures_of_reread (fails := n + 1) t core block (Nat.succ_pos _) (Nat.succ_le_of_lt hn)
      rw [State.dataCacheMissFill_of_good hown ht hlive ((congrArg _ hmin).trans hcrc)]
    case invalidated => rw [State.dataCacheMissFill_of_invalidated hown ht 0 hmet, Nat.zero_min, State.crcFailures_zero]
  case segments =>
    intro core addr fails cycles s
    rw [exec_segmentLand]
    refine ⟨fun hnone => ?absent, fun f r d t hat hd ht =>
      ⟨fun hgone => ?gone, fun hsource => ⟨?landed, fun hlost => ?lost⟩⟩⟩
    case absent => rw [State.segmentLand_of_absent _ _ hnone]
    case gone => rw [State.segmentLand_of_gone hat ht _ hgone]
    case landed =>
      rintro u st (⟨hzero, rfl, rfl⟩ | ⟨hbad, hgood, rfl, rfl⟩) v hv
      case inl =>
        rw [hzero, State.segmentLand_of_landed hat ht hsource hd (State.segmentFailures_zero ..) rfl hv]
        rfl
      case inr =>
        have hcrc := State.segmentFailures_of_resent t core addr hbad hgood
        rw [State.segmentLand_of_landed hat ht hsource hd hcrc (if_pos (decide_eq_true (Nat.ne_of_gt hbad))).symm hv]
    case lost =>
      have hcrc := State.segmentFailures_of_lost t core addr (fails := fails) (by omega)
      rw [State.segmentLand_of_lost hat ht hsource hcrc (by omega)]

end Sys2Proof.Machine

namespace Sys2Proof.Machine

/-! SUPPORT. Halyard: the three answers of an update command, the rows that start one, its release, and the flushes of staging
pages (R319 to R330, R340). -/

namespace State

/-! The result of a command (R322, R340). -/

section Results

variable (s : State) (c : Nat) (st : Status)

theorem rd_kvResult : (s.kvResult c st).rd .KVP_CMD_RESULT c
    = setBits (setBits (s.rd .KVP_CMD_RESULT c) 31 24 st.num) 0 0 0 := by
  unfold kvResult
  split <;> simp

@[simp] theorem fld_status_kvResult : (s.kvResult c st).fld .KVP_CMD_RESULT c 31 24 = st.num := by
  have hnum : st.num < 2 ^ 8 := by cases st <;> decide
  rw [fld, rd_kvResult, bits_setBits_disj _ _ _ _ _ _ (by decide) (by decide), bits_setBits _ _ _ _ (by decide) (by decide)]
  exact Nat.mod_eq_of_lt hnum

@[simp] theorem flag_busy_kvResult : (s.kvResult c st).flag .KVP_CMD_RESULT c 0 = false := by
  rw [flag, rd_kvResult, bit_setBits _ _ _ _ _ (by decide) (by decide)]
  rfl

@[simp] theorem mem_kvResult : (s.kvResult c st).mem = s.mem := by
  unfold kvResult
  split <;> rfl

@[simp] theorem kv_kvResult (i : Nat) : (s.kvResult c st).kv i = s.kv i := by
  unfold kvResult
  split <;> rfl

end Results

/-! Performed, held or refused (R319, R322). -/

/-- What a command of a cluster leads to: performed, with a generation of its own; held for an older walk; or refused. -/
inductive KvAnswer (s : State) (c : Nat) (g : Word) (t : State) : Prop where
  | performed (ok : t.fld .KVP_CMD_RESULT c 31 24 = 0) (idle : t.flag .KVP_CMD_RESULT c 0 = false) (gen : (t.kv c).gen = g)
  | held (busy : t.flag .KVP_CMD_RESULT c 0 = true) (mem : t.mem = s.mem) (kv : t.kv c = { s.kv c with held := true })
  | refused (bad : t.fld .KVP_CMD_RESULT c 31 24 ≠ 0) (idle : t.flag .KVP_CMD_RESULT c 0 = false) (mem : t.mem = s.mem)
    (kv : t.kv c = s.kv c)

section Runs

variable {s : State} {c seq : Nat} {entries : List Nat}

theorem kvRun_of_held (f : State → Word → State) (h : s.heldBy c seq entries = true) : s.kvRun c seq entries f = s.kvHold c :=
  if_pos h

theorem kvRun_of_free (f : State → Word → State) (h : s.heldBy c seq entries = false) :
    s.kvRun c seq entries f = (f s ((s.kv c).gen + 1)).kvDone c ((s.kv c).gen + 1) :=
  if_neg (ne_true_of_eq_false h)

end Runs

namespace KvAnswer

variable (s : State) (c : Nat) (g : Word)

theorem kvDone (t : State) : KvAnswer s c g (t.kvDone c g) :=
  performed (fld_status_kvResult ..) (flag_busy_kvResult ..) (by simp [State.kvDone])

theorem kvHold : KvAnswer s c g (s.kvHold c) :=
  held (by simp [State.kvHold, flag]) rfl (by simp [State.kvHold])

theorem kvResult {st : Status} (h : st.num ≠ 0) : KvAnswer s c g (s.kvResult c st) :=
  refused (by rwa [fld_status_kvResult]) (flag_busy_kvResult ..) (mem_kvResult ..) (kv_kvResult ..)

theorem kvRun (seq : Nat) (entries : List Nat) (f : State → Word → State) :
    KvAnswer s c ((s.kv c).gen + 1) (s.kvRun c seq entries f) := by
  cases h : s.heldBy c seq entries
  case false => rw [kvRun_of_free f h]; exact kvDone ..
  case true => rw [kvRun_of_held f h]; exact kvHold ..

variable {s c g}

/-- A check precedes a command. -/
theorem refusedIf {p : Prop} [Decidable p] {st : Status} {t : State} (hst : st.num ≠ 0) (ht : KvAnswer s c g t) :
    KvAnswer s c g (if p then s.kvResult c st else t) := by
  split
  · exact kvResult s c g hst
  · exact ht

variable (s c)

/-! Each command. -/

theorem kvOpen : KvAnswer s c ((s.kv c).gen + 1) (s.kvOpen c) := refusedIf (by decide) (kvRun ..)

theorem kvTrunc : KvAnswer s c ((s.kv c).gen + 1) (s.kvTrunc c) := refusedIf (by decide) (kvRun ..)

theorem kvClose : KvAnswer s c ((s.kv c).gen + 1) (s.kvClose c) := refusedIf (by decide) (kvRun ..)

theorem kvOffload : KvAnswer s c ((s.kv c).gen + 1) (s.kvOffload c) := refusedIf (by decide) (kvRun ..)

theorem kvAdopt : KvAnswer s c ((s.kv c).gen + 1) (s.kvAdopt c) :=
  refusedIf (by decide) (refusedIf (by decide) (kvRun ..))

theorem kvReset : KvAnswer s c 0 (s.kvReset c) :=
  refusedIf (by decide) (performed (fld_status_kvResult ..) (flag_busy_kvResult ..) (by simp))

/-- The command of whatever `OP` stands in `KVP_CMD0`; an `OP` that names none is refused. -/
theorem kvCommand : KvAnswer s c (if s.fld .KVP_CMD0 c 31 24 = 6 then 0 else (s.kv c).gen + 1) (s.kvCommand c) := by
  unfold State.kvCommand
  generalize hg : (if s.fld .KVP_CMD0 c 31 24 = 6 then 0 else (s.kv c).gen + 1) = g
  split
  case h_1 hop => rw [← hg, hop]; exact kvOpen s c
  case h_2 hop => rw [← hg, hop]; exact kvTrunc s c
  case h_3 hop => rw [← hg, hop]; exact kvClose s c
  case h_4 hop => rw [← hg, hop]; exact kvOffload s c
  case h_5 hop => rw [← hg, hop]; exact kvAdopt s c
  case h_6 hop => rw [← hg, hop]; exact kvReset s c
  case h_7 => exact kvResult s c g (by decide)

end KvAnswer

end State

/-! The rows that start a command (R322, R340). -/

/-- The six rows with the `OP` of each. -/
def kvRows (c : ClId) (cmd3 : Word) (walks : List Word) : List (Instr × Nat) :=
  [(.kvOpen c cmd3 walks, 1), (.kvTrunc c cmd3 walks, 2), (.kvClose c cmd3 walks, 3), (.kvOffload c cmd3 walks, 4),
    (.kvAdopt c cmd3 walks, 5), (.kvReset c cmd3 walks, 6)]

/-- The state that a command starts from: the active walks known, `KVP_CMD3` stored. -/
def kvStaged (s : State) (c : Nat) (cmd3 : Word) (walks : List Word) : State := (setWalks s c walks).wr .KVP_CMD3 c cmd3

section Starts

variable {i : Instr} {op : Nat} {c : ClId} {cmd3 : Word} {walks : List Word} {s : State}

theorem kv_kvStaged (s : State) (c : Nat) (cmd3 : Word) (walks : List Word) :
    (kvStaged s c cmd3 walks).kv c = { s.kv c with walks := walks } := by
  simp [kvStaged, setWalks]

theorem op_kvStaged (s : State) (c : Nat) (cmd3 : Word) (walks : List Word) :
    (kvStaged s c cmd3 walks).fld .KVP_CMD0 c 31 24 = s.fld .KVP_CMD0 c 31 24 := by
  simp [kvStaged, setWalks, State.fld]

theorem exec_kvRow (hrow : (i, op) ∈ kvRows c cmd3 walks) (s : State) :
    exec i s = .next (s.atBlock .KVP c 0 fun s => kvStart s c op cmd3 walks) := by
  simp only [kvRows, List.mem_cons, Prod.mk.injEq, List.not_mem_nil, or_false] at hrow
  rcases hrow with ⟨rfl, rfl⟩ | ⟨rfl, rfl⟩ | ⟨rfl, rfl⟩ | ⟨rfl, rfl⟩ | ⟨rfl, rfl⟩ | ⟨rfl, rfl⟩ <;> rfl

theorem exec_kvRow_of_unreached (hrow : (i, op) ∈ kvRows c cmd3 walks) (h : s.reached .KVP c 0 = false) : exec i s = .next s := by
  rw [exec_kvRow hrow, State.atBlock_of_unreached _ h]

theorem exec_kvRow_of_busy (hrow : (i, op) ∈ kvRows c cmd3 walks) (hreach : s.reached .KVP c 0 = true)
    (hbusy : s.flag .KVP_CMD_RESULT c 0 = true) (hop : s.fld .KVP_CMD0 c 31 24 = op) :
    exec i s = .next ((setWalks s c walks).setFlag .KVP_STATUS c 26) := by
  have hbusy' : (setWalks s c walks).flag .KVP_CMD_RESULT c 0 = true := hbusy
  rw [exec_kvRow hrow, State.atBlock_of_reached _ hreach, kvStart, if_neg (not_not_intro hop), if_pos hbusy']

theorem exec_kvRow_of_idle (hrow : (i, op) ∈ kvRows c cmd3 walks) (hreach : s.reached .KVP c 0 = true)
    (hidle : s.flag .KVP_CMD_RESULT c 0 = false) (hop : s.fld .KVP_CMD0 c 31 24 = op) :
    exec i s = .next ((kvStaged s c cmd3 walks).kvCommand c) := by
  have hidle' : (setWalks s c walks).flag .KVP_CMD_RESULT c 0 = false := hidle
  rw [exec_kvRow hrow, State.atBlock_of_reached _ hreach, kvStart, if_neg (not_not_intro hop), if_neg (ne_true_of_eq_false hidle')]
  rfl

end Starts

/-- Settles O32, from the three answers of `kvCommand`. -/
theorem kvCommandsArePerformedHeldOrRefused : Obligations.KvCommandsArePerformedHeldOrRefused := by
  unfold Obligations.KvCommandsArePerformedHeldOrRefused
  intro i op c cmd3 walks s hrow hreach hidle hop
  refine ⟨_, exec_kvRow_of_idle hrow hreach hidle hop, ?_⟩
  have hkv := kv_kvStaged s c cmd3 walks
  have hanswer := State.KvAnswer.kvCommand (kvStaged s c cmd3 walks) c
  rw [op_kvStaged, hop] at hanswer
  cases hanswer with
  | performed ok idle gen => rw [hkv] at gen; exact .inl ⟨ok, idle, gen⟩
  | held busy mem kv => rw [hkv] at kv; exact .inr (.inl ⟨busy, mem, kv⟩)
  | refused bad idle mem kv => exact .inr (.inr ⟨bad, idle, mem, kv.trans hkv⟩)

/-! The release of a held command, the Reclaim Queue and the flushes (R319, R320, R324, R328, R330). -/

theorem exec_kvUpdateRelease (c : ClId) (walks : List Word) (cycles : Nat) (s : State) :
    exec (.kvUpdateRelease c walks cycles) s = .next (kvRelease s c walks cycles) := rfl

theorem exec_reclaimToFree (c : ClId) (walks : List Word) (s : State) :
    exec (.reclaimToFree c walks) s = .next (((setWalks s c walks).reclaim c ((setWalks s c walks).kv c).reclaim.length).drainStages c) :=
  rfl

theorem exec_stagingFlush (c : ClId) (k : Fin 8) (walks : List Word) (cycles : Nat) (s : State) :
    exec (.stagingFlush c k walks cycles) s = .next (stagingFlush s c k walks cycles) := rfl

theorem exec_flushResume (c : ClId) (k : Fin 8) (walks : List Word) (cycles : Nat) (s : State) :
    exec (.flushResume c ⟨k, walks, cycles⟩) s = .next (flushResume s c k walks cycles) := rfl

section Flushes

variable {s u : State} {c k cycles : Nat} {walks : List Word} {sec : Bool}

theorem kvRelease_of_held (h : (s.kv c).held = true) : kvRelease s c walks cycles
    = (((setWalks s c walks).countSat .KVP_HOLD_COUNT c cycles).modKv c fun k => { k with held := false }).kvCommand c := if_pos h

variable (hu : u = setWalks s c walks)

include hu

section Full

variable (hnext : flushNext (u.stageOf c k) = some sec)

include hnext

theorem stagingFlush_of_free (hfree : u.flushHeld c k sec = false) : stagingFlush s c k walks cycles
    = (u.setStage c k ((u.stageOf c k).setPage sec { (u.stageOf c k).page sec with st := .flushing })).flushFrom c k sec := by
  subst hu
  simp [stagingFlush, hnext, hfree]

theorem stagingFlush_of_held (hheld : u.flushHeld c k sec = true) :
    stagingFlush s c k walks cycles = u.countSat .KVP_HOLD_COUNT c cycles := by
  subst hu
  simp [stagingFlush, hnext, hheld]

end Full

section Stalled

variable (hstalled : [false, true].find? (fun x => ((u.stageOf c k).page x).st == .stalled) = some sec)

include hstalled

theorem flushResume_of_free (hfree : u.flushHeld c k sec = false) : flushResume s c k walks cycles = u.flushFrom c k sec := by
  subst hu
  simp only [flushResume, hstalled, hfree, Bool.false_eq_true, if_false]

theorem flushResume_of_held (hheld : u.flushHeld c k sec = true) :
    flushResume s c k walks cycles = u.countSat .KVP_HOLD_COUNT c cycles := by
  subst hu
  simp only [flushResume, hstalled, hheld, if_true]

end Stalled

end Flushes

/-- Settles O31, row by row from its guards. -/
theorem kvCommandRowsComplete : Obligations.KvCommandRowsComplete := by
  unfold Obligations.KvCommandRowsComplete
  refine ⟨?started, ?notStarted, ?release, exec_reclaimToFree, ?flushes⟩
  case started =>
    intro c cmd3 walks s t hreach hidle ht
    subst ht
    have hstart {i : Instr} {op : Nat} (hrow : (i, op) ∈ kvRows c cmd3 walks) (hop : s.fld .KVP_CMD0 c 31 24 = op) :
        exec i s = .next ((kvStaged s c cmd3 walks).kvCommand c) := exec_kvRow_of_idle hrow hreach hidle hop
    refine ⟨hstart ?_, hstart ?_, hstart ?_, hstart ?_, hstart ?_, hstart ?_⟩ <;> simp [kvRows]
  case notStarted =>
    intro i op c cmd3 walks s hrow
    exact ⟨exec_kvRow_of_busy hrow, exec_kvRow_of_unreached hrow⟩
  case release =>
    intro c walks cycles s hheld
    rw [exec_kvUpdateRelease, kvRelease_of_held hheld]
  case flushes =>
    intro c k walks cycles sec s u hu
    rw [exec_stagingFlush, exec_flushResume]
    refine ⟨fun hnext => ⟨fun hfree => ?_, fun hheld => ?_⟩, fun hstalled => ⟨fun hfree => ?_, fun hheld => ?_⟩⟩
    · rw [stagingFlush_of_free hu hnext hfree]
    · rw [stagingFlush_of_held hu hnext hheld]
    · rw [flushResume_of_free hu hstalled hfree]
    · rw [flushResume_of_held hu hstalled hheld]

/-! KV_OPEN and KV_CLOSE (R314, R316, R317, R319, R322). -/

section Sequences

variable {c : ClId} {cmd3 : Word} {walks : List Word} {s : State}

theorem exec_kvOpen_of_idle (hreach : s.reached .KVP c 0 = true) (hidle : s.flag .KVP_CMD_RESULT c 0 = false)
    (hop : s.fld .KVP_CMD0 c 31 24 = 1) : exec (.kvOpen c cmd3 walks) s = .next ((kvStaged s c cmd3 walks).kvOpen c) := by
  have hrow : (Instr.kvOpen c cmd3 walks, 1) ∈ kvRows c cmd3 walks := by simp [kvRows]
  rw [exec_kvRow_of_idle hrow hreach hidle hop, State.kvCommand, op_kvStaged, hop]
  rfl

theorem exec_kvClose_of_idle (hreach : s.reached .KVP c 0 = true) (hidle : s.flag .KVP_CMD_RESULT c 0 = false)
    (hop : s.fld .KVP_CMD0 c 31 24 = 3) : exec (.kvClose c cmd3 walks) s = .next ((kvStaged s c cmd3 walks).kvClose c) := by
  have hrow : (Instr.kvClose c cmd3 walks, 3) ∈ kvRows c cmd3 walks := by simp [kvRows]
  rw [exec_kvRow_of_idle hrow hreach hidle hop, State.kvCommand, op_kvStaged, hop]
  rfl

end Sequences

/-- Settles O33: the arguments pass the checks of each command, and no older walk holds its run. -/
theorem kvOpenOpensAFreeSequence : Obligations.KvOpenOpensAFreeSequence := by
  unfold Obligations.KvOpenOpensAFreeSequence
  refine ⟨?opened, ?closed⟩
  case opened =>
    intro c cmd3 walks s u hreach hidle hop hu seq g rank list cap hseq hg hrank hlist hcap
      hcount hstate hg2 hgroups hlow hhigh hcap1 hcapMax halign hafter hfit hfree n hn
    obtain rfl : u = kvStaged s c cmd3 walks := hu
    obtain rfl : seq = (kvStaged s c cmd3 walks).kvSeq c := hseq
    subst hg hrank hlist hcap hn
    rw [exec_kvOpen_of_idle hreach hidle hop, State.kvOpen, if_neg ?passed, State.kvRun_of_free _ hfree]
    case passed => simp [hcount, hstate, hg2, hgroups, hlow, hhigh, hcap1, hcapMax, halign, hafter, hfit]
  case closed =>
    intro c cmd3 walks s u hreach hidle hop hu seq w1 n xs hseq hw hn hxs hcount hstate hfree t ht
    obtain rfl : u = kvStaged s c cmd3 walks := hu
    obtain rfl : seq = (kvStaged s c cmd3 walks).kvSeq c := hseq
    subst hw hn hxs ht
    rw [exec_kvClose_of_idle hreach hidle hop, State.kvClose, if_neg ?passed, State.kvRun_of_free _ hfree]
    case passed =>
      rcases hstate with hopen | hoffloaded
      · simp [hcount, hopen]
      · simp [hcount, hoffloaded]

end Sys2Proof.Machine

namespace Sys2Proof.Machine

/-! SUPPORT. Received frames: the rows that take one in, and what becomes of a frame whose type has no effect (R346 to R357). -/

namespace State

section Receiving

variable {s : State} {p : Nat} {f : Frame} {typ : Nat}

/-- A header of a known type, and of a known kind where it is a NOTICE's, is sound (R346, R348). -/
theorem sound_of_header (hver : hVer f.hdr = 1) (htyp : typ < 8) (hkind : typ = 7 → hOp f.hdr 3 0 ≤ 4) :
    (hVer f.hdr == 1 && decide (typ < 8) && !(typ == 7 && decide (4 < hOp f.hdr 3 0))) = true := by
  by_cases hnotice : typ = 7
  · simp [hver, hnotice, hkind hnotice]
  · simp [hver, htyp, hnotice]

/-- A WRITE, READ_REQ, READ_DATA or FLAG frame whose payload fails its CRC, or that names another incarnation of this device, is
dropped (R348, R357); only a COLL frame's failing CRC is followed up (R371). -/
theorem receive_of_bad (act : State → Nat → State × Ans) (hver : hVer f.hdr = 1) (htype : hType f.hdr = typ) (htyp : typ < 4)
    (hhere : s.passesOn f = false) (htaken : (s.linkTake p f).2 = true) (hbad : f.crcOk = false ∨ hDinc f.hdr ≠ s.ownInc) :
    s.receive p f typ act = (s.linkTake p f).1.dropped := by
  have hsound := sound_of_header (f := f) (typ := typ) hver (by omega) (by omega)
  have hnotColl : typ ≠ 4 := by omega
  have hnotAck : (typ == 5) = false := beq_false_of_ne (by omega)
  unfold receive
  simp only [htype, hsound, hhere, htaken, (s.linkTake_keeps p f).1]
  cases hcrc : f.crcOk
  case false => simp [hnotColl]
  case true =>
    have hdinc := hbad.resolve_left (by simp [hcrc])
    simp [hdinc, hnotAck]

/-- A frame that passes its checks but has no effect of its type: an ACK or a NACK acts on the flow that it answers (R355, R356),
and any other frame that is not the next of its flow is acknowledged alone, one that came before counted (R355). -/
theorem receive_apart (act : State → Nat → State × Ans) (h : s.Takes p f typ) (htyp : typ < 8)
    (hapart : typ = 5 ∨ typ = 6 ∨ ¬ s.InOrder p f) {t : State}
    (ht : t = ((s.linkTake p f).1.meetInc (frameKey f) (hSinc f.hdr)).1) :
    s.receive p f typ act =
      if typ = 5 then
        if hDinc f.hdr = 0 then (t.takeAckFrame (frameKey f) f.hdr).sendAck (frameKey f) false else t.takeAckFrame (frameKey f) f.hdr
      else if typ = 6 then t.takeNack (frameKey f) f.hdr
      else if wrapN 32 ((hPsn f.hdr : Int) - ((s.entered p f).flow (frameKey f)).expect) < 2 ^ 31 then
        (s.entered p f).sendAck (frameKey f) false
      else ((s.entered p f).countSat .FAB_DUP_COUNT 0 1).sendAck (frameKey f) (marked f && (typ == 0 || typ == 2 || typ == 4)) := by
  obtain ⟨hver, htype, hkind, hhere, htaken, hcrc, hdinc, hlost, hmet⟩ := h
  obtain ⟨hinc, hlostEq⟩ := s.linkTake_keeps p f
  have hsound := sound_of_header hver htyp hkind
  have hnamed : (hDinc f.hdr != s.ownInc && !(typ == 5 && hDinc f.hdr == 0)) = false := by
    rcases hdinc with hsame | ⟨hack, hprobe⟩
    · simp [hsame]
    · simp [hack, hprobe]
  have hknown : (s.isLost (hSrc f.hdr) && typ != 7) = false := by
    rcases hlost with h | h <;> simp [h]
  have hkey : flowKey (hDdie f.hdr) (hSrc f.hdr) (hSdie f.hdr) = frameKey f := rfl
  have hentered : (if hAckV f.hdr then t.takeAck (frameKey f) (hApsn f.hdr) else t) = s.entered p f := by rw [ht]; rfl
  unfold receive
  simp only [htype, hsound, hhere, htaken, hcrc, hinc, hlostEq, hnamed, hknown, hkey, hmet, ← ht, hentered]
  rcases hapart with rfl | rfl | hout
  · simp
  · simp
  · unfold InOrder at hout
    simp [hout]

end Receiving

end State

/-! The rows of received frames. -/

section FrameRows

variable {i : Instr} {p typ kind : Nat} {f : Frame} {ap : State → Nat → State × Ans} {act : State → Nat → Nat → Nat → State} {s : State}

theorem exec_frameRow (h : frameRow i = some (p, f, typ, ap)) (s : State) : exec i s = .next (s.receive p f typ ap) := by
  cases i <;> simp only [frameRow, Option.some.injEq, Prod.mk.injEq, reduceCtorEq] at h
  all_goals (obtain ⟨rfl, rfl, rfl, rfl⟩ := h; rfl)

theorem frameRow_type_lt (h : frameRow i = some (p, f, typ, ap)) : typ < 4 := by
  cases i <;> simp only [frameRow, Option.some.injEq, Prod.mk.injEq, reduceCtorEq] at h
  all_goals (obtain ⟨-, -, rfl, -⟩ := h; decide)

/-- No row's frame is a COLL frame: the mark counts for WRITE and READ_DATA alone (R354). -/
theorem frameRow_ece (h : frameRow i = some (p, f, typ, ap)) :
    (State.marked f && (typ == 0 || typ == 2 || typ == 4)) = (State.marked f && (typ == 0 || typ == 2)) := by
  have hnotColl : (typ == 4) = false := beq_false_of_ne (Nat.ne_of_lt (frameRow_type_lt h))
  rw [hnotColl, Bool.or_false]

/-- The PSN of a frame in order becomes the flow's next, and the answer is what its type's effect says (R355, R356). -/
theorem exec_frameRow_in_order (h : frameRow i = some (p, f, typ, ap)) (htakes : s.Takes p f typ) (horder : s.InOrder p f)
    {u : State} {a : Ans} (ha : ap (s.entered p f) (frameKey f) = (u, a)) :
    (a = .ack → exec i s = .next ((u.delivered (frameKey f)).sendAck (frameKey f) (State.marked f && (typ == 0 || typ == 2))))
      ∧ (a = .nack → exec i s = .next ((u.delivered (frameKey f)).sendNack (frameKey f) (hPsn f.hdr)))
      ∧ (a = .quiet → exec i s = .next (u.modFlow (frameKey f) fun x => { x with crcFail := 0 })) := by
  have htyp := frameRow_type_lt h
  rw [exec_frameRow h, State.receive_in_order ap htakes (by omega) (by omega) (by omega) horder, ha, frameRow_ece h]
  refine ⟨?ack, ?nack, ?quiet⟩ <;> rintro rfl <;> rfl

/-- The Collective Engines deliver after a COLL frame, taken or held (R366 to R371). -/
theorem exec_collFrameRx_in_order {p : PortId} (htakes : s.Takes p f 4) (horder : s.InOrder p f) {u : State} {a : Ans}
    (ha : State.applyColl f (s.entered p f) (frameKey f) = (u, a)) :
    (a = .ack → exec (.collFrameRx p f) s = .next (((u.delivered (frameKey f)).sendAck (frameKey f) (State.marked f)).deliverAll 8))
      ∧ (a = .hold → exec (.collFrameRx p f) s = .next (u.deliverAll 8)) := by
  have hexec : exec (.collFrameRx p f) s = .next ((s.receive p f 4 (State.applyColl f)).deliverAll 8) := rfl
  rw [hexec, State.receive_in_order _ htakes (by decide) (by decide) (by decide) horder, ha]
  refine ⟨?ack, ?hold⟩ <;> rintro rfl
  case ack => simp
  case hold => rfl

theorem exec_noticeRow (h : noticeRow i = some (p, f, kind, act)) (s : State) : exec i s = .next (s.receiveNotice p f kind act) := by
  cases i <;> simp only [noticeRow, Option.some.injEq, Prod.mk.injEq, reduceCtorEq] at h
  all_goals (obtain ⟨rfl, rfl, rfl, rfl⟩ := h; rfl)

/-- A notice of the row's own kind comes in as a frame of type 7. -/
theorem receiveNotice_of_kind (act : State → Nat → Nat → Nat → State) (hkind : hOp f.hdr 3 0 = kind) :
    s.receiveNotice p f kind act = s.receive p f 7 fun t _ =>
      (if (t.noticeIn f.hdr).2 then act (t.noticeIn f.hdr).1 (hOp f.hdr 49 32) (hOp f.hdr 79 64) (hOp f.hdr 25 8)
        else (t.noticeIn f.hdr).1, .ack) := by
  unfold State.receiveNotice
  rw [if_neg (by simp [hkind])]

/-- A notice in order has its effect once, and is acknowledged either way (R347, R362). -/
theorem exec_noticeRow_in_order (h : noticeRow i = some (p, f, kind, act)) (htakes : s.Takes p f 7) (hkind : hOp f.hdr 3 0 = kind)
    (horder : s.InOrder p f) {u : State} {new : Bool} (hin : (s.entered p f).noticeIn f.hdr = (u, new)) {t : State}
    (ht : t = if new then act u (hOp f.hdr 49 32) (hOp f.hdr 79 64) (hOp f.hdr 25 8) else u) :
    exec i s = .next ((t.delivered (frameKey f)).sendAck (frameKey f) false) := by
  rw [exec_noticeRow h, receiveNotice_of_kind act hkind,
    State.receive_in_order _ htakes (by decide) (by decide) (by decide) horder, hin, ht]
  simp

/-- An ACK acts on the flow that it answers, and a probe is answered (R355, R357). -/
theorem exec_ackRx_of_takes {p : PortId} (htakes : s.Takes p f 5) {t : State}
    (ht : t = ((s.linkTake p f).1.meetInc (frameKey f) (hSinc f.hdr)).1) :
    exec (.ackRx p f) s = .next (if hDinc f.hdr = 0 then
      (t.takeAckFrame (frameKey f) f.hdr).sendAck (frameKey f) false else t.takeAckFrame (frameKey f) f.hdr) :=
  congrArg Host.Outcome.next (State.receive_apart _ htakes (by decide) (.inl rfl) ht)

/-- A NACK ends its frame's instruction (R356). -/
theorem exec_nackRx_of_takes {p : PortId} (htakes : s.Takes p f 6) {t : State}
    (ht : t = ((s.linkTake p f).1.meetInc (frameKey f) (hSinc f.hdr)).1) :
    exec (.nackRx p f) s = .next (t.takeNack (frameKey f) f.hdr) :=
  congrArg Host.Outcome.next (State.receive_apart _ htakes (by decide) (.inr (.inl rfl)) ht)

end FrameRows

/-- Settles O34: the transport delivers the frame in order, and the row answers what its type's effect says. -/
theorem frameRowsDeliverInOrder : Obligations.FrameRowsDeliverInOrder := by
  unfold Obligations.FrameRowsDeliverInOrder
  exact ⟨fun i p typ f ap s u a h htakes horder => exec_frameRow_in_order h htakes horder,
    fun p f s u a htakes horder => exec_collFrameRx_in_order htakes horder⟩

/-- Settles O36: an ACK or a NACK acts apart from the order of its flow, and a notice is delivered in order. -/
theorem acknowledgementsAndNotices : Obligations.AcknowledgementsAndNotices := by
  unfold Obligations.AcknowledgementsAndNotices
  exact ⟨fun p f s t ht => ⟨fun htakes => exec_ackRx_of_takes htakes ht, fun htakes => exec_nackRx_of_takes htakes ht⟩,
    fun i p kind f act s u new h htakes hkind horder hin t ht => exec_noticeRow_in_order h htakes hkind horder hin ht⟩

/-- Settles O37: neither an early or repeated frame nor a bad one reaches its type's effect. -/
theorem repeatedAndEarlyFramesHaveNoEffect : Obligations.RepeatedAndEarlyFramesHaveNoEffect := by
  unfold Obligations.RepeatedAndEarlyFramesHaveNoEffect
  refine ⟨?outOfOrder, ?bad⟩
  case outOfOrder =>
    intro i p typ f ap s d h htakes hd hne
    have htyp := frameRow_type_lt h
    have hout : ¬ s.InOrder p f := by rwa [State.InOrder, ← hd]
    rw [exec_frameRow h, State.receive_apart ap htakes (by omega) (.inr (.inr hout)) rfl, if_neg (by omega), if_neg (by omega), ← hd,
      frameRow_ece h]
  case bad =>
    intro i p typ f ap s h hver htype hhere htaken hbad
    rw [exec_frameRow h, State.receive_of_bad ap hver htype (frameRow_type_lt h) hhere htaken hbad]
    rfl

end Sys2Proof.Machine

namespace Sys2Proof.Machine

/-! SUPPORT. What frames of the four queued types do: WRITE, READ_REQ, READ_DATA and FLAG (R346, R356). -/

namespace State

section Effects

variable {f : Frame} {s : State} {key : Nat}

/-- A write that reaches no Table Region meets none of their guards (R315). -/
theorem commitMem_refused (m : Memory) {rs : List (Nat × Nat)} (h : s.rawHits rs = []) : (s.commitMem m rs).2 = false := by
  simp [commitMem, keepTables, h]

/-- A WRITE inside the map that no Table Region refuses stores its data, before a notify (R220, R356). -/
theorem applyWrite_of_stored (hmap : inMap (hOp f.hdr 47 0) f.data.length = true)
    (hfree : s.rawHits [(hOp f.hdr 47 0, f.data.length)] = []) :
    (hNotify f.hdr = false → applyWrite f s key = (s.store (hOp f.hdr 47 0) f.data, .ack))
      ∧ (hNotify f.hdr = true → ∀ u, u = (s.store (hOp f.hdr 47 0) f.data).remoteUpdate (hOp f.hdr 59 58) (hOp f.hdr 57 48)
          (hSrc f.hdr) (hSdie f.hdr) true 1 → applyWrite f s key = (u.1, if u.2 then .ack else .nack)) := by
  have hnone := commitMem_refused (s.mem.wrN (hOp f.hdr 47 0) f.data) hfree
  refine ⟨fun hquiet => ?_, fun hnotify u hu => ?_⟩
  · simp [applyWrite, hmap, hnone, hquiet, store]
  · simp [applyWrite, hmap, hnone, hnotify, store, hu]

theorem applyWrite_of_outside (h : inMap (hOp f.hdr 47 0) f.data.length = false) : applyWrite f s key = (s, .nack) :=
  if_pos (by simp [h])

theorem applyReadReq_of_outside (h : inMap (hOp f.hdr 47 0) (4 * hOp f.hdr 74 64) = false) : applyReadReq f s key = (s, .nack) :=
  if_pos (by simp [h])

/-- The flow expects the next PSN before READ_DATA goes out, which so acknowledges the READ_REQ (R356). -/
theorem applyReadReq_of_inside (h : inMap (hOp f.hdr 47 0) (4 * hOp f.hdr 74 64) = true) :
    applyReadReq f s key = (((s.modFlow key fun x => { x with expect := x.expect + 1 }).queueFrame key 2
      (BitVec.ofNat 96 (hOp f.hdr 95 80 * 2 ^ 80)) (s.mem.rdN (hOp f.hdr 47 0) (4 * hOp f.hdr 74 64)) false none).1, .quiet) :=
  if_neg (by simp [h])

/-- READ_DATA of a tag in use lands in its instruction's image, and answers it (R356). -/
theorem applyReadData_of_tag {r : PeerRead} (h : (s.fab.reads.find? fun r => r.tag == hOp f.hdr 95 80 && r.key == key) = some r)
    {t : State} (ht : t = ((s.modFab fun x => { x with reads := x.reads.erase r }).modQ r.owner.1 r.owner.2.1 fun q => { q with
      flight := q.flight.map fun g => if g.seq = r.owner.2.2 then { g with img := g.img.wrN r.addr (f.data.take r.len) } else g })) :
    applyReadData f s key = (t.answer anyLand r.owner (key, r.psn) none, .ack) := by
  rw [applyReadData, h, ht]

end Effects

end State

/-- Settles O35, effect by effect from its guards. -/
theorem writeFramesWriteTheirData : Obligations.WriteFramesWriteTheirData := by
  unfold Obligations.WriteFramesWriteTheirData
  refine ⟨fun f s key => State.applyWrite_of_stored, fun f s key => State.applyWrite_of_outside,
    fun f s key => State.applyReadReq_of_inside, fun f s key => State.applyReadReq_of_outside,
    fun f s key r hr t => State.applyReadData_of_tag hr, ?flag⟩
  case flag =>
    rintro f s key u rfl
    rfl

end Sys2Proof.Machine

namespace Sys2Proof.Machine

/-! SUPPORT. The link's rows and the transport's timers: what each does where its guard lets it act (R344 to R363). -/

namespace State

/-! Control frames of a link, and its lanes (R349, R351, R352, R359). -/

section Links

variable {s : State} {p : Nat}

theorem lackRx_of_up (h : s.portUp p = true) (lseq : Nat) :
    s.lackRx p lseq = (s.modPort p fun x =>
      { x with tx := x.tx.filter fun f => !decide ((lseq + 65536 - f.lseq) % 65536 < 32768) }).linkRelease p := if_pos h

theorem creditRx_of_up (h : s.portUp p = true) (vc n : Nat) :
    s.creditRx p vc n = (s.modPort p fun x =>
      { x with credit := SMap.set 256 x.credit vc (min 256 (SMap.get 256 x.credit vc + n)) }).linkRelease p := if_pos h

theorem lanemapRx_of_new (h : s.portUp p = true) (hdirect : s.ethernet = false) {lanes : Nat} (hnew : (s.port p).lanes ≠ lanes) :
    s.lanemapRx p lanes = (((((s.modPort p fun x =>
      { x with retrain := if lanes = 15 then none else (List.range 4).find? (fun l => !lanes.testBit l) }).setLanes p lanes).setFlag
        .FAB_PORT_STATUS p (if lanes = 15 then 29 else 30)).emit (.control p 2 0 lanes)).nextRetrain p) :=
  if_neg (by simp [h, hdirect, hnew])

theorem linkAckTimer_of_up (h : s.portUp p = true) (hdirect : s.ethernet = false) :
    s.linkAckTimer p = s.emit (.control p 0 (((s.port p).rxSeq + 65535) % 65536) 0) := if_pos (by simp [h, hdirect])

theorem laneRetrainDone_of_lane (h : s.portUp p = true) {l : Nat} (hlane : (s.port p).retrain = some l) (farId : Nat) :
    s.laneRetrainDone p farId = ((((s.modPort p fun x => { x with retrain := none }).setLanes p 15).setFlag .FAB_PORT_STATUS p 29).emit
      (.control p 2 0 15)).nextRetrain p := by
  rw [laneRetrainDone, if_pos h, hlane]

/-- The ninth time that a frame lacks its LACK takes the port down; before that every frame goes again (R352). -/
theorem linkResendTimeout_of_cons {f : LinkFrame} {fs : List LinkFrame} (htx : (s.port p).tx = f :: fs) :
    s.linkResendTimeout p = if 8 ≤ f.resends then s.portDown p else (f :: fs).foldl
      (fun s g => s.emit (.direct p g.vc g.ttl g.lseq g.hdr g.data false))
      (((s.countSat .FAB_PORT_LRETRY p (fs.length + 1)).post (p / 6) .linkRetry (BitVec.ofNat 32 p)
        (BitVec.ofNat 32 (fs.length + 1))).modPort p fun x => { x with tx := x.tx.map fun g => { g with resends := g.resends + 1 } }) := by
  rw [linkResendTimeout, htx]
  rfl

/-- Training completes on an enabled port of a device with a valid ID (R342, R344, R349). -/
theorem portComesUp_of_trained (hdown : s.portUp p = false) (hen : s.flag .FAB_PORT_CTRL p 31 = true)
    (hvalid : s.flag .FAB_DEVID 0 31 = true) (hfree : s.portHeld p = false) (hsuits : s.idSuits = true) (farId : Nat) :
    s.portComesUp p farId = ((((s.modPort p fun _ => Port.reset).setFld .FAB_PORT_STATUS p 3 0 15).setFld .FAB_PORT_STATUS p 21 4
      (if s.ethernet then 0 else farId)).setFlag .FAB_PORT_STATUS p 31).countPorts := by
  rw [portComesUp, if_neg (by simp [hdown, hen, hvalid, hfree]), if_neg (by simp [hsuits])]
  rfl

/-! A frame for another device (R350, R351). -/

/-- The link counts a frame that it takes for another device, and keeps its input buffer. -/
theorem linkTake_passing {f : Frame} {rdst ttl vc lseq : Nat} (hlink : f.link = .direct rdst ttl vc lseq true false)
    (hother : rdst ≠ s.devId) (hup : s.portUp p = true) (hdirect : s.ethernet = false) (htaken : (s.linkTake p f).2 = true) :
    (s.linkTake p f).1 = s.modPort p fun x => { x with rxSeq := (x.rxSeq + 1) % 65536 } := by
  have hpasses : (s.modPort p fun x => { x with rxSeq := (x.rxSeq + 1) % 65536 }).passesOn f = true := by
    rw [passesOn, hlink]
    exact bne_iff_ne.2 hother
  by_cases hseq : lseq = (s.port p).rxSeq
  · simp [linkTake, hup, hlink, hdirect, hseq, hpasses]
  · simp [linkTake, hup, hlink, hdirect, hseq] at htaken

/-- It leaves by the candidate port of its path's hash, on the virtual channel of its class (R350). -/
theorem frameForward_of_route {f : Frame} {rdst ttl vc lseq : Nat} (hlink : f.link = .direct rdst ttl vc lseq true false)
    (hother : rdst ≠ s.devId) (hup : s.portUp p = true) (hdirect : s.ethernet = false) (htaken : (s.linkTake p f).2 = true)
    (httl : ttl ≠ 0) (hvalid : bit (SMap.get (0 : Word) s.fab.route rdst) 31 = true)
    (hsame : bit (SMap.get (0 : Word) s.fab.route rdst) 30 = false) {cs : List Nat}
    (hcs : cs = s.portsUp.filter (fun q => bit (SMap.get (0 : Word) s.fab.route rdst) q)) (hne : cs ≠ []) :
    s.frameForward p f = (s.linkTake p f).1.linkSend
      (cs.getD (pathHash (hSrc f.hdr) (hDst f.hdr) (vc / 2 % 2) % cs.length) 0)
      { lseq := 0, vc := 2 * (vc / 2 % 2) + vc % 2, ttl := ttl - 1, hdr := f.hdr, data := f.data, resends := 0
        back := some (p, vc, frameCredits f.data) } := by
  have htake := linkTake_passing hlink hother hup hdirect htaken
  have hroute : (s.linkTake p f).1.fab.route = s.fab.route := by rw [htake]; rfl
  have hports : (s.linkTake p f).1.portsUp = s.portsUp := by rw [htake]; rfl
  unfold frameForward
  simp only [hlink, hother, hup, hdirect, htaken, hroute, hports, hvalid, hsame, ← hcs, httl]
  simp [hne]

end Links

/-! The transport's timers (R354, R355, R358, R360). -/

section Timers

variable {s : State}

@[simp] theorem flow_modFlow_self (s : State) (k : Nat) (g : Flow → Flow) : (s.modFlow k g).flow k = g (s.flow k) :=
  SMap.get_set_self ..

/-- A flow with frames outstanding is sent again, its ports report how many frames each sends, and an ACK probes the peer. -/
theorem transportRto_of_outstanding {k : Nat} (hout : (s.flow k).unacked ≠ [] ∨ (s.flow k).backlog ≠ []) {t : State}
    (ht : t = (s.modFlow k fun f => { f with resent := false }).resend k) {ps : List Nat}
    (hps : ps = (s.flow k).unacked.filterMap (fun x => t.pickPort (keyDie k) t.devId (keyDev k) (frameClass x.typ))) :
    s.transportRto k = (ps.eraseDups.foldl (fun u p => u.post (p / 6) .linkRetry (BitVec.ofNat 32 p)
      (BitVec.ofNat 32 (ps.filter fun q => q == p).length)) t).sendAck k false := by
  subst hps ht
  have hnot : ¬((s.flow k).unacked = [] ∧ (s.flow k).backlog = []) := fun h => hout.elim (· h.1) (· h.2)
  unfold transportRto retryFlow
  dsimp only
  rw [if_neg hnot, flow_modFlow_self]

/-- The instruction that waits for the frame ends with TIMEOUT, one of a collective also marking its die (R358). -/
theorem fabricAckTimeout_of_waited {key psn core eng seq : Nat} {x : TxFrame} {g : Flight}
    (hx : ((s.flow key).unacked ++ (s.flow key).backlog).find? (fun x => x.psn == psn) = some x)
    (howner : x.owner = some (core, eng, seq))
    (hg : (s.q core eng).flight.find? (fun g => g.seq == seq && g.waits.contains (key, psn)) = some g) :
    s.fabricAckTimeout key psn = (s.flagIf (TW.opcode g.word == 0x98 || TW.opcode g.word == 0x99)
      .COL_STATUS (dieOfCore core) 27).endFlight core eng seq .timeout := by
  simp only [fabricAckTimeout, hx, howner, hg]

theorem lostPeerTimeout_of_outstanding {dev : Nat}
    (h : (s.fab.flows.any fun x => keyDev x.1 == dev && (x.2.unacked != [] || x.2.backlog != [])) = true) :
    s.lostPeerTimeout dev = s.reportLost dev false := if_pos h

theorem portsDownLost_of_all_down {dev : Nat} {ps : List Nat} (hdirect : s.ethernet = false)
    (hps : ps = (List.range 24).filter (fun p => s.fld .FAB_PORT_STATUS p 21 4 == dev)) (hne : ps ≠ [])
    (hdown : ∀ p ∈ ps, s.portUp p = false) : s.portsDownLost dev = s.reportLost dev false := by
  subst hps
  have hall := List.all_eq_true.2 fun p hp => congrArg (!·) (hdown p hp)
  exact if_pos (by simp only [hdirect, bne_iff_ne.2 hne, hall]; rfl)

end Timers

end State

/-- Settles O38, row by row from its guard. -/
theorem linkAndTransportTimerRowsComplete : Obligations.LinkAndTransportTimerRowsComplete := by
  unfold Obligations.LinkAndTransportTimerRowsComplete
  refine ⟨?upPort, fun _ _ => rfl, ?forward, ?resend, ?fec, ?retrainWrite, ?portUp, ?rto, ?ackTimeout, ?lostPeer, ?portsDown,
    fun _ _ _ _ => rfl⟩
  case upPort =>
    intro p s hup
    refine ⟨fun lseq => ?lack, fun vc n => ?credit, fun lanes hdirect hnew => ?lanemap, fun hdirect => ?ackTimer,
      fun lane m hlow => ?margin, fun l farId hlane => ?retrained⟩
    case lack => exact congrArg Host.Outcome.next (State.lackRx_of_up hup lseq)
    case credit => exact congrArg Host.Outcome.next (State.creditRx_of_up hup vc n)
    case lanemap => exact congrArg Host.Outcome.next (State.lanemapRx_of_new hup hdirect hnew)
    case ackTimer => exact congrArg Host.Outcome.next (State.linkAckTimer_of_up hup hdirect)
    case margin => exact congrArg Host.Outcome.next (if_pos hlow)
    case retrained => exact congrArg Host.Outcome.next (State.laneRetrainDone_of_lane hup hlane farId)
  case forward =>
    intro p f s rdst ttl vc lseq cls out cs hlink hother hup hdirect htaken httl hvalid hsame hcs hne hcls hout
    subst hcls hout
    exact congrArg Host.Outcome.next
      (State.frameForward_of_route hlink hother hup hdirect htaken httl hvalid hsame hcs hne)
  case resend =>
    intro p f fs s htx
    have hexec : exec (.linkResendTimeout p) s = .next (s.linkResendTimeout p) := rfl
    rw [hexec, State.linkResendTimeout_of_cons htx]
    exact ⟨fun hfew => by rw [if_neg (by omega)], fun hmany => by rw [if_pos hmany]⟩
  case fec =>
    rintro p lane n k s t rfl
    rfl
  case retrainWrite =>
    rintro req p v s t hreach rfl
    exact congrArg Host.Outcome.next (if_pos hreach)
  case portUp =>
    intro p farId s hdown hen hvalid hfree hsuits
    exact congrArg Host.Outcome.next (State.portComesUp_of_trained hdown hen hvalid hfree hsuits farId)
  case rto =>
    rintro die dev ddie k s t rfl hout ht ps hps
    exact congrArg Host.Outcome.next (State.transportRto_of_outstanding hout ht hps)
  case ackTimeout =>
    rintro die dev ddie psn k core eng seq x g s rfl hx howner hg
    exact congrArg Host.Outcome.next (State.fabricAckTimeout_of_waited hx howner hg)
  case lostPeer =>
    intro dev s h
    exact congrArg Host.Outcome.next (State.lostPeerTimeout_of_outstanding h)
  case portsDown =>
    intro dev ps s hdirect hps hne hdown
    exact congrArg Host.Outcome.next (State.portsDownLost_of_all_down hdirect hps hne hdown)

end Sys2Proof.Machine
